-- ==== Sys2Proof/Word.lean ====
section
/-!
DEFINITION. The word types of the machine, its identifiers (spec/01, R14), and the sparse map by number that the
state uses for every sparse collection: a list of key and value pairs with keys strictly rising.
Nothing here knows an instruction.
-/
namespace Sys2Proof

abbrev Byte := BitVec 8
abbrev Word32 := BitVec 32
abbrev Word64 := BitVec 64

/-- A general register number, `g0` to `g15` (R51). -/
abbrev Reg := Fin 16
/-- A segment register number, `s0` to `s7` (R51). -/
abbrev Seg := Fin 8
/-- A window-relative vector register number, `v0` to `v31` (R51). -/
abbrev VReg := Fin 32
/-- A tile slot number, `t0` to `t7` (R51). -/
abbrev Slot := Fin 8

/-- The operand width W (R51): `.w` is 32 bits, `.d` is 64 bits. -/
inductive Width | w32 | w64
  deriving DecidableEq, Repr

/-- How many bits the width names. -/
def Width.bits : Width → Nat
  | .w32 => 32
  | .w64 => 64

/-- Element types (R51, codes 0 to 10). -/
inductive ElemType | f32 | f16 | bf16 | e4m3 | e5m2 | i32 | i16 | i8 | ui8 | i4 | cb4
  deriving DecidableEq, Repr

/-- Ordering scopes (R51, R91, codes 0 to 6). -/
inductive Scope | cr | qd | n1 | n2 | cd | md | sy
  deriving DecidableEq, Repr

/-- A scope's code; each scope includes every scope with a smaller code (R91). -/
def Scope.code : Scope → Nat
  | .cr => 0 | .qd => 1 | .n1 => 2 | .n2 => 3 | .cd => 4 | .md => 5 | .sy => 6

/-- The ordering header of an extended form (R53). -/
structure Header where
  scope : Scope
  acq : Bool
  rel : Bool
  deriving DecidableEq, Repr

/-- The header of a form that carries none. -/
def Header.none : Header := ⟨.cr, false, false⟩

/-- The atomic operations (R61, codes 0 to 9). -/
inductive AmoOp | add | and | or | xor | min | max | minu | maxu | swap | fadd
  deriving DecidableEq, Repr

/-! ## Identifiers (R14) -/

/-- The core identifier of a thread identifier. -/
def coreOf (tid : Nat) : Nat := tid / 16
/-- The context number of a thread identifier. -/
def ctxOf (tid : Nat) : Nat := tid % 16
/-- The quad (caldera, row, column together) of a core identifier. -/
def quadOfCore (core : Nat) : Nat := core / 4
/-- The core within its quad. -/
def coreInQuad (core : Nat) : Nat := core % 4
/-- The caldera of a quad. -/
def calderaOf (quad : Nat) : Nat := quad / 1024
/-- The row of a quad in its caldera, 0 at the north edge. -/
def rowOf (quad : Nat) : Nat := quad / 32 % 32
/-- The column of a quad in its caldera, 0 at the west edge. -/
def colOf (quad : Nat) : Nat := quad % 32
/-- The quad at a caldera, row and column. -/
def quadAt (caldera row col : Nat) : Nat := caldera * 1024 + row * 32 + col
/-- The quad of the bridge port of a caldera: quad (31, 0), at the south-west corner (R86). -/
def bridgeQuad (caldera : Nat) : Nat := quadAt caldera 31 0
/-- The distance in hops of two quads of one caldera (R91). -/
def hopDistance (p q : Nat) : Nat :=
  (max (rowOf p) (rowOf q) - min (rowOf p) (rowOf q)) + (max (colOf p) (colOf q) - min (colOf p) (colOf q))

/-! ## Sparse maps -/

/-- A sparse map by number: pairs with keys strictly rising. -/
abbrev SMap (β : Type) := List (Nat × β)

namespace SMap

/-- The value at a key, if one is listed. -/
def find? {β : Type} : SMap β → Nat → Option β
  | [], _ => none
  | (k', v) :: t, k => if k = k' then some v else find? t k

/-- The value at a key, `d` where none is listed. -/
def getD {β : Type} (m : SMap β) (k : Nat) (d : β) : β := (m.find? k).getD d

/-- List a value at a key, in the key's place. -/
def put {β : Type} : SMap β → Nat → β → SMap β
  | [], k, v => [(k, v)]
  | (k', v') :: t, k, v =>
    if k < k' then (k, v) :: (k', v') :: t
    else if k = k' then (k, v) :: t
    else (k', v') :: put t k v

/-- Unlist a key. -/
def del {β : Type} : SMap β → Nat → SMap β
  | [], _ => []
  | (k', v') :: t, k => if k = k' then t else (k', v') :: del t k

/-- Keys strictly rising: the form in which equal maps are equal lists. -/
def sorted {β : Type} : SMap β → Bool
  | [] => true
  | [_] => true
  | (k, _) :: (k', v') :: t => decide (k < k') && sorted ((k', v') :: t)

/-- The value with the least key that satisfies a test, with its key. -/
def first? {β : Type} (p : Nat → β → Bool) : SMap β → Option (Nat × β)
  | [] => none
  | (k, v) :: t => if p k v then some (k, v) else first? p t

/-- The listed pairs that satisfy a test. -/
def keep {β : Type} (p : Nat → β → Bool) : SMap β → SMap β
  | [] => []
  | (k, v) :: t => if p k v then (k, v) :: keep p t else keep p t

/-- Change every listed value in place. -/
def mapVal {β : Type} (f : Nat → β → β) : SMap β → SMap β
  | [] => []
  | (k, v) :: t => (k, f k v) :: mapVal f t

/-- How many listed pairs satisfy a test. -/
def countP {β : Type} (p : Nat → β → Bool) (m : SMap β) : Nat := (m.keep p).length

end SMap

/-- The least number below `n` that satisfies a test. -/
def leastBelow (p : Nat → Bool) : Nat → Option Nat
  | 0 => none
  | n + 1 => match leastBelow p n with
    | some k => some k
    | none => if p n then some n else none

end Sys2Proof
end

