-- ==== Sys2Proof/Syntax.lean ====
section
/-!
DEFINITION. The syntax of the machine: every row of the opcode table is a constructor of `Instr`. A row that is an
instruction carries its operands as spec/03_words.md and the owning chapter lay them out; a row that is a step of
another agent (95_what_each_step_holds.md) carries the object it happens to and what comes from outside the machine.
-/
namespace Sys2Proof

/-- The command fields of `mma` (R301). -/
structure MmaFields where
  mm1 : BitVec 8
  km1 : BitVec 8
  nm1 : BitVec 8
  atype : ElemType
  btype : ElemType
  asrc : Bool
  aslot : Slot
  bsrc : Bool
  bslot : Slot
  gath : Bool
  idx : VReg
  zero : Bool
  deriving DecidableEq, Repr

/-- The command fields of `mmar` (R301). -/
structure MmarFields where
  mm1 : BitVec 8
  atype : ElemType
  asrc : Bool
  aslot : Slot
  gath : Bool
  idx : VReg
  zero : Bool
  deriving DecidableEq, Repr

/-- The command fields of `mvb` (R326). -/
structure MvbFields where
  wseg : Seg
  dseg : Seg
  accum : Bool
  vm1 : Fin 8
  wtype : ElemType
  atype : ElemType
  slog : Fin 16
  cm1 : BitVec 13
  rm1 : BitVec 19
  deriving DecidableEq, Repr

/-- 64-byte blocks on a link (R381). -/
abbrev Blocks := List (List Byte)

/-- Where a memory error stands (R392): a DRAM line, or by partition and core a scratchpad line, an accumulator word, a 64-byte
granule of a tile slot, a vector register, or a general register of a context. -/
inductive EccPlace
  | dram (line : Nat)
  /-- A DRAM line, in a read of it by a partition's vents (R336). -/
  | vent (p line : Nat)
  | spad (p core line : Nat)
  | acc (p core word : Nat)
  | tile (p core slot granule : Nat)
  | vreg (p core v : Nat)
  | reg (p core ctx r : Nat)
  /-- Another SRAM of a quad that R19 lists, in what it holds for a core. -/
  | sram (p core : Nat)
  deriving DecidableEq, Repr

/-- The instructions and the steps: one constructor per row of the opcode table. The instructions that a repetition's
block may hold (R317) stand first, then the other instructions, then the steps. -/
inductive Instr
  /-- ADD (R124). -/
  | add (w : Width) (d a b : Reg)
  /-- SUB (R124). -/
  | sub (w : Width) (d a b : Reg)
  /-- MUL (R124). -/
  | mul (w : Width) (d a b : Reg)
  /-- MULH (R124). -/
  | mulh (w : Width) (d a b : Reg)
  /-- MULHU (R124). -/
  | mulhu (w : Width) (d a b : Reg)
  /-- DIV (R125). -/
  | div (w : Width) (d a b : Reg)
  /-- DIVU (R125). -/
  | divu (w : Width) (d a b : Reg)
  /-- REM (R125). -/
  | rem (w : Width) (d a b : Reg)
  /-- REMU (R125). -/
  | remu (w : Width) (d a b : Reg)
  /-- ADDS (R127). -/
  | adds (w : Width) (d a b : Reg)
  /-- SUBS (R127). -/
  | subs (w : Width) (d a b : Reg)
  /-- AND (R124). -/
  | and (w : Width) (d a b : Reg)
  /-- OR (R124). -/
  | or (w : Width) (d a b : Reg)
  /-- XOR (R124). -/
  | xor (w : Width) (d a b : Reg)
  /-- ANDN (R124). -/
  | andn (w : Width) (d a b : Reg)
  /-- ORN (R124). -/
  | orn (w : Width) (d a b : Reg)
  /-- SHL (R126). -/
  | shl (w : Width) (d a b : Reg)
  /-- SHR (R126). -/
  | shr (w : Width) (d a b : Reg)
  /-- SAR (R126). -/
  | sar (w : Width) (d a b : Reg)
  /-- ROL (R126). -/
  | rol (w : Width) (d a b : Reg)
  /-- ROR (R126). -/
  | ror (w : Width) (d a b : Reg)
  /-- MIN (R124). -/
  | min (w : Width) (d a b : Reg)
  /-- MAX (R124). -/
  | max (w : Width) (d a b : Reg)
  /-- MINU (R124). -/
  | minu (w : Width) (d a b : Reg)
  /-- MAXU (R124). -/
  | maxu (w : Width) (d a b : Reg)
  /-- ABS (R124). -/
  | abs (w : Width) (d a : Reg)
  /-- CLZ (R124). -/
  | clz (w : Width) (d a : Reg)
  /-- CTZ (R124). -/
  | ctz (w : Width) (d a : Reg)
  /-- POPC (R124). -/
  | popc (w : Width) (d a : Reg)
  /-- BREV (R124). -/
  | brev (w : Width) (d a : Reg)
  /-- SEL (R128). -/
  | sel (w : Width) (d a b c : Reg)
  /-- MOV (R124). -/
  | mov (w : Width) (d a : Reg)
  /-- SEQ (R129). -/
  | seq (w : Width) (d a b : Reg)
  /-- SNE (R129). -/
  | sne (w : Width) (d a b : Reg)
  /-- SLT (R129). -/
  | slt (w : Width) (d a b : Reg)
  /-- SLTU (R129). -/
  | sltu (w : Width) (d a b : Reg)
  /-- SLE (R129). -/
  | sle (w : Width) (d a b : Reg)
  /-- SLEU (R129). -/
  | sleu (w : Width) (d a b : Reg)
  /-- ADD_LIT (R122). -/
  | addLit (w : Width) (d a : Reg) (lit : Word64)
  /-- SUB_LIT (R122). -/
  | subLit (w : Width) (d a : Reg) (lit : Word64)
  /-- MUL_LIT (R122). -/
  | mulLit (w : Width) (d a : Reg) (lit : Word64)
  /-- MULH_LIT (R122). -/
  | mulhLit (w : Width) (d a : Reg) (lit : Word64)
  /-- MULHU_LIT (R122). -/
  | mulhuLit (w : Width) (d a : Reg) (lit : Word64)
  /-- DIV_LIT (R122). -/
  | divLit (w : Width) (d a : Reg) (lit : Word64)
  /-- DIVU_LIT (R122). -/
  | divuLit (w : Width) (d a : Reg) (lit : Word64)
  /-- REM_LIT (R122). -/
  | remLit (w : Width) (d a : Reg) (lit : Word64)
  /-- REMU_LIT (R122). -/
  | remuLit (w : Width) (d a : Reg) (lit : Word64)
  /-- ADDS_LIT (R122). -/
  | addsLit (w : Width) (d a : Reg) (lit : Word64)
  /-- SUBS_LIT (R122). -/
  | subsLit (w : Width) (d a : Reg) (lit : Word64)
  /-- AND_LIT (R122). -/
  | andLit (w : Width) (d a : Reg) (lit : Word64)
  /-- OR_LIT (R122). -/
  | orLit (w : Width) (d a : Reg) (lit : Word64)
  /-- XOR_LIT (R122). -/
  | xorLit (w : Width) (d a : Reg) (lit : Word64)
  /-- ANDN_LIT (R122). -/
  | andnLit (w : Width) (d a : Reg) (lit : Word64)
  /-- ORN_LIT (R122). -/
  | ornLit (w : Width) (d a : Reg) (lit : Word64)
  /-- SHL_LIT (R126). -/
  | shlLit (w : Width) (d a : Reg) (lit : Word64)
  /-- SHR_LIT (R126). -/
  | shrLit (w : Width) (d a : Reg) (lit : Word64)
  /-- SAR_LIT (R126). -/
  | sarLit (w : Width) (d a : Reg) (lit : Word64)
  /-- ROL_LIT (R126). -/
  | rolLit (w : Width) (d a : Reg) (lit : Word64)
  /-- ROR_LIT (R126). -/
  | rorLit (w : Width) (d a : Reg) (lit : Word64)
  /-- MIN_LIT (R122). -/
  | minLit (w : Width) (d a : Reg) (lit : Word64)
  /-- MAX_LIT (R122). -/
  | maxLit (w : Width) (d a : Reg) (lit : Word64)
  /-- MINU_LIT (R122). -/
  | minuLit (w : Width) (d a : Reg) (lit : Word64)
  /-- MAXU_LIT (R122). -/
  | maxuLit (w : Width) (d a : Reg) (lit : Word64)
  /-- SEQ_LIT (R129). -/
  | seqLit (w : Width) (d a : Reg) (lit : Word64)
  /-- SNE_LIT (R129). -/
  | sneLit (w : Width) (d a : Reg) (lit : Word64)
  /-- SLT_LIT (R129). -/
  | sltLit (w : Width) (d a : Reg) (lit : Word64)
  /-- SLTU_LIT (R129). -/
  | sltuLit (w : Width) (d a : Reg) (lit : Word64)
  /-- SLE_LIT (R129). -/
  | sleLit (w : Width) (d a : Reg) (lit : Word64)
  /-- SLEU_LIT (R129). -/
  | sleuLit (w : Width) (d a : Reg) (lit : Word64)
  /-- ADD_IMM (R124). -/
  | addImm (w : Width) (d a : Reg) (imm : BitVec 14)
  /-- MUL_IMM (R124). -/
  | mulImm (w : Width) (d a : Reg) (imm : BitVec 14)
  /-- AND_IMM (R124). -/
  | andImm (w : Width) (d a : Reg) (imm : BitVec 14)
  /-- OR_IMM (R124). -/
  | orImm (w : Width) (d a : Reg) (imm : BitVec 14)
  /-- XOR_IMM (R124). -/
  | xorImm (w : Width) (d a : Reg) (imm : BitVec 14)
  /-- SHL_IMM (R126). -/
  | shlImm (w : Width) (d a : Reg) (sh : BitVec 6)
  /-- SHR_IMM (R126). -/
  | shrImm (w : Width) (d a : Reg) (sh : BitVec 6)
  /-- SAR_IMM (R126). -/
  | sarImm (w : Width) (d a : Reg) (sh : BitVec 6)
  /-- ROL_IMM (R126). -/
  | rolImm (w : Width) (d a : Reg) (sh : BitVec 6)
  /-- ROR_IMM (R126). -/
  | rorImm (w : Width) (d a : Reg) (sh : BitVec 6)
  /-- SEQ_IMM (R129). -/
  | seqImm (w : Width) (d a : Reg) (imm : BitVec 11)
  /-- SNE_IMM (R129). -/
  | sneImm (w : Width) (d a : Reg) (imm : BitVec 11)
  /-- SLT_IMM (R129). -/
  | sltImm (w : Width) (d a : Reg) (imm : BitVec 11)
  /-- SLTU_IMM (R129). -/
  | sltuImm (w : Width) (d a : Reg) (imm : BitVec 11)
  /-- SLE_IMM (R129). -/
  | sleImm (w : Width) (d a : Reg) (imm : BitVec 11)
  /-- SLEU_IMM (R129). -/
  | sleuImm (w : Width) (d a : Reg) (imm : BitVec 11)
  /-- BFX (R130). -/
  | bfx (w : Width) (d a : Reg) (lenM1 pos : BitVec 6)
  /-- BFI (R130). -/
  | bfi (w : Width) (d a : Reg) (lenM1 pos : BitVec 6)
  /-- SEXT (R130). -/
  | sext (w : Width) (d a : Reg) (lenM1 : BitVec 6)
  /-- ZEXT (R130). -/
  | zext (w : Width) (d a : Reg) (lenM1 : BitVec 6)
  /-- MOVI (R131). -/
  | movi (d : Reg) (imm : BitVec 19)
  /-- MOVI_LIT (R131). -/
  | moviLit (d : Reg) (lit : Word64)
  /-- SADDR (R132). -/
  | saddr (d : Reg) (seg : Seg) (imm : BitVec 14)
  /-- LD (R172). -/
  | ld (size : Fin 4) (sx : Bool) (seg : Seg) (d a : Reg) (off : BitVec 8)
  /-- LD_LIT (R172). -/
  | ldLit (size : Fin 4) (sx : Bool) (seg : Seg) (d a : Reg) (lit : Word64)
  /-- LD_ACQ (R172). -/
  | ldAcq (scope : Scope) (size : Fin 4) (sx : Bool) (seg : Seg) (d a : Reg) (off : BitVec 8)
  /-- LD_ACQ_LIT (R172). -/
  | ldAcqLit (scope : Scope) (size : Fin 4) (sx : Bool) (seg : Seg) (d a : Reg) (lit : Word64)
  /-- ST (R172). -/
  | st (size : Fin 4) (seg : Seg) (d a : Reg) (off : BitVec 8)
  /-- ST_LIT (R172). -/
  | stLit (size : Fin 4) (seg : Seg) (d a : Reg) (lit : Word64)
  /-- ST_REL (R172). -/
  | stRel (scope : Scope) (size : Fin 4) (seg : Seg) (d a : Reg) (off : BitVec 8)
  /-- ST_REL_LIT (R172). -/
  | stRelLit (scope : Scope) (size : Fin 4) (seg : Seg) (d a : Reg) (lit : Word64)
  /-- LDV (R173). -/
  | ldv (v : VReg) (seg : Seg) (a : Reg) (off : BitVec 7)
  /-- LDV_LIT (R173). -/
  | ldvLit (v : VReg) (seg : Seg) (a : Reg) (lit : Word64)
  /-- STV (R173). -/
  | stv (v : VReg) (seg : Seg) (a : Reg) (off : BitVec 7)
  /-- STV_LIT (R173). -/
  | stvLit (v : VReg) (seg : Seg) (a : Reg) (lit : Word64)
  /-- GATH (R174). -/
  | gath (t : ElemType) (v : VReg) (seg : Seg) (a : Reg) (idx : VReg)
  /-- SCAT (R174). -/
  | scat (t : ElemType) (v : VReg) (seg : Seg) (a : Reg) (idx : VReg)
  /-- SEGLD (R179). -/
  | segld (s : Seg) (a : Reg) (seg : Seg)
  /-- SEGST (R179). -/
  | segst (s : Seg) (a : Reg) (seg : Seg)
  /-- SEGSET (R179). -/
  | segset (s : Seg) (a b c : Reg)
  /-- KVTL (R186). -/
  | kvtl (d a b : Reg)
  /-- KVTW (R187). -/
  | kvtw (a b : Reg)
  /-- KVTI (R187). -/
  | kvti (a : Reg)
  /-- KRET (R188). -/
  | kret
  /-- CPY (R181). -/
  | cpy (h : Header) (d a b : Reg) (dseg sseg : Seg) (c : Reg)
  /-- CPY_LIT (R181). -/
  | cpyLit (h : Header) (d a b : Reg) (dseg sseg : Seg) (lit : Word64)
  /-- CPY2 (R182). -/
  | cpy2 (h : Header) (d a b : Reg) (dseg sseg : Seg) (c : Reg) (rowsM1 : BitVec 16) (rowBytes : BitVec 24)
  /-- CPY2_LIT (R182). -/
  | cpy2Lit (h : Header) (d a b : Reg) (dseg sseg : Seg) (lit : Word64) (rowsM1 : BitVec 16) (rowBytes : BitVec 24)
  /-- AMO (R192). -/
  | amo (op : AmoOp) (w : Width) (seg : Seg) (d a b : Reg)
  /-- AMO_ORDERED (R192). -/
  | amoOrdered (h : Header) (op : AmoOp) (w : Width) (seg : Seg) (d a b : Reg)
  /-- CAS (R193). -/
  | cas (w : Width) (seg : Seg) (d a b : Reg)
  /-- CAS_ORDERED (R193). -/
  | casOrdered (h : Header) (w : Width) (seg : Seg) (d a b : Reg)
  /-- RED (R194). -/
  | red (op : AmoOp) (w : Width) (seg : Seg) (a b : Reg)
  /-- RED_REL (R194). -/
  | redRel (scope : Scope) (op : AmoOp) (w : Width) (seg : Seg) (a b : Reg)
  /-- WAITW (R196). -/
  | waitw (w : Width) (seg : Seg) (d a b : Reg)
  /-- WAITW_ACQ (R196). -/
  | waitwAcq (scope : Scope) (w : Width) (seg : Seg) (d a b : Reg)
  /-- FENCE (R198). -/
  | fence (scope : Scope)
  /-- BFENCE (R199). -/
  | bfence (scope : Scope)
  /-- BAR (R202). -/
  | bar (d : Reg) (drain level : Bool) (index : Fin 16)
  /-- QPROBE (R207). -/
  | qprobe (d : Reg)
  /-- CHMAP_OUT (R225). -/
  | chmapOut (d a : Reg)
  /-- CHMAP_IN (R225). -/
  | chmapIn (d a : Reg)
  /-- CHUNMAP (R227). -/
  | chunmap (d : Reg)
  /-- CHSTAT (R228). -/
  | chstat (d a : Reg)
  /-- VADD (R290). -/
  | vadd (t : ElemType) (d a b : VReg)
  /-- VSUB (R290). -/
  | vsub (t : ElemType) (d a b : VReg)
  /-- VMUL (R290). -/
  | vmul (t : ElemType) (d a b : VReg)
  /-- VFMA (R290). -/
  | vfma (t : ElemType) (d a b : VReg)
  /-- VFMS (R290). -/
  | vfms (t : ElemType) (d a b : VReg)
  /-- VMAX (R290). -/
  | vmax (t : ElemType) (d a b : VReg)
  /-- VMIN (R290). -/
  | vmin (t : ElemType) (d a b : VReg)
  /-- VABS (R290). -/
  | vabs (t : ElemType) (d a : VReg)
  /-- VNEG (R290). -/
  | vneg (t : ElemType) (d a : VReg)
  /-- VADD_SAT (R290). -/
  | vaddSat (t : ElemType) (d a b : VReg)
  /-- VSUB_SAT (R290). -/
  | vsubSat (t : ElemType) (d a b : VReg)
  /-- VEXP2 (R291). -/
  | vexp2 (t : ElemType) (d a : VReg)
  /-- VLOG2 (R291). -/
  | vlog2 (t : ElemType) (d a : VReg)
  /-- VRCP (R291). -/
  | vrcp (t : ElemType) (d a : VReg)
  /-- VRSQ (R291). -/
  | vrsq (t : ElemType) (d a : VReg)
  /-- VCMP_EQ (R292). -/
  | vcmpEq (t : ElemType) (d a b : VReg)
  /-- VCMP_NE (R292). -/
  | vcmpNe (t : ElemType) (d a b : VReg)
  /-- VCMP_LT (R292). -/
  | vcmpLt (t : ElemType) (d a b : VReg)
  /-- VCMP_LE (R292). -/
  | vcmpLe (t : ElemType) (d a b : VReg)
  /-- VSEL (R292). -/
  | vsel (t : ElemType) (d a b : VReg)
  /-- VAND (R292). -/
  | vand (t : ElemType) (d a b : VReg)
  /-- VOR (R292). -/
  | vor (t : ElemType) (d a b : VReg)
  /-- VXOR (R292). -/
  | vxor (t : ElemType) (d a b : VReg)
  /-- VSHL (R292). -/
  | vshl (t : ElemType) (d a b : VReg)
  /-- VSHR (R292). -/
  | vshr (t : ElemType) (d a b : VReg)
  /-- VSAR (R292). -/
  | vsar (t : ElemType) (d a b : VReg)
  /-- VADD_LIT (R288). -/
  | vaddLit (t : ElemType) (d a : VReg) (lit : Word64)
  /-- VSUB_LIT (R288). -/
  | vsubLit (t : ElemType) (d a : VReg) (lit : Word64)
  /-- VMUL_LIT (R288). -/
  | vmulLit (t : ElemType) (d a : VReg) (lit : Word64)
  /-- VFMA_LIT (R288). -/
  | vfmaLit (t : ElemType) (d a : VReg) (lit : Word64)
  /-- VFMS_LIT (R288). -/
  | vfmsLit (t : ElemType) (d a : VReg) (lit : Word64)
  /-- VMAX_LIT (R288). -/
  | vmaxLit (t : ElemType) (d a : VReg) (lit : Word64)
  /-- VMIN_LIT (R288). -/
  | vminLit (t : ElemType) (d a : VReg) (lit : Word64)
  /-- VADD_SAT_LIT (R288). -/
  | vaddSatLit (t : ElemType) (d a : VReg) (lit : Word64)
  /-- VSUB_SAT_LIT (R288). -/
  | vsubSatLit (t : ElemType) (d a : VReg) (lit : Word64)
  /-- VCMP_EQ_LIT (R288). -/
  | vcmpEqLit (t : ElemType) (d a : VReg) (lit : Word64)
  /-- VCMP_NE_LIT (R288). -/
  | vcmpNeLit (t : ElemType) (d a : VReg) (lit : Word64)
  /-- VCMP_LT_LIT (R288). -/
  | vcmpLtLit (t : ElemType) (d a : VReg) (lit : Word64)
  /-- VCMP_LE_LIT (R288). -/
  | vcmpLeLit (t : ElemType) (d a : VReg) (lit : Word64)
  /-- VSEL_LIT (R288). -/
  | vselLit (t : ElemType) (d a : VReg) (lit : Word64)
  /-- VAND_LIT (R288). -/
  | vandLit (t : ElemType) (d a : VReg) (lit : Word64)
  /-- VOR_LIT (R288). -/
  | vorLit (t : ElemType) (d a : VReg) (lit : Word64)
  /-- VXOR_LIT (R288). -/
  | vxorLit (t : ElemType) (d a : VReg) (lit : Word64)
  /-- VSHL_LIT (R288). -/
  | vshlLit (t : ElemType) (d a : VReg) (lit : Word64)
  /-- VSHR_LIT (R288). -/
  | vshrLit (t : ElemType) (d a : VReg) (lit : Word64)
  /-- VSAR_LIT (R288). -/
  | vsarLit (t : ElemType) (d a : VReg) (lit : Word64)
  /-- VCVT (R293). -/
  | vcvt (t src : ElemType) (d a : VReg)
  /-- VCVT_SAT (R293). -/
  | vcvtSat (t src : ElemType) (d a : VReg)
  /-- VCVT_SR (R294). -/
  | vcvtSr (t : ElemType) (d a : VReg) (b : Reg)
  /-- VBCAST (R295). -/
  | vbcast (t : ElemType) (d : VReg) (a : Reg)
  /-- VMOVG (R295). -/
  | vmovg (t : ElemType) (d : Reg) (a : VReg) (b : Reg)
  /-- VSHUF (R295). -/
  | vshuf (t : ElemType) (d a b : VReg)
  /-- VSLIDE (R295). -/
  | vslide (t : ElemType) (d a : VReg) (b : Reg)
  /-- VIOTA (R295). -/
  | viota (t : ElemType) (d : VReg)
  /-- VREDSUM (R296). -/
  | vredsum (t : ElemType) (d a b : VReg)
  /-- VREDSUM_SAT (R296). -/
  | vredsumSat (t : ElemType) (d a b : VReg)
  /-- VREDMAX (R296). -/
  | vredmax (t : ElemType) (d a b : VReg)
  /-- VREDMIN (R296). -/
  | vredmin (t : ElemType) (d a b : VReg)
  /-- VDOT (R296). -/
  | vdot (t : ElemType) (d a b : VReg)
  /-- VDOT_SAT (R296). -/
  | vdotSat (t : ElemType) (d a b : VReg)
  /-- MMA (R302). -/
  | mma (h : Header) (d a b : Reg) (f : MmaFields)
  /-- MMA_PITCH (R302). -/
  | mmaPitch (h : Header) (d a b : Reg) (f : MmaFields) (lit : Word64)
  /-- MMAR (R304). -/
  | mmar (h : Header) (d a : Reg) (f : MmarFields)
  /-- MMAR_PITCH (R304). -/
  | mmarPitch (h : Header) (d a : Reg) (f : MmarFields) (lit : Word64)
  /-- ACLR (R309). -/
  | aclr (a b : Reg)
  /-- ACRD (R309). -/
  | acrd (d a : Reg)
  /-- ACWR (R309). -/
  | acwr (d a : Reg)
  /-- CBLD (R310). -/
  | cbld (seg : Seg) (a : Reg)
  /-- COMMIT (R314). -/
  | commit
  /-- WAITB (R314). -/
  | waitb (n : Fin 16)
  /-- TOUR (R263). -/
  | tour (seg : Seg) (d a : Reg)
  /-- TOUR_ORDERED (R263). -/
  | tourOrdered (h : Header) (seg : Seg) (d a : Reg)
  /-- TWAIT (R274). -/
  | twait (t : Slot) (d : Reg)
  /-- TREL (R275). -/
  | trel (t : Slot)
  /-- THOLD (R276). -/
  | thold (t : Slot) (a : Reg)
  /-- TSTAT (R277). -/
  | tstat (t : Slot) (d : Reg)
  /-- TABORT (R278). -/
  | tabort (t : Slot) (d : Reg)
  /-- TLD (R279). -/
  | tld (t : Slot) (size : Fin 4) (d a : Reg)
  /-- TST (R279). -/
  | tst (t : Slot) (size : Fin 4) (d a : Reg)
  /-- MVB (R328). -/
  | mvb (h : Header) (d a b : Reg) (f : MvbFields)
  /-- MVB_CB4 (R328). -/
  | mvbCb4 (h : Header) (d a b : Reg) (f : MvbFields) (lit : Word64)
  /-- BSTAT (R336). -/
  | bstat (d a : Reg)
  /-- NBR (R349). -/
  | nbr (d a b : Reg)
  /-- CELLQ (R351). -/
  | cellq (d a : Reg)
  /-- TIMRD (R363). -/
  | timrd (d : Reg)
  /-- TICKW (R364). -/
  | tickw (d a b : Reg)
  /-- WINQ (R365). -/
  | winq (d a : Reg)
  /-- WINTAKE (R366). -/
  | wintake (d a b : Reg)
  /-- CSTART (R382). -/
  | cstart (h : Header) (d a b : Reg) (pseg bseg : Seg) (fum : Fin 8) (chunk : BitVec 20)
  /-- CWAIT (R383). -/
  | cwait (d a : Reg)
  /-- RETT (R115). -/
  | rett
  /-- CWR (R116). -/
  | cwr (cr : BitVec 6) (a : Reg)
  /-- START (R117). -/
  | start (d a b : Reg)
  /-- REAP (R117). -/
  | reap (d a : Reg)
  /-- EXIT (R118). -/
  | exit (a : Reg)
  /-- MIGR (R214). -/
  | migr (a : Reg)
  /-- MIGR_L (R214). -/
  | migrL (a : Reg)
  /-- MIGA (R214). -/
  | miga (seg : Seg) (a : Reg)
  /-- MIGA_L (R214). -/
  | migaL (seg : Seg) (a : Reg)
  /-- POSW (R348). -/
  | posw (a b : Reg)
  /-- POSA (R348). -/
  | posa (a b : Reg)
  /-- LAUNCH (R248). -/
  | launch (d a : Reg)
  /-- WUNEXT (R246). -/
  | wunext (d : Reg)
  /-- WUDONE (R247). -/
  | wudone (a : Reg)
  /-- BR (R133). -/
  | br (off : BitVec 23)
  /-- CALL (R136). -/
  | call (off : BitVec 23)
  /-- BEQ (R135). -/
  | beq (a b : Reg) (off : BitVec 11)
  /-- BNE (R135). -/
  | bne (a b : Reg) (off : BitVec 11)
  /-- BLT (R135). -/
  | blt (a b : Reg) (off : BitVec 11)
  /-- BGE (R135). -/
  | bge (a b : Reg) (off : BitVec 11)
  /-- BLTU (R135). -/
  | bltu (a b : Reg) (off : BitVec 11)
  /-- BGEU (R135). -/
  | bgeu (a b : Reg) (off : BitVec 11)
  /-- BZ (R135). -/
  | bz (a : Reg) (off : BitVec 15)
  /-- BNZ (R135). -/
  | bnz (a : Reg) (off : BitVec 15)
  /-- JR (R136). -/
  | jr (a : Reg)
  /-- JALR (R136). -/
  | jalr (d a : Reg)
  /-- LOOP (R137). -/
  | loop (a : Reg) (off : BitVec 15)
  /-- NOP (R115). -/
  | nop
  /-- TRAP (R115). -/
  | trap (code : BitVec 6)
  /-- BRK (R115). -/
  | brk (code : BitVec 6)
  /-- CRD (R116). -/
  | crd (d : Reg) (cr : BitVec 6)
  /-- PARK (R118). -/
  | park
  /-- WAKE (R118). -/
  | wake (a : Reg)
  /-- YIELD (R118). -/
  | yield
  /-- ARM (R118). -/
  | arm (d : Reg)
  /-- PUT (R118). -/
  | put (a b : Reg)
  /-- ILLEGAL_INSTRUCTION (R63). -/
  | illegalInstruction (word : Word32)
  /-- REPB (R317). -/
  | repb (a : Reg)
  /-- REPX (R317). -/
  | repx (d a : Reg)
  /-- RCAST (R254). -/
  | rcast (d a : Reg)
  /-- COPY_COMPLETE (R183). -/
  | copyComplete (p q slot : Nat) (piece : Option Nat)
  /-- WAITW_TIMEOUT (R196). -/
  | waitwTimeout (id : Nat)
  /-- WRITEBACK_REQUEST (R96). -/
  | writebackRequest (id : Nat)
  /-- BARRIER_ARRIVAL (R203). -/
  | barrierArrival (p k : Nat)
  /-- QUIESCE_CIRCUIT_END (R205). -/
  | quiesceCircuitEnd (p caldera : Nat)
  /-- MESSAGE_DELIVERY (R85). -/
  | messageDelivery (id : Nat)
  /-- ACCESS_APPLICATION (R85). -/
  | accessApplication (id : Nat)
  /-- ANSWER_DELIVERY (R85). -/
  | answerDelivery (id : Nat)
  /-- LOCAL_ANSWER (R170). -/
  | localAnswer (p q k : Nat)
  /-- DEPOSIT_RETRY (R224). -/
  | depositRetry (id : Nat)
  /-- MIGRATION_ARRIVAL (R218). -/
  | migrationArrival (p k : Nat)
  /-- CONTEXT_LOADED (R108). -/
  | contextLoaded (p core n : Nat)
  /-- SPILL_WRITE (R219). -/
  | spillWrite (p core : Nat)
  /-- SPILL_REFILL (R219). -/
  | spillRefill (p core : Nat)
  /-- TABLE_WALK (R147). -/
  | tableWalk (k : Nat)
  /-- PAGER_RESOLVED (R157). -/
  | pagerResolved (f : Nat)
  /-- PAGER_REFUSED (R157). -/
  | pagerRefused (f : Nat)
  /-- INVALIDATE (R153). -/
  | invalidate (f : Nat)
  /-- INVALIDATION_DONE (R373). -/
  | invalidationDone (k : Nat)
  /-- ANSQ_IGNORED (R373). -/
  | ansqIgnored (f : Nat)
  /-- ECC_ERROR (R392). -/
  | eccError (place : EccPlace) (corrected : Bool)
  /-- PATROL_READ (R392). -/
  | patrolRead (line : Nat) (corrected : Bool)
  /-- ARRAY_ACCEPT (R230). -/
  | arrayAccept (p q : Nat)
  /-- VECTOR_RESULT (R287). -/
  | vectorResult (p q k : Nat)
  /-- MATRIX_PASS (R303). -/
  | matrixPass (p q : Nat) (mismatch : Bool)
  /-- MATRIX_STEP_COMPLETE (R300). -/
  | matrixStepComplete (p q : Nat)
  /-- ACC_COMMAND_EFFECT (R308). -/
  | accCommandEffect (p q : Nat)
  /-- TOUR_RESERVATION (R266). -/
  | tourReservation (p q k : Nat)
  /-- TOUR_READ_DONE (R267). -/
  | tourReadDone (p q k : Nat) (piece : Option Nat)
  /-- TOUR_HANDOVER (R267). -/
  | tourHandover (p q k : Nat)
  /-- HOLD_OVERRUN (R269). -/
  | holdOverrun (p core slot : Nat)
  /-- TOUR_WRITEBACK_DONE (R267). -/
  | tourWritebackDone (p q k : Nat) (piece : Option Nat)
  /-- VENT_TRANSLATION (R329). -/
  | ventTranslation (p q k : Nat)
  /-- VENT_ROW (R330). -/
  | ventRow (p q k row : Nat)
  /-- VENT_COMMAND_COMPLETE (R332). -/
  | ventCommandComplete (p q k : Nat)
  /-- CELL_CHANGE_APPLY (R343). -/
  | cellChangeApply (p k : Nat)
  /-- GHOST_REMOVAL (R344). -/
  | ghostRemoval (p k : Nat)
  /-- CROSSING_END (R344). -/
  | crossingEnd (p k : Nat)
  /-- CELL_SPLIT (R345). -/
  | cellSplit (p region part : Nat)
  /-- FOLD (R243). -/
  | fold (p handle : Nat)
  /-- LOAD_LEVEL (R256). -/
  | loadLevel (p : Nat)
  /-- LAUNCH_WORD_WRITE (R238). -/
  | launchWordWrite (f : Nat) (value : Word64)
  /-- LAUNCH_WORD_READ (R238). -/
  | launchWordRead (f : Nat)
  /-- LAUNCH_PACKET (R239). -/
  | launchPacket (f : Nat)
  /-- LAUNCH_DONE_WRITE (R239). -/
  | launchDoneWrite (p k : Nat)
  /-- WINDOW_REQUEST (R356). -/
  | windowRequest (id : Nat)
  /-- GEYSER_TICK (R355). -/
  | geyserTick (g : Nat)
  /-- GEYSER_ENABLE (R354). -/
  | geyserEnable (f g : Nat) (value : Word64)
  /-- GEYSER_DISABLE (R354). -/
  | geyserDisable (f g : Nat) (value : Word64)
  /-- GEYSER_FIELD_WRITE (R354). -/
  | geyserFieldWrite (f g k : Nat) (value : Word64)
  /-- TOKEN_ARRIVAL (R360). -/
  | tokenArrival (port f : Nat) (datagram : List Byte) (intact : List Bool)
  /-- FRAME_DROP (R377). -/
  | frameDrop (port : Nat)
  /-- PTP_MESSAGE (R353). -/
  | ptpMessage (offset : Int)
  /-- PTPCFG_WRITE (R377). -/
  | ptpcfgWrite (f : Nat) (value : Word64)
  /-- DTIMESET_LOW (R372). -/
  | dtimesetLow (f : Nat) (value : Word64)
  /-- DTIMESET_HIGH (R372). -/
  | dtimesetHigh (f : Nat) (value : Word64)
  /-- STREAM_OPEN (R357). -/
  | streamOpen (f : Nat) (value : Word64)
  /-- STREAM_CLOSE (R357). -/
  | streamClose (f : Nat) (value : Word64)
  /-- HOST_BAR2_WRITE (R371). -/
  | hostBar2Write (f offset : Nat) (bytes : List Byte) (intact : Bool)
  /-- HOST_BAR2_READ (R371). -/
  | hostBar2Read (f offset n : Nat)
  /-- PREEMPT_REQUEST (R19). -/
  | preemptRequest (p : Nat)
  /-- QUANTUM_EXPIRY (R250). -/
  | quantumExpiry (p : Nat)
  /-- PARTITION_FREEZE (R119). -/
  | partitionFreeze (p : Nat)
  /-- PARTITION_RESUME (R250). -/
  | partitionResume (p : Nat)
  /-- SINTER_SCRUB (R18). -/
  | sinterScrub (q : Nat)
  /-- VF_ENABLE (R391). -/
  | vfEnable (v : Nat)
  /-- VF_SCRUB_DONE (R391). -/
  | vfScrubDone (v : Nat)
  /-- VF_TRACK (R376). -/
  | vfTrack (v : Nat) (on : Bool)
  /-- VF_SNAPSHOT (R376). -/
  | vfSnapshot (v : Nat)
  /-- VFCTL_WRITE (R375). -/
  | vfctlWrite (v k : Nat) (value : Word64)
  /-- EXPORT (R397). -/
  | exportState (f : Nat) (value : Word64)
  /-- IMPORT (R397). -/
  | importState (f : Nat) (value : Word64)
  /-- QUOTE_REQUEST (R388). -/
  | quoteRequest (f : Nat) (value : Word64)
  /-- QUOTE_DONE (R388). -/
  | quoteDone (f : Nat)
  /-- LINK_ENABLE (R380). -/
  | linkEnable (l : Nat)
  /-- LINK_DISABLE (R380). -/
  | linkDisable (l : Nat)
  /-- LINK_TRAINED (R380). -/
  | linkTrained (l : Nat)
  /-- LINK_TRAIN_TIMEOUT (R380). -/
  | linkTrainTimeout (l : Nat)
  /-- FLIT_REPLAY (R378). -/
  | flitReplay (l : Nat) (again : Bool)
  /-- FUMCFG_WRITE (R379). -/
  | fumcfgWrite (f l : Nat) (value : Word64)
  /-- SEND (R381). -/
  | send (l : Nat)
  /-- RECV (R381). -/
  | recv (l : Nat) (blocks : Blocks)
  /-- RRS (R381). -/
  | rrs (l : Nat) (blocks : Blocks)
  /-- COPY (R381). -/
  | copy (l : Nat) (blocks : Blocks)
  /-- WAIT (R381). -/
  | wait (l : Nat)
  /-- LOOP_STEP (R381). -/
  | loopStep (l : Nat)
  /-- END (R381). -/
  | endStep (l : Nat)
  /-- POWER_ON (R386). -/
  | powerOn
  /-- FW_RESET (R386). -/
  | fwReset (f : Nat)
  /-- FW_STAGE (R386). -/
  | fwStage (f : Nat) (value : Word64) (image : List Byte)
  /-- FW_VERIFY_DONE (R385). -/
  | fwVerifyDone
  /-- BOOT_START_DONE (R386). -/
  | bootStartDone (failed : List Nat)
  /-- SOFTERR_CLEAR (R394). -/
  | softerrClear (f caldera : Nat)
  /-- POWER_PACING (R20). -/
  | powerPacing
  /-- THERMAL_PACING (R398). -/
  | thermalPacing
  /-- THERMAL_HALT (R398). -/
  | thermalHalt
  /-- MACHINE_ERROR (R108). -/
  | machineError (p core : Nat)
  /-- REGISTER_WRITE (R372). -/
  | registerWrite (f offset : Nat) (value : Word64)
  /-- HOLDOVER (R353). -/
  | holdover
  /-- PACING_END (R20). -/
  | pacingEnd
  /-- SLICE_CACHE_EVICTION (R97). -/
  | sliceCacheEviction (line : Nat)
  /-- WINTAKE_COPY_DONE (R366). -/
  | wintakeCopyDone (id : Nat)
  deriving DecidableEq, Repr

end Sys2Proof
end

