-- ==== Sys2Proof/WellFormed.lean ====
section
/-!
DEFINITION. Which instructions are well formed: the limits that the encoding states on a field's value (R63), beyond
what the operands' types keep. A term that is not well formed is no instruction: the decoder refuses its word.
-/
namespace Sys2Proof

/-- An element type's code (R51). -/
def ElemType.code : ElemType → Nat
  | .f32 => 0 | .f16 => 1 | .bf16 => 2 | .e4m3 => 3 | .e5m2 => 4 | .i32 => 5 | .i16 => 6 | .i8 => 7 | .ui8 => 8
  | .i4 => 9 | .cb4 => 10

/-- Whether a type's code is at most `n`. -/
def ElemType.upTo (t : ElemType) (n : Nat) : Bool := decide (t.code ≤ n)

/-- The types of `vadd` and its row of R289. -/
def isArith : ElemType → Bool
  | .f32 | .f16 | .bf16 | .i32 | .i16 | .i8 | .ui8 => true
  | .e4m3 | .e5m2 | .i4 | .cb4 => false
/-- The types of `vadd.sat` and its row of R289. -/
def isIntVec : ElemType → Bool
  | .i32 | .i16 | .i8 | .ui8 => true
  | .f32 | .f16 | .bf16 | .e4m3 | .e5m2 | .i4 | .cb4 => false
/-- The types of `vfma` and the transcendentals (R289). -/
def isWideFloat : ElemType → Bool
  | .f32 | .f16 | .bf16 => true
  | .e4m3 | .e5m2 | .i32 | .i16 | .i8 | .ui8 | .i4 | .cb4 => false
/-- The targets of `vcvt.sat` and `vcvt.nsat` (R289). -/
def isFp8 : ElemType → Bool
  | .e4m3 | .e5m2 => true
  | .f32 | .f16 | .bf16 | .i32 | .i16 | .i8 | .ui8 | .i4 | .cb4 => false
/-- The targets of `vcvt.sr` (R289). -/
def isNarrowFloat : ElemType → Bool
  | .f16 | .bf16 | .e4m3 | .e5m2 => true
  | .f32 | .i32 | .i16 | .i8 | .ui8 | .i4 | .cb4 => false

/-- SH is within the width (R57). -/
def shiftFits (w : Width) (sh : BitVec 6) : Bool := decide (sh.toNat < w.bits)
/-- POS + LEN is within the width (R57, R130). -/
def fieldFits (w : Width) (lenM1 pos : BitVec 6) : Bool := decide (pos.toNat + lenM1.toNat + 1 ≤ w.bits)
/-- The control register has a number that R110 lists. -/
def crReadable (cr : BitVec 6) : Bool := decide (cr.toNat ≤ 0x12)
/-- The control register is one that R110 lets `cwr` write. -/
def crWritable (cr : BitVec 6) : Bool := decide ((1 ≤ cr.toNat ∧ cr.toNat ≤ 6) ∨ cr.toNat = 0x10)
/-- SIZE 1 with SX 0 is no load (R60). -/
def loadSizeOk (size : Fin 4) (sx : Bool) : Bool := decide (size ≠ 1) || sx
/-- `fadd.f32` has W = 0 (R61). -/
def amoOk (op : AmoOp) (w : Width) : Bool := decide (op ≠ .fadd) || decide (w = .w32)
/-- `red` has no `swap` (R61). -/
def redOk (op : AmoOp) (w : Width) : Bool := amoOk op w && decide (op ≠ .swap)
/-- The destination is an even register (R208, R362). -/
def evenReg (d : Reg) : Bool := decide (d.val % 2 = 0)
/-- The pair of `waitw` (R208): D even, and B neither D nor D + 1. -/
def waitwOk (d b : Reg) : Bool := evenReg d && decide (b.val ≠ d.val) && decide (b.val ≠ d.val + 1)

/-- An engine command's header (R53): no scope without ACQ or REL. -/
def Header.engineOk (h : Header) : Bool := h.acq || h.rel || decide (h.scope = .cr)
/-- A memory access's header (R53): ACQ or REL is set. -/
def Header.accessOk (h : Header) : Bool := h.acq || h.rel

/-- The floating operand types of a matrix step (R299). -/
def isMatrixFloatA : ElemType → Bool
  | .f16 | .bf16 | .e4m3 | .e5m2 => true
  | .f32 | .i32 | .i16 | .i8 | .ui8 | .i4 | .cb4 => false
/-- The integer operand types of a matrix step's A (R299). -/
def isMatrixIntA : ElemType → Bool
  | .i8 | .ui8 => true
  | .f32 | .f16 | .bf16 | .e4m3 | .e5m2 | .i32 | .i16 | .i4 | .cb4 => false
/-- A and B of one class (R299). -/
def matrixTypesOk (a b : ElemType) : Bool :=
  (isMatrixFloatA a && (isMatrixFloatA b || decide (b = .cb4))) ||
  (isMatrixIntA a && (isMatrixIntA b || decide (b = .i4)))
/-- The rules on A's rows and slot that `mma` and `mmar` share (R319). -/
def matrixAOk (mm1 : BitVec 8) (asrc : Bool) (aslot : Slot) (gath : Bool) (idx : VReg) : Bool :=
  (if gath then decide (mm1.toNat + 1 ≤ 32) else decide (idx = 0)) && (asrc || decide (aslot = 0))

/-- The limits on `mma` (R319). -/
def MmaFields.ok (f : MmaFields) : Bool :=
  matrixTypesOk f.atype f.btype && matrixAOk f.mm1 f.asrc f.aslot f.gath f.idx &&
  (f.bsrc || decide (f.bslot = 0)) &&
  !((decide (f.btype = .i4) || decide (f.btype = .cb4)) && decide (f.nm1.toNat % 2 = 0))
/-- The limits on `mmar` (R319). -/
def MmarFields.ok (f : MmarFields) : Bool :=
  (isMatrixFloatA f.atype || isMatrixIntA f.atype) && matrixAOk f.mm1 f.asrc f.aslot f.gath f.idx

/-- The bytes of one weight row: C columns of WTYPE (R327). -/
def MvbFields.rowBytes (f : MvbFields) : Nat :=
  match f.wtype with
  | .bf16 => 2 * (f.cm1.toNat + 1)
  | .cb4 => (f.cm1.toNat + 1) / 2
  | .f32 | .f16 | .e4m3 | .e5m2 | .i32 | .i16 | .i8 | .ui8 | .i4 => f.cm1.toNat + 1
/-- The limits on `mvb` (R337). -/
def MvbFields.ok (f : MvbFields) : Bool :=
  (match f.wtype with
   | .bf16 | .e4m3 | .e5m2 | .cb4 => decide (f.atype = .bf16)
   | .i8 => decide (f.atype = .i8)
   | .f32 | .f16 | .i32 | .i16 | .ui8 | .i4 => false) &&
  decide (f.slog.val ≤ 6) && !(decide (f.wtype = .cb4) && decide (f.cm1.toNat % 2 = 0)) &&
  decide (f.rowBytes ≤ 64 * 2 ^ f.slog.val)

/-- Whether an instruction is one the spec admits: every limit of R57, R59 to R61, R130, R189, R208, R289, R297,
R319, R337 and R362 that the types of the operands do not already keep. A step that is no instruction has none. -/
def Instr.wf : Instr → Bool
  | .shlImm w _ _ sh => shiftFits w sh
  | .shrImm w _ _ sh => shiftFits w sh
  | .sarImm w _ _ sh => shiftFits w sh
  | .rolImm w _ _ sh => shiftFits w sh
  | .rorImm w _ _ sh => shiftFits w sh
  | .bfx w _ _ lenM1 pos => fieldFits w lenM1 pos
  | .bfi w _ _ lenM1 pos => fieldFits w lenM1 pos
  | .sext w _ _ lenM1 => fieldFits w lenM1 0
  | .zext w _ _ lenM1 => fieldFits w lenM1 0
  | .ld size sx _ _ _ _ => loadSizeOk size sx
  | .ldLit size sx _ _ _ _ => loadSizeOk size sx
  | .ldAcq _ size sx _ _ _ _ => loadSizeOk size sx
  | .ldAcqLit _ size sx _ _ _ _ => loadSizeOk size sx
  | .gath t _ _ _ _ => t.upTo 8
  | .scat t _ _ _ _ => t.upTo 8
  | .cpy h _ _ _ _ _ _ => h.engineOk
  | .cpyLit h _ _ _ _ _ _ => h.engineOk
  | .cpy2 h _ _ _ _ _ _ _ _ => h.engineOk
  | .cpy2Lit h _ _ _ _ _ _ _ _ => h.engineOk
  | .amo op w _ _ _ _ => amoOk op w
  | .amoOrdered h op w _ _ _ _ => amoOk op w && h.accessOk
  | .casOrdered h _ _ _ _ _ => h.accessOk
  | .red op w _ _ _ => redOk op w
  | .redRel _ op w _ _ _ => redOk op w
  | .waitw _ _ d _ b => waitwOk d b
  | .waitwAcq _ _ _ d _ b => waitwOk d b
  | .vadd t _ _ _ => isArith t
  | .vsub t _ _ _ => isArith t
  | .vmul t _ _ _ => isArith t
  | .vfma t _ _ _ => isWideFloat t
  | .vfms t _ _ _ => isWideFloat t
  | .vmax t _ _ _ => isArith t
  | .vmin t _ _ _ => isArith t
  | .vabs t _ _ => isArith t
  | .vneg t _ _ => isArith t
  | .vaddSat t _ _ _ => isIntVec t
  | .vsubSat t _ _ _ => isIntVec t
  | .vexp2 t _ _ => isWideFloat t
  | .vlog2 t _ _ => isWideFloat t
  | .vrcp t _ _ => isWideFloat t
  | .vrsq t _ _ => isWideFloat t
  | .vcmpEq t _ _ _ => isArith t
  | .vcmpNe t _ _ _ => isArith t
  | .vcmpLt t _ _ _ => isArith t
  | .vcmpLe t _ _ _ => isArith t
  | .vsel t _ _ _ => t.upTo 9
  | .vand t _ _ _ => isIntVec t
  | .vor t _ _ _ => isIntVec t
  | .vxor t _ _ _ => isIntVec t
  | .vshl t _ _ _ => isIntVec t
  | .vshr t _ _ _ => isIntVec t
  | .vsar t _ _ _ => isIntVec t
  | .vaddLit t _ _ _ => isArith t
  | .vsubLit t _ _ _ => isArith t
  | .vmulLit t _ _ _ => isArith t
  | .vfmaLit t _ _ _ => isWideFloat t
  | .vfmsLit t _ _ _ => isWideFloat t
  | .vmaxLit t _ _ _ => isArith t
  | .vminLit t _ _ _ => isArith t
  | .vaddSatLit t _ _ _ => isIntVec t
  | .vsubSatLit t _ _ _ => isIntVec t
  | .vcmpEqLit t _ _ _ => isArith t
  | .vcmpNeLit t _ _ _ => isArith t
  | .vcmpLtLit t _ _ _ => isArith t
  | .vcmpLeLit t _ _ _ => isArith t
  | .vselLit t _ _ _ => t.upTo 9
  | .vandLit t _ _ _ => isIntVec t
  | .vorLit t _ _ _ => isIntVec t
  | .vxorLit t _ _ _ => isIntVec t
  | .vshlLit t _ _ _ => isIntVec t
  | .vshrLit t _ _ _ => isIntVec t
  | .vsarLit t _ _ _ => isIntVec t
  | .vcvt t src _ _ => t.upTo 9 && src.upTo 9
  | .vcvtSat t src _ _ => isFp8 t && src.upTo 9
  | .vcvtSr t _ _ _ => isNarrowFloat t
  | .vbcast t _ _ => t.upTo 9
  | .vmovg t _ _ _ => t.upTo 9
  | .vshuf t _ _ _ => t.upTo 9
  | .vslide t _ _ _ => t.upTo 9
  | .viota t _ => isArith t
  | .vredsum t _ _ _ => t.upTo 8
  | .vredsumSat t _ _ _ => isIntVec t
  | .vredmax t _ _ _ => t.upTo 8
  | .vredmin t _ _ _ => t.upTo 8
  | .vdot t _ _ _ => t.upTo 8
  | .vdotSat t _ _ _ => isIntVec t
  | .mma h _ _ _ f => h.engineOk && f.ok
  | .mmaPitch h _ _ _ f _ => h.engineOk && f.ok
  | .mmar h _ _ f => h.engineOk && f.ok
  | .mmarPitch h _ _ f _ => h.engineOk && f.ok
  | .waitb n => decide (n.val ≤ 8)
  | .tourOrdered h _ _ _ => h.engineOk
  | .mvb h _ _ _ f => h.engineOk && f.ok && decide (f.wtype ≠ .cb4)
  | .mvbCb4 h _ _ _ f _ => h.engineOk && f.ok && decide (f.wtype = .cb4)
  | .timrd d => evenReg d
  | .winq d _ => evenReg d
  | .cstart h _ _ _ _ _ _ _ => h.engineOk
  | .cwr cr _ => crWritable cr
  | .crd _ cr => crReadable cr
  | .add .. | .sub .. | .mul .. | .mulh .. | .mulhu .. | .div .. | .divu .. | .rem .. | .remu .. | .adds ..
  | .subs .. | .and .. | .or .. | .xor .. | .andn .. | .orn .. | .shl .. | .shr .. | .sar .. | .rol ..
  | .ror .. | .min .. | .max .. | .minu .. | .maxu .. | .abs .. | .clz .. | .ctz .. | .popc .. | .brev ..
  | .sel .. | .mov .. | .seq .. | .sne .. | .slt .. | .sltu .. | .sle .. | .sleu .. | .addLit .. | .subLit ..
  | .mulLit .. | .mulhLit .. | .mulhuLit .. | .divLit .. | .divuLit .. | .remLit .. | .remuLit ..
  | .addsLit .. | .subsLit .. | .andLit .. | .orLit .. | .xorLit .. | .andnLit .. | .ornLit .. | .shlLit ..
  | .shrLit .. | .sarLit .. | .rolLit .. | .rorLit .. | .minLit .. | .maxLit .. | .minuLit .. | .maxuLit ..
  | .seqLit .. | .sneLit .. | .sltLit .. | .sltuLit .. | .sleLit .. | .sleuLit .. | .addImm .. | .mulImm ..
  | .andImm .. | .orImm .. | .xorImm .. | .seqImm .. | .sneImm .. | .sltImm .. | .sltuImm .. | .sleImm ..
  | .sleuImm .. | .movi .. | .moviLit .. | .saddr .. | .st .. | .stLit .. | .stRel .. | .stRelLit ..
  | .ldv .. | .ldvLit .. | .stv .. | .stvLit .. | .segld .. | .segst .. | .segset .. | .kvtl .. | .kvtw ..
  | .kvti .. | .kret .. | .cas .. | .fence .. | .bfence .. | .bar .. | .qprobe .. | .chmapOut ..
  | .chmapIn .. | .chunmap .. | .chstat .. | .aclr .. | .acrd .. | .acwr .. | .cbld .. | .commit ..
  | .tour .. | .twait .. | .trel .. | .thold .. | .tstat .. | .tabort .. | .tld .. | .tst .. | .bstat ..
  | .nbr .. | .cellq .. | .tickw .. | .wintake .. | .cwait .. | .rett .. | .start .. | .reap .. | .exit ..
  | .migr .. | .migrL .. | .miga .. | .migaL .. | .posw .. | .posa .. | .launch .. | .wunext .. | .wudone ..
  | .br .. | .call .. | .beq .. | .bne .. | .blt .. | .bge .. | .bltu .. | .bgeu .. | .bz .. | .bnz ..
  | .jr .. | .jalr .. | .loop .. | .nop .. | .trap .. | .brk .. | .park .. | .wake .. | .yield .. | .arm ..
  | .put .. | .illegalInstruction .. | .repb .. | .repx .. | .rcast .. | .copyComplete .. | .waitwTimeout ..
  | .writebackRequest .. | .barrierArrival .. | .quiesceCircuitEnd .. | .messageDelivery ..
  | .accessApplication .. | .answerDelivery .. | .localAnswer .. | .depositRetry .. | .migrationArrival ..
  | .contextLoaded .. | .spillWrite .. | .spillRefill .. | .tableWalk .. | .pagerResolved ..
  | .pagerRefused .. | .invalidate .. | .invalidationDone .. | .ansqIgnored .. | .eccError ..
  | .patrolRead .. | .arrayAccept .. | .vectorResult .. | .matrixPass .. | .matrixStepComplete ..
  | .accCommandEffect .. | .tourReservation .. | .tourReadDone .. | .tourHandover .. | .holdOverrun ..
  | .tourWritebackDone .. | .ventTranslation .. | .ventRow .. | .ventCommandComplete .. | .cellChangeApply ..
  | .ghostRemoval .. | .crossingEnd .. | .cellSplit .. | .fold .. | .loadLevel .. | .launchWordWrite ..
  | .launchWordRead .. | .launchPacket .. | .launchDoneWrite .. | .windowRequest .. | .geyserTick ..
  | .geyserEnable .. | .geyserDisable .. | .geyserFieldWrite .. | .tokenArrival .. | .frameDrop ..
  | .ptpMessage .. | .ptpcfgWrite .. | .dtimesetLow .. | .dtimesetHigh .. | .streamOpen .. | .streamClose ..
  | .hostBar2Write .. | .hostBar2Read .. | .preemptRequest .. | .quantumExpiry .. | .partitionFreeze ..
  | .partitionResume .. | .sinterScrub .. | .vfEnable .. | .vfScrubDone .. | .vfTrack .. | .vfSnapshot ..
  | .vfctlWrite .. | .exportState .. | .importState .. | .quoteRequest .. | .quoteDone .. | .linkEnable ..
  | .linkDisable .. | .linkTrained .. | .linkTrainTimeout .. | .flitReplay .. | .fumcfgWrite .. | .send ..
  | .recv .. | .rrs .. | .copy .. | .wait .. | .loopStep .. | .endStep .. | .powerOn .. | .fwReset ..
  | .fwStage .. | .fwVerifyDone .. | .bootStartDone .. | .softerrClear .. | .powerPacing ..
  | .thermalPacing .. | .thermalHalt .. | .machineError .. | .registerWrite .. | .holdover .. | .pacingEnd ..
  | .sliceCacheEviction .. | .wintakeCopyDone .. => true

end Sys2Proof
end

