-- ==== Sys2Proof/Decode.lean ====
section
/-!
DEFINITION. Decoding and encoding of instruction words (spec/03_words.md). The decoder is total on any bytes: it
answers an instruction and the bytes that follow it, or the name of what refuses the first word (R63). The encoder
stands after it and is written from the same tables.
-/
namespace Sys2Proof

/-- Why a word is no instruction (R63), or why no word could be read. -/
inductive Reject
  /-- MAJOR is unassigned (R55). -/
  | major
  /-- L is not among the values that R55 lists for the major. -/
  | length
  /-- MINOR, OP or COND is unassigned for its major. -/
  | minor
  /-- A reserved or unused field is not zero. -/
  | reserved
  /-- A scope field holds 7. -/
  | scope
  /-- An element type code is unassigned. -/
  | elemType
  /-- An ordering header violates R53, R60 or R61. -/
  | header
  /-- A field's value lies outside what the form accepts. -/
  | limit
  /-- Fewer bytes than the instruction's length were given. -/
  | short
  deriving DecidableEq, Repr

/-- The words that follow the base word (R49). -/
inductive Tail
  | none
  | lit (l : Word64)
  | cmd (w1 w2 : Word32)
  | cmdLit (w1 w2 : Word32) (l : Word64)
  deriving DecidableEq, Repr

/-- The instruction if the condition holds, else the refusal. -/
def need (c : Prop) [Decidable c] (r : Reject) (i : Instr) : Except Reject Instr :=
  if c then .ok i else .error r

/-! ## Fields of a word (R50 to R53) -/

def fL (w : Word32) : BitVec 2 := w.extractLsb' 0 2
def fMajor (w : Word32) : BitVec 7 := w.extractLsb' 2 7
def fD (w : Word32) : Reg := (w.extractLsb' 9 4).toFin
def fA (w : Word32) : Reg := (w.extractLsb' 13 4).toFin
def fB (w : Word32) : Reg := (w.extractLsb' 17 4).toFin
/-- One bit of a word. -/
def bit (w : Word32) (n : Nat) : Bool := w.getLsbD n
/-- REG: MINOR, W and C. -/
def fReg6 (w : Word32) : BitVec 6 := w.extractLsb' 26 6
def fC (w : Word32) : Reg := (w.extractLsb' 21 4).toFin
def widthOf (b : Bool) : Width := if b then .w64 else .w32
def fW25 (w : Word32) : Width := widthOf (bit w 25)
def fW17 (w : Word32) : Width := widthOf (bit w 17)
def fW27 (w : Word32) : Width := widthOf (bit w 27)
def fImm14 (w : Word32) : BitVec 14 := w.extractLsb' 18 14
/-- SUB: MINOR and ARG6. -/
def fMinor5 (w : Word32) : BitVec 5 := w.extractLsb' 27 5
def fArg6 (w : Word32) : BitVec 6 := w.extractLsb' 21 6
/-- ARG6[5:3], ARG6[2:0] and ARG6[3:0]. -/
def fArgHi3 (w : Word32) : Fin 8 := (w.extractLsb' 24 3).toFin
def fArgLo3 (w : Word32) : Fin 8 := (w.extractLsb' 21 3).toFin
def fArgLo4 (w : Word32) : Fin 16 := (w.extractLsb' 21 4).toFin
/-- The segment that D or A names, its top bit 0 (R51). -/
def fDSeg (w : Word32) : Seg := (w.extractLsb' 9 3).toFin
def fASeg (w : Word32) : Seg := (w.extractLsb' 13 3).toFin
/-- VEC: the extended vector registers, MINOR and TYPE. -/
def fVD (w : Word32) : VReg := (BitVec.ofBool (bit w 31) ++ w.extractLsb' 9 4).toFin
def fVA (w : Word32) : VReg := (BitVec.ofBool (bit w 30) ++ w.extractLsb' 13 4).toFin
def fVB (w : Word32) : VReg := (BitVec.ofBool (bit w 29) ++ w.extractLsb' 17 4).toFin
def fVecMinor (w : Word32) : BitVec 4 := w.extractLsb' 25 4

/-- The element type of a code (R51). -/
def typeOf (c : BitVec 4) : Except Reject ElemType :=
  match c.toNat with
  | 0 => .ok .f32 | 1 => .ok .f16 | 2 => .ok .bf16 | 3 => .ok .e4m3 | 4 => .ok .e5m2 | 5 => .ok .i32
  | 6 => .ok .i16 | 7 => .ok .i8 | 8 => .ok .ui8 | 9 => .ok .i4 | 10 => .ok .cb4
  | _ => .error .elemType
def fType (w : Word32) : Except Reject ElemType := typeOf (w.extractLsb' 21 4)

/-- The scope of a code (R51, R91). -/
def scopeOf (c : BitVec 3) : Except Reject Scope :=
  match c.toNat with
  | 0 => .ok .cr | 1 => .ok .qd | 2 => .ok .n1 | 3 => .ok .n2 | 4 => .ok .cd | 5 => .ok .md | 6 => .ok .sy
  | _ => .error .scope

/-- The ordering header of W1 (R53). -/
def headerOf (w1 : Word32) : Except Reject Header :=
  (scopeOf (w1.extractLsb' 29 3)).map fun s => ⟨s, bit w1 28, bit w1 27⟩

/-- The operation of an atomic (R61). -/
def amoOf (c : BitVec 4) : Except Reject AmoOp :=
  match c.toNat with
  | 0 => .ok .add | 1 => .ok .and | 2 => .ok .or | 3 => .ok .xor | 4 => .ok .min | 5 => .ok .max | 6 => .ok .minu
  | 7 => .ok .maxu | 8 => .ok .swap | 9 => .ok .fadd
  | _ => .error .minor

/-! ## The majors -/

/-- Major 0x00: the register forms (R56). -/
def decodeReg (w : Word32) : Except Reject Instr :=
  match (fReg6 w).toNat with
  | 0x01 => need (fC w = 0) .reserved (.add (fW25 w) (fD w) (fA w) (fB w))
  | 0x02 => need (fC w = 0) .reserved (.sub (fW25 w) (fD w) (fA w) (fB w))
  | 0x03 => need (fC w = 0) .reserved (.mul (fW25 w) (fD w) (fA w) (fB w))
  | 0x04 => need (fC w = 0) .reserved (.mulh (fW25 w) (fD w) (fA w) (fB w))
  | 0x05 => need (fC w = 0) .reserved (.mulhu (fW25 w) (fD w) (fA w) (fB w))
  | 0x06 => need (fC w = 0) .reserved (.div (fW25 w) (fD w) (fA w) (fB w))
  | 0x07 => need (fC w = 0) .reserved (.divu (fW25 w) (fD w) (fA w) (fB w))
  | 0x08 => need (fC w = 0) .reserved (.rem (fW25 w) (fD w) (fA w) (fB w))
  | 0x09 => need (fC w = 0) .reserved (.remu (fW25 w) (fD w) (fA w) (fB w))
  | 0x0A => need (fC w = 0) .reserved (.adds (fW25 w) (fD w) (fA w) (fB w))
  | 0x0B => need (fC w = 0) .reserved (.subs (fW25 w) (fD w) (fA w) (fB w))
  | 0x10 => need (fC w = 0) .reserved (.and (fW25 w) (fD w) (fA w) (fB w))
  | 0x11 => need (fC w = 0) .reserved (.or (fW25 w) (fD w) (fA w) (fB w))
  | 0x12 => need (fC w = 0) .reserved (.xor (fW25 w) (fD w) (fA w) (fB w))
  | 0x13 => need (fC w = 0) .reserved (.andn (fW25 w) (fD w) (fA w) (fB w))
  | 0x14 => need (fC w = 0) .reserved (.orn (fW25 w) (fD w) (fA w) (fB w))
  | 0x15 => need (fC w = 0) .reserved (.shl (fW25 w) (fD w) (fA w) (fB w))
  | 0x16 => need (fC w = 0) .reserved (.shr (fW25 w) (fD w) (fA w) (fB w))
  | 0x17 => need (fC w = 0) .reserved (.sar (fW25 w) (fD w) (fA w) (fB w))
  | 0x18 => need (fC w = 0) .reserved (.rol (fW25 w) (fD w) (fA w) (fB w))
  | 0x19 => need (fC w = 0) .reserved (.ror (fW25 w) (fD w) (fA w) (fB w))
  | 0x20 => need (fC w = 0) .reserved (.min (fW25 w) (fD w) (fA w) (fB w))
  | 0x21 => need (fC w = 0) .reserved (.max (fW25 w) (fD w) (fA w) (fB w))
  | 0x22 => need (fC w = 0) .reserved (.minu (fW25 w) (fD w) (fA w) (fB w))
  | 0x23 => need (fC w = 0) .reserved (.maxu (fW25 w) (fD w) (fA w) (fB w))
  | 0x24 => need (fB w = 0 ∧ fC w = 0) .reserved (.abs (fW25 w) (fD w) (fA w))
  | 0x25 => need (fB w = 0 ∧ fC w = 0) .reserved (.clz (fW25 w) (fD w) (fA w))
  | 0x26 => need (fB w = 0 ∧ fC w = 0) .reserved (.ctz (fW25 w) (fD w) (fA w))
  | 0x27 => need (fB w = 0 ∧ fC w = 0) .reserved (.popc (fW25 w) (fD w) (fA w))
  | 0x28 => need (fB w = 0 ∧ fC w = 0) .reserved (.brev (fW25 w) (fD w) (fA w))
  | 0x29 => .ok (.sel (fW25 w) (fD w) (fA w) (fB w) (fC w))
  | 0x2A => need (fB w = 0 ∧ fC w = 0) .reserved (.mov (fW25 w) (fD w) (fA w))
  | 0x30 => need (fC w = 0) .reserved (.seq (fW25 w) (fD w) (fA w) (fB w))
  | 0x31 => need (fC w = 0) .reserved (.sne (fW25 w) (fD w) (fA w) (fB w))
  | 0x32 => need (fC w = 0) .reserved (.slt (fW25 w) (fD w) (fA w) (fB w))
  | 0x33 => need (fC w = 0) .reserved (.sltu (fW25 w) (fD w) (fA w) (fB w))
  | 0x34 => need (fC w = 0) .reserved (.sle (fW25 w) (fD w) (fA w) (fB w))
  | 0x35 => need (fC w = 0) .reserved (.sleu (fW25 w) (fD w) (fA w) (fB w))
  | _ => .error .minor

/-- Major 0x01: the literal forms (R56). -/
def decodeRegLit (w : Word32) (lit : Word64) : Except Reject Instr :=
  match (fReg6 w).toNat with
  | 0x01 => need (fB w = 0 ∧ fC w = 0) .reserved (.addLit (fW25 w) (fD w) (fA w) lit)
  | 0x02 => need (fB w = 0 ∧ fC w = 0) .reserved (.subLit (fW25 w) (fD w) (fA w) lit)
  | 0x03 => need (fB w = 0 ∧ fC w = 0) .reserved (.mulLit (fW25 w) (fD w) (fA w) lit)
  | 0x04 => need (fB w = 0 ∧ fC w = 0) .reserved (.mulhLit (fW25 w) (fD w) (fA w) lit)
  | 0x05 => need (fB w = 0 ∧ fC w = 0) .reserved (.mulhuLit (fW25 w) (fD w) (fA w) lit)
  | 0x06 => need (fB w = 0 ∧ fC w = 0) .reserved (.divLit (fW25 w) (fD w) (fA w) lit)
  | 0x07 => need (fB w = 0 ∧ fC w = 0) .reserved (.divuLit (fW25 w) (fD w) (fA w) lit)
  | 0x08 => need (fB w = 0 ∧ fC w = 0) .reserved (.remLit (fW25 w) (fD w) (fA w) lit)
  | 0x09 => need (fB w = 0 ∧ fC w = 0) .reserved (.remuLit (fW25 w) (fD w) (fA w) lit)
  | 0x0A => need (fB w = 0 ∧ fC w = 0) .reserved (.addsLit (fW25 w) (fD w) (fA w) lit)
  | 0x0B => need (fB w = 0 ∧ fC w = 0) .reserved (.subsLit (fW25 w) (fD w) (fA w) lit)
  | 0x10 => need (fB w = 0 ∧ fC w = 0) .reserved (.andLit (fW25 w) (fD w) (fA w) lit)
  | 0x11 => need (fB w = 0 ∧ fC w = 0) .reserved (.orLit (fW25 w) (fD w) (fA w) lit)
  | 0x12 => need (fB w = 0 ∧ fC w = 0) .reserved (.xorLit (fW25 w) (fD w) (fA w) lit)
  | 0x13 => need (fB w = 0 ∧ fC w = 0) .reserved (.andnLit (fW25 w) (fD w) (fA w) lit)
  | 0x14 => need (fB w = 0 ∧ fC w = 0) .reserved (.ornLit (fW25 w) (fD w) (fA w) lit)
  | 0x15 => need (fB w = 0 ∧ fC w = 0) .reserved (.shlLit (fW25 w) (fD w) (fA w) lit)
  | 0x16 => need (fB w = 0 ∧ fC w = 0) .reserved (.shrLit (fW25 w) (fD w) (fA w) lit)
  | 0x17 => need (fB w = 0 ∧ fC w = 0) .reserved (.sarLit (fW25 w) (fD w) (fA w) lit)
  | 0x18 => need (fB w = 0 ∧ fC w = 0) .reserved (.rolLit (fW25 w) (fD w) (fA w) lit)
  | 0x19 => need (fB w = 0 ∧ fC w = 0) .reserved (.rorLit (fW25 w) (fD w) (fA w) lit)
  | 0x20 => need (fB w = 0 ∧ fC w = 0) .reserved (.minLit (fW25 w) (fD w) (fA w) lit)
  | 0x21 => need (fB w = 0 ∧ fC w = 0) .reserved (.maxLit (fW25 w) (fD w) (fA w) lit)
  | 0x22 => need (fB w = 0 ∧ fC w = 0) .reserved (.minuLit (fW25 w) (fD w) (fA w) lit)
  | 0x23 => need (fB w = 0 ∧ fC w = 0) .reserved (.maxuLit (fW25 w) (fD w) (fA w) lit)
  | 0x30 => need (fB w = 0 ∧ fC w = 0) .reserved (.seqLit (fW25 w) (fD w) (fA w) lit)
  | 0x31 => need (fB w = 0 ∧ fC w = 0) .reserved (.sneLit (fW25 w) (fD w) (fA w) lit)
  | 0x32 => need (fB w = 0 ∧ fC w = 0) .reserved (.sltLit (fW25 w) (fD w) (fA w) lit)
  | 0x33 => need (fB w = 0 ∧ fC w = 0) .reserved (.sltuLit (fW25 w) (fD w) (fA w) lit)
  | 0x34 => need (fB w = 0 ∧ fC w = 0) .reserved (.sleLit (fW25 w) (fD w) (fA w) lit)
  | 0x35 => need (fB w = 0 ∧ fC w = 0) .reserved (.sleuLit (fW25 w) (fD w) (fA w) lit)
  | _ => .error .minor

/-- Major 0x07: shifts by an immediate (R57). -/
def decodeShi (w : Word32) : Except Reject Instr :=
  let sh := w.extractLsb' 18 6
  if w.extractLsb' 24 5 ≠ 0 then .error .reserved else
  match (w.extractLsb' 29 3).toNat with
  | 0 => .ok (.shlImm (fW17 w) (fD w) (fA w) sh)
  | 1 => .ok (.shrImm (fW17 w) (fD w) (fA w) sh)
  | 2 => .ok (.sarImm (fW17 w) (fD w) (fA w) sh)
  | 3 => .ok (.rolImm (fW17 w) (fD w) (fA w) sh)
  | 4 => .ok (.rorImm (fW17 w) (fD w) (fA w) sh)
  | _ => .error .minor

/-- Major 0x08: compares with an immediate (R57). -/
def decodeSeti (w : Word32) : Except Reject Instr :=
  let imm := w.extractLsb' 18 11
  match (w.extractLsb' 29 3).toNat with
  | 0 => .ok (.seqImm (fW17 w) (fD w) (fA w) imm)
  | 1 => .ok (.sneImm (fW17 w) (fD w) (fA w) imm)
  | 2 => .ok (.sltImm (fW17 w) (fD w) (fA w) imm)
  | 3 => .ok (.sltuImm (fW17 w) (fD w) (fA w) imm)
  | 4 => .ok (.sleImm (fW17 w) (fD w) (fA w) imm)
  | 5 => .ok (.sleuImm (fW17 w) (fD w) (fA w) imm)
  | _ => .error .minor

/-- Major 0x09: bit fields (R57, R130). -/
def decodeFldi (w : Word32) : Except Reject Instr :=
  let len := w.extractLsb' 24 6
  let pos := w.extractLsb' 18 6
  match (w.extractLsb' 30 2).toNat with
  | 0 => .ok (.bfx (fW17 w) (fD w) (fA w) len pos)
  | 1 => .ok (.bfi (fW17 w) (fD w) (fA w) len pos)
  | 2 => need (pos = 0) .limit (.sext (fW17 w) (fD w) (fA w) len)
  | 3 => need (pos = 0) .limit (.zext (fW17 w) (fD w) (fA w) len)
  | _ => .error .minor

/-- Major 0x12: compare and branch (R58). -/
noncomputable def decodeCbr (w : Word32) : Except Reject Instr :=
  let off := w.extractLsb' 21 11
  match (fD w).val with
  | 0 => .ok (.beq (fA w) (fB w) off)
  | 1 => .ok (.bne (fA w) (fB w) off)
  | 2 => .ok (.blt (fA w) (fB w) off)
  | 3 => .ok (.bge (fA w) (fB w) off)
  | 4 => .ok (.bltu (fA w) (fB w) off)
  | 5 => .ok (.bgeu (fA w) (fB w) off)
  | _ => .error .minor

/-- Major 0x13: branch on zero (R58). -/
noncomputable def decodeBrz (w : Word32) : Except Reject Instr :=
  let off := w.extractLsb' 17 15
  match (fD w).val with
  | 0 => .ok (.bz (fA w) off)
  | 1 => .ok (.bnz (fA w) off)
  | _ => .error .reserved

/-- Major 0x14: jumps (R58). -/
noncomputable def decodeJump (w : Word32) : Except Reject Instr :=
  match (fMinor5 w).toNat with
  | 0 => need (fArg6 w = 0 ∧ fB w = 0 ∧ fD w = 0) .reserved (.jr (fA w))
  | 1 => need (fArg6 w = 0 ∧ fB w = 0) .reserved (.jalr (fD w) (fA w))
  | _ => .error .minor

/-- Major 0x18: system (R59). -/
noncomputable def decodeSystem (w : Word32) : Except Reject Instr :=
  match (fMinor5 w).toNat with
  | 0 => need (fArg6 w = 0 ∧ fB w = 0 ∧ fA w = 0 ∧ fD w = 0) .reserved .nop
  | 1 => need (fB w = 0 ∧ fA w = 0 ∧ fD w = 0) .reserved (.trap (fArg6 w))
  | 2 => need (fB w = 0 ∧ fA w = 0 ∧ fD w = 0) .reserved (.brk (fArg6 w))
  | 3 => need (fArg6 w = 0 ∧ fB w = 0 ∧ fA w = 0 ∧ fD w = 0) .reserved .rett
  | 4 => need (fB w = 0 ∧ fA w = 0) .reserved (.crd (fD w) (fArg6 w))
  | 5 => need (fB w = 0 ∧ fD w = 0) .reserved (.cwr (fArg6 w) (fA w))
  | _ => .error .minor

/-- Major 0x19: context (R59). -/
noncomputable def decodeContext (w : Word32) : Except Reject Instr :=
  if fArg6 w ≠ 0 then .error .reserved else
  match (fMinor5 w).toNat with
  | 0 => .ok (.start (fD w) (fA w) (fB w))
  | 1 => need (fB w = 0) .reserved (.reap (fD w) (fA w))
  | 2 => need (fB w = 0 ∧ fD w = 0) .reserved (.exit (fA w))
  | 3 => need (fB w = 0 ∧ fA w = 0 ∧ fD w = 0) .reserved .park
  | 4 => need (fB w = 0 ∧ fD w = 0) .reserved (.wake (fA w))
  | 5 => need (fB w = 0 ∧ fA w = 0 ∧ fD w = 0) .reserved .yield
  | 6 => need (fB w = 0 ∧ fA w = 0) .reserved (.arm (fD w))
  | 7 => need (fD w = 0) .reserved (.put (fA w) (fB w))
  | _ => .error .minor

/-- MEM: SEG, SIZE, SX and OFF8 (R52). -/
def fMemSeg (w : Word32) : Seg := (w.extractLsb' 21 3).toFin
def fMemSize (w : Word32) : Fin 4 := (w.extractLsb' 19 2).toFin
def fMemOff (w : Word32) : BitVec 8 := w.extractLsb' 24 8

/-- Major 0x20: `ld` (R60). A header may set ACQ only. -/
def decodeLd (w : Word32) (t : Tail) : Except Reject Instr :=
  if bit w 17 then .error .reserved else
  let sx := bit w 18
  match t with
  | .none => .ok (.ld (fMemSize w) sx (fMemSeg w) (fD w) (fA w) (fMemOff w))
  | .lit l => need (fMemOff w = 0) .reserved (.ldLit (fMemSize w) sx (fMemSeg w) (fD w) (fA w) l)
  | .cmd w1 w2 => (headerOf w1).bind fun h =>
    if w1.extractLsb' 0 27 ≠ 0 ∨ w2 ≠ 0 then .error .reserved else
    need (h.acq = true ∧ h.rel = false) .header (.ldAcq h.scope (fMemSize w) sx (fMemSeg w) (fD w) (fA w) (fMemOff w))
  | .cmdLit w1 w2 l => (headerOf w1).bind fun h =>
    if w1.extractLsb' 0 27 ≠ 0 ∨ w2 ≠ 0 ∨ fMemOff w ≠ 0 then .error .reserved else
    need (h.acq = true ∧ h.rel = false) .header (.ldAcqLit h.scope (fMemSize w) sx (fMemSeg w) (fD w) (fA w) l)

/-- Major 0x21: `st` (R60). SX is 0, and a header may set REL only. -/
def decodeSt (w : Word32) (t : Tail) : Except Reject Instr :=
  if bit w 17 ∨ bit w 18 then .error .reserved else
  match t with
  | .none => .ok (.st (fMemSize w) (fMemSeg w) (fD w) (fA w) (fMemOff w))
  | .lit l => need (fMemOff w = 0) .reserved (.stLit (fMemSize w) (fMemSeg w) (fD w) (fA w) l)
  | .cmd w1 w2 => (headerOf w1).bind fun h =>
    if w1.extractLsb' 0 27 ≠ 0 ∨ w2 ≠ 0 then .error .reserved else
    need (h.acq = false ∧ h.rel = true) .header (.stRel h.scope (fMemSize w) (fMemSeg w) (fD w) (fA w) (fMemOff w))
  | .cmdLit w1 w2 l => (headerOf w1).bind fun h =>
    if w1.extractLsb' 0 27 ≠ 0 ∨ w2 ≠ 0 ∨ fMemOff w ≠ 0 then .error .reserved else
    need (h.acq = false ∧ h.rel = true) .header (.stRelLit h.scope (fMemSize w) (fMemSeg w) (fD w) (fA w) l)

/-- VMEM: D4:D, SEG and OFF7 (R52). -/
def fVmemSeg (w : Word32) : Seg := (w.extractLsb' 28 3).toFin
def fVmemOff (w : Word32) : BitVec 7 := w.extractLsb' 21 7

/-- Majors 0x22 and 0x23: `ldv` and `stv` (R60, R189). -/
def decodeVmem (w : Word32) (t : Tail) (store : Bool) : Except Reject Instr :=
  if fB w ≠ 0 then .error .reserved else
  match t with
  | .none =>
    if store then .ok (.stv (fVD w) (fVmemSeg w) (fA w) (fVmemOff w))
    else .ok (.ldv (fVD w) (fVmemSeg w) (fA w) (fVmemOff w))
  | .lit l =>
    if fVmemOff w ≠ 0 then .error .reserved
    else if store then .ok (.stvLit (fVD w) (fVmemSeg w) (fA w) l)
    else .ok (.ldvLit (fVD w) (fVmemSeg w) (fA w) l)
  | .cmd _ _ | .cmdLit _ _ _ => .error .length

/-- Majors 0x24 and 0x25: `gath` and `scat` (R60, R174). -/
def decodeGath (w : Word32) (store : Bool) : Except Reject Instr :=
  if bit w 30 ∨ bit w 28 then .error .reserved else
  (fType w).bind fun t =>
  let seg : Seg := (w.extractLsb' 25 3).toFin
  if store then .ok (.scat t (fVD w) seg (fA w) (fVB w)) else .ok (.gath t (fVD w) seg (fA w) (fVB w))

/-- Major 0x26: segment registers (R59, R189). -/
def decodeSegOps (w : Word32) : Except Reject Instr :=
  match (fMinor5 w).toNat with
  | 0 => need (bit w 12 = false ∧ fB w = 0 ∧ fArgLo3 w = 0) .reserved (.segld (fDSeg w) (fA w) (fArgHi3 w))
  | 1 => need (bit w 12 = false ∧ fB w = 0 ∧ fArgLo3 w = 0) .reserved (.segst (fDSeg w) (fA w) (fArgHi3 w))
  | 2 => need (bit w 12 = false ∧ w.extractLsb' 21 2 = 0) .reserved
      (.segset (fDSeg w) (fA w) (fB w) (w.extractLsb' 23 4).toFin)
  | _ => .error .minor

/-- Major 0x27: the key-value translation buffer (R59, R189). -/
def decodeKvt (w : Word32) : Except Reject Instr :=
  if fArg6 w ≠ 0 then .error .reserved else
  match (fMinor5 w).toNat with
  | 0 => .ok (.kvtl (fD w) (fA w) (fB w))
  | 1 => need (fD w = 0) .reserved (.kvtw (fA w) (fB w))
  | 2 => need (fD w = 0 ∧ fB w = 0) .reserved (.kvti (fA w))
  | 3 => need (fD w = 0 ∧ fB w = 0 ∧ fA w = 0) .reserved .kret
  | _ => .error .minor

/-- The reserved fields of an atomic: [23:21], and the rest of W1 and W2 under L = 10 (R208). -/
def atomReserved (w : Word32) (t : Tail) : Bool :=
  decide (w.extractLsb' 21 3 ≠ 0) ||
  (match t with
   | .cmd w1 w2 => decide (w1.extractLsb' 0 27 ≠ 0) || decide (w2 ≠ 0)
   | .none | .lit _ | .cmdLit _ _ _ => false)
/-- ATOM: SEG and OP (R52). -/
def fAtomSeg (w : Word32) : Seg := (w.extractLsb' 24 3).toFin
def fAtomOp (w : Word32) : BitVec 4 := w.extractLsb' 28 4

/-- Major 0x30: `amo` (R61). -/
def decodeAmo (w : Word32) (t : Tail) : Except Reject Instr :=
  if atomReserved w t then .error .reserved else
  (amoOf (fAtomOp w)).bind fun op =>
  match t with
  | .none => .ok (.amo op (fW27 w) (fAtomSeg w) (fD w) (fA w) (fB w))
  | .cmd w1 _ => (headerOf w1).bind fun h => .ok (.amoOrdered h op (fW27 w) (fAtomSeg w) (fD w) (fA w) (fB w))
  | .lit _ | .cmdLit _ _ _ => .error .length

/-- Major 0x31: `cas` (R61). -/
def decodeCas (w : Word32) (t : Tail) : Except Reject Instr :=
  if atomReserved w t then .error .reserved else
  if fAtomOp w ≠ 0 then .error .minor else
  match t with
  | .none => .ok (.cas (fW27 w) (fAtomSeg w) (fD w) (fA w) (fB w))
  | .cmd w1 _ => (headerOf w1).bind fun h => .ok (.casOrdered h (fW27 w) (fAtomSeg w) (fD w) (fA w) (fB w))
  | .lit _ | .cmdLit _ _ _ => .error .length

/-- Major 0x32: `red` (R61). D is 0 and a header may set REL only. -/
def decodeRed (w : Word32) (t : Tail) : Except Reject Instr :=
  if atomReserved w t ∨ fD w ≠ 0 then .error .reserved else
  (amoOf (fAtomOp w)).bind fun op =>
  match t with
  | .none => .ok (.red op (fW27 w) (fAtomSeg w) (fA w) (fB w))
  | .cmd w1 _ => (headerOf w1).bind fun h =>
    need (h.acq = false ∧ h.rel = true) .header (.redRel h.scope op (fW27 w) (fAtomSeg w) (fA w) (fB w))
  | .lit _ | .cmdLit _ _ _ => .error .length

/-- Major 0x33: `waitw` (R61). A header may set ACQ only. -/
def decodeWaitw (w : Word32) (t : Tail) : Except Reject Instr :=
  if atomReserved w t then .error .reserved else
  if fAtomOp w ≠ 0 then .error .minor else
  match t with
  | .none => .ok (.waitw (fW27 w) (fAtomSeg w) (fD w) (fA w) (fB w))
  | .cmd w1 _ => (headerOf w1).bind fun h =>
    need (h.acq = true ∧ h.rel = false) .header (.waitwAcq h.scope (fW27 w) (fAtomSeg w) (fD w) (fA w) (fB w))
  | .lit _ | .cmdLit _ _ _ => .error .length

/-- Majors 0x34 and 0x35: `fence` and `bfence` (R59, R208). -/
def decodeScope (w : Word32) (bank : Bool) : Except Reject Instr :=
  if w.extractLsb' 9 20 ≠ 0 then .error .reserved else
  (scopeOf (w.extractLsb' 29 3)).map fun s => if bank then .bfence s else .fence s

/-- A SUB major of a single instruction: MINOR 0 and, where `arg0` says so, ARG6 0 (R59). -/
def single (w : Word32) (arg0 : Bool) (c : Prop) [Decidable c] (i : Instr) : Except Reject Instr :=
  if fMinor5 w ≠ 0 then .error .minor
  else if arg0 ∧ fArg6 w ≠ 0 then .error .reserved
  else need c .reserved i

/-- Major 0x38: `migr` (R232). -/
def decodeMigr (w : Word32) : Except Reject Instr :=
  single w false (fB w = 0 ∧ fD w = 0 ∧ w.extractLsb' 21 5 = 0) (if bit w 26 then .migrL (fA w) else .migr (fA w))
/-- Major 0x39: `miga` (R232). -/
def decodeMiga (w : Word32) : Except Reject Instr :=
  single w false (fB w = 0 ∧ fD w = 0 ∧ w.extractLsb' 24 2 = 0)
    (if bit w 26 then .migaL (fArgLo3 w) (fA w) else .miga (fArgLo3 w) (fA w))
/-- Major 0x3A: `chmap` (R232). -/
def decodeChmap (w : Word32) : Except Reject Instr :=
  single w false (fB w = 0 ∧ w.extractLsb' 21 5 = 0)
    (if bit w 26 then .chmapOut (fD w) (fA w) else .chmapIn (fD w) (fA w))

/-- Major 0x43: vector movement and conversion (R62, R297). -/
def decodeVecMove (w : Word32) : Except Reject Instr :=
  (fType w).bind fun t =>
  match (fVecMinor w).toNat with
  | 0 => (typeOf (w.extractLsb' 17 4)).bind fun s => need (bit w 29 = false) .reserved (.vcvt t s (fVD w) (fVA w))
  | 1 => (typeOf (w.extractLsb' 17 4)).bind fun s => need (bit w 29 = false) .reserved (.vcvtSat t s (fVD w) (fVA w))
  | 2 => need (bit w 29 = false) .reserved (.vcvtSr t (fVD w) (fVA w) (fB w))
  | 3 => need (bit w 30 = false ∧ bit w 29 = false ∧ fB w = 0) .reserved (.vbcast t (fVD w) (fA w))
  | 4 => need (bit w 31 = false ∧ bit w 29 = false) .reserved (.vmovg t (fD w) (fVA w) (fB w))
  | 5 => .ok (.vshuf t (fVD w) (fVA w) (fVB w))
  | 6 => need (bit w 29 = false) .reserved (.vslide t (fVD w) (fVA w) (fB w))
  | 7 => need (bit w 30 = false ∧ fA w = 0 ∧ bit w 29 = false ∧ fB w = 0) .reserved (.viota t (fVD w))
  | _ => .error .minor

/-- The base word of an extended form: [31:21] are 0 (R55). -/
def extBase (w : Word32) : Bool := decide (w.extractLsb' 21 11 = 0)

/-- The command fields of `mma` (R301); a BTYPE of `mmar` is checked by its caller. -/
def mmaFieldsOf (w1 w2 : Word32) : Except Reject MmaFields :=
  (typeOf (w2.extractLsb' 28 4)).bind fun at' =>
  (typeOf (w2.extractLsb' 24 4)).bind fun bt =>
  if w1.extractLsb' 0 3 ≠ 0 ∨ w2.extractLsb' 0 9 ≠ 0 then .error .reserved else
  .ok { mm1 := w1.extractLsb' 19 8, km1 := w1.extractLsb' 11 8, nm1 := w1.extractLsb' 3 8, atype := at', btype := bt,
        asrc := bit w2 23, aslot := (w2.extractLsb' 20 3).toFin, bsrc := bit w2 19,
        bslot := (w2.extractLsb' 16 3).toFin, gath := bit w2 15, idx := (w2.extractLsb' 10 5).toFin, zero := bit w2 9 }

/-- Major 0x50: `mma` (R301, R319). -/
def decodeMma (w : Word32) (t : Tail) : Except Reject Instr :=
  if !extBase w then .error .reserved else
  match t with
  | .cmd w1 w2 => (headerOf w1).bind fun h => (mmaFieldsOf w1 w2).bind fun f => .ok (.mma h (fD w) (fA w) (fB w) f)
  | .cmdLit w1 w2 l =>
    (headerOf w1).bind fun h => (mmaFieldsOf w1 w2).bind fun f => .ok (.mmaPitch h (fD w) (fA w) (fB w) f l)
  | .none | .lit _ => .error .length

/-- The command fields of `mmar` (R301): KM1, NM1, BTYPE, BSRC and BSLOT are 0 (R319). -/
def mmarFieldsOf (w w1 w2 : Word32) : Except Reject MmarFields :=
  (typeOf (w2.extractLsb' 28 4)).bind fun at' =>
  if w1.extractLsb' 0 19 ≠ 0 ∨ w2.extractLsb' 0 9 ≠ 0 ∨ w2.extractLsb' 24 4 ≠ 0 ∨ w2.extractLsb' 16 4 ≠ 0 ∨ fB w ≠ 0
  then .error .reserved else
  .ok { mm1 := w1.extractLsb' 19 8, atype := at', asrc := bit w2 23, aslot := (w2.extractLsb' 20 3).toFin,
        gath := bit w2 15, idx := (w2.extractLsb' 10 5).toFin, zero := bit w2 9 }

/-- Major 0x51: `mmar` (R301, R319). -/
def decodeMmar (w : Word32) (t : Tail) : Except Reject Instr :=
  if !extBase w then .error .reserved else
  match t with
  | .cmd w1 w2 => (headerOf w1).bind fun h => (mmarFieldsOf w w1 w2).bind fun f => .ok (.mmar h (fD w) (fA w) f)
  | .cmdLit w1 w2 l =>
    (headerOf w1).bind fun h => (mmarFieldsOf w w1 w2).bind fun f => .ok (.mmarPitch h (fD w) (fA w) f l)
  | .none | .lit _ => .error .length

/-- Major 0x52: accumulator commands (R319). -/
def decodeAcc (w : Word32) : Except Reject Instr :=
  if fArg6 w ≠ 0 then .error .reserved else
  match (fMinor5 w).toNat with
  | 0 => need (fD w = 0) .reserved (.aclr (fA w) (fB w))
  | 1 => need (fB w = 0) .reserved (.acrd (fD w) (fA w))
  | 2 => need (fB w = 0) .reserved (.acwr (fD w) (fA w))
  | _ => .error .minor

/-- Major 0x54: batches (R319). -/
def decodeBatch (w : Word32) : Except Reject Instr :=
  if fB w ≠ 0 ∨ fA w ≠ 0 ∨ fD w ≠ 0 then .error .reserved else
  match (fMinor5 w).toNat with
  | 0 => need (fArg6 w = 0) .reserved .commit
  | 1 => need (w.extractLsb' 25 2 = 0) .reserved (.waitb (fArgLo4 w))
  | _ => .error .minor

/-- Major 0x55: repetition (R318). -/
noncomputable def decodeRep (w : Word32) : Except Reject Instr :=
  if fArg6 w ≠ 0 ∨ fB w ≠ 0 then .error .reserved else
  match (fMinor5 w).toNat with
  | 0 => need (fD w = 0) .reserved (.repb (fA w))
  | 1 => .ok (.repx (fD w) (fA w))
  | _ => .error .minor

/-- Major 0x58: `tour` (R263, R280). -/
def decodeTour (w : Word32) (t : Tail) : Except Reject Instr :=
  if fMinor5 w ≠ 0 then .error .minor else
  if fB w ≠ 0 ∨ w.extractLsb' 24 3 ≠ 0 then .error .reserved else
  match t with
  | .none => .ok (.tour (fArgLo3 w) (fD w) (fA w))
  | .cmd w1 w2 => (headerOf w1).bind fun h =>
    need (w1.extractLsb' 0 27 = 0 ∧ w2 = 0) .reserved (.tourOrdered h (fArgLo3 w) (fD w) (fA w))
  | .lit _ | .cmdLit _ _ _ => .error .length

/-- Major 0x59: tile slots (R280). -/
def decodeTileSlot (w : Word32) : Except Reject Instr :=
  if fArgLo3 w ≠ 0 ∨ fB w ≠ 0 then .error .reserved else
  match (fMinor5 w).toNat with
  | 0 => need (fA w = 0) .reserved (.twait (fArgHi3 w) (fD w))
  | 1 => need (fA w = 0 ∧ fD w = 0) .reserved (.trel (fArgHi3 w))
  | 2 => need (fD w = 0) .reserved (.thold (fArgHi3 w) (fA w))
  | 3 => need (fA w = 0) .reserved (.tstat (fArgHi3 w) (fD w))
  | 4 => need (fA w = 0) .reserved (.tabort (fArgHi3 w) (fD w))
  | _ => .error .minor

/-- Major 0x5A: tile loads and stores (R280). -/
def decodeTileMem (w : Word32) : Except Reject Instr :=
  if fB w ≠ 0 ∨ bit w 21 then .error .reserved else
  match (fMinor5 w).toNat with
  | 0 => .ok (.tld (fArgHi3 w) (w.extractLsb' 22 2).toFin (fD w) (fA w))
  | 1 => .ok (.tst (fArgHi3 w) (w.extractLsb' 22 2).toFin (fD w) (fA w))
  | _ => .error .minor

/-- The command fields of `mvb` (R326). -/
def mvbFieldsOf (w1 w2 : Word32) : Except Reject MvbFields :=
  (typeOf (w1.extractLsb' 13 4)).bind fun wt =>
  (typeOf (w1.extractLsb' 9 4)).bind fun at' =>
  if w1.extractLsb' 0 5 ≠ 0 then .error .reserved else
  .ok { wseg := (w1.extractLsb' 24 3).toFin, dseg := (w1.extractLsb' 21 3).toFin, accum := bit w1 20,
        vm1 := (w1.extractLsb' 17 3).toFin, wtype := wt, atype := at', slog := (w1.extractLsb' 5 4).toFin,
        cm1 := w2.extractLsb' 19 13, rm1 := w2.extractLsb' 0 19 }

/-- Major 0x5C: `mvb` (R326, R337). -/
def decodeMvb (w : Word32) (t : Tail) : Except Reject Instr :=
  if !extBase w then .error .reserved else
  match t with
  | .cmd w1 w2 => (headerOf w1).bind fun h => (mvbFieldsOf w1 w2).bind fun f => .ok (.mvb h (fD w) (fA w) (fB w) f)
  | .cmdLit w1 w2 l =>
    (headerOf w1).bind fun h => (mvbFieldsOf w1 w2).bind fun f => .ok (.mvbCb4 h (fD w) (fA w) (fB w) f l)
  | .none | .lit _ => .error .length

/-- The C register of a copy's W1 (R180). -/
def fCpyC (w1 : Word32) : Reg := (w1.extractLsb' 17 4).toFin
def fCpyDseg (w1 : Word32) : Seg := (w1.extractLsb' 24 3).toFin
def fCpySseg (w1 : Word32) : Seg := (w1.extractLsb' 21 3).toFin

/-- Major 0x6C: `cpy` (R180, R189). -/
def decodeCpy (w : Word32) (t : Tail) : Except Reject Instr :=
  if !extBase w then .error .reserved else
  match t with
  | .cmd w1 w2 => (headerOf w1).bind fun h =>
    need (w1.extractLsb' 0 17 = 0 ∧ w2 = 0) .reserved
      (.cpy h (fD w) (fA w) (fB w) (fCpyDseg w1) (fCpySseg w1) (fCpyC w1))
  | .cmdLit w1 w2 l => (headerOf w1).bind fun h =>
    need (w1.extractLsb' 0 21 = 0 ∧ w2 = 0) .reserved (.cpyLit h (fD w) (fA w) (fB w) (fCpyDseg w1) (fCpySseg w1) l)
  | .none | .lit _ => .error .length

/-- Major 0x6D: `cpy2` (R180, R189). -/
def decodeCpy2 (w : Word32) (t : Tail) : Except Reject Instr :=
  if !extBase w then .error .reserved else
  match t with
  | .cmd w1 w2 => (headerOf w1).bind fun h =>
    need (bit w1 16 = false ∧ w2.extractLsb' 24 8 = 0) .reserved
      (.cpy2 h (fD w) (fA w) (fB w) (fCpyDseg w1) (fCpySseg w1) (fCpyC w1) (w1.extractLsb' 0 16) (w2.extractLsb' 0 24))
  | .cmdLit w1 w2 l => (headerOf w1).bind fun h =>
    need (w1.extractLsb' 16 5 = 0 ∧ w2.extractLsb' 24 8 = 0) .reserved
      (.cpy2Lit h (fD w) (fA w) (fB w) (fCpyDseg w1) (fCpySseg w1) l (w1.extractLsb' 0 16) (w2.extractLsb' 0 24))
  | .none | .lit _ => .error .length

/-- Major 0x6E: `cstart` (R382). -/
def decodeCstart (w : Word32) (t : Tail) : Except Reject Instr :=
  if !extBase w then .error .reserved else
  match t with
  | .cmd w1 w2 => (headerOf w1).bind fun h =>
    need (w1.extractLsb' 0 18 = 0 ∧ w2.extractLsb' 20 12 = 0) .reserved
      (.cstart h (fD w) (fA w) (fB w) (w1.extractLsb' 24 3).toFin (w1.extractLsb' 21 3).toFin
        (w1.extractLsb' 18 3).toFin (w2.extractLsb' 0 20))
  | .none | .lit _ | .cmdLit _ _ _ => .error .length

/-- Major 0x40, register forms (R62). -/
def decodeVecArith (w : Word32) : Except Reject Instr :=
  (fType w).bind fun t =>
  match (fVecMinor w).toNat with
  | 0 => .ok (.vadd t (fVD w) (fVA w) (fVB w))
  | 1 => .ok (.vsub t (fVD w) (fVA w) (fVB w))
  | 2 => .ok (.vmul t (fVD w) (fVA w) (fVB w))
  | 3 => .ok (.vfma t (fVD w) (fVA w) (fVB w))
  | 4 => .ok (.vfms t (fVD w) (fVA w) (fVB w))
  | 5 => .ok (.vmax t (fVD w) (fVA w) (fVB w))
  | 6 => .ok (.vmin t (fVD w) (fVA w) (fVB w))
  | 7 => need (fB w = 0 ∧ bit w 29 = false) .reserved (.vabs t (fVD w) (fVA w))
  | 8 => need (fB w = 0 ∧ bit w 29 = false) .reserved (.vneg t (fVD w) (fVA w))
  | 9 => .ok (.vaddSat t (fVD w) (fVA w) (fVB w))
  | 10 => .ok (.vsubSat t (fVD w) (fVA w) (fVB w))
  | _ => .error .minor

/-- Major 0x41 (R62). -/
def decodeVecTrans (w : Word32) : Except Reject Instr :=
  (fType w).bind fun t =>
  match (fVecMinor w).toNat with
  | 0 => need (fB w = 0 ∧ bit w 29 = false) .reserved (.vexp2 t (fVD w) (fVA w))
  | 1 => need (fB w = 0 ∧ bit w 29 = false) .reserved (.vlog2 t (fVD w) (fVA w))
  | 2 => need (fB w = 0 ∧ bit w 29 = false) .reserved (.vrcp t (fVD w) (fVA w))
  | 3 => need (fB w = 0 ∧ bit w 29 = false) .reserved (.vrsq t (fVD w) (fVA w))
  | _ => .error .minor

/-- Major 0x42, register forms (R62). -/
def decodeVecLogic (w : Word32) : Except Reject Instr :=
  (fType w).bind fun t =>
  match (fVecMinor w).toNat with
  | 0 => .ok (.vcmpEq t (fVD w) (fVA w) (fVB w))
  | 1 => .ok (.vcmpNe t (fVD w) (fVA w) (fVB w))
  | 2 => .ok (.vcmpLt t (fVD w) (fVA w) (fVB w))
  | 3 => .ok (.vcmpLe t (fVD w) (fVA w) (fVB w))
  | 4 => .ok (.vsel t (fVD w) (fVA w) (fVB w))
  | 5 => .ok (.vand t (fVD w) (fVA w) (fVB w))
  | 6 => .ok (.vor t (fVD w) (fVA w) (fVB w))
  | 7 => .ok (.vxor t (fVD w) (fVA w) (fVB w))
  | 8 => .ok (.vshl t (fVD w) (fVA w) (fVB w))
  | 9 => .ok (.vshr t (fVD w) (fVA w) (fVB w))
  | 10 => .ok (.vsar t (fVD w) (fVA w) (fVB w))
  | _ => .error .minor

/-- Major 0x44 (R62). -/
def decodeVecReduce (w : Word32) : Except Reject Instr :=
  (fType w).bind fun t =>
  match (fVecMinor w).toNat with
  | 0 => .ok (.vredsum t (fVD w) (fVA w) (fVB w))
  | 1 => .ok (.vredsumSat t (fVD w) (fVA w) (fVB w))
  | 2 => .ok (.vredmax t (fVD w) (fVA w) (fVB w))
  | 3 => .ok (.vredmin t (fVD w) (fVA w) (fVB w))
  | 4 => .ok (.vdot t (fVD w) (fVA w) (fVB w))
  | 5 => .ok (.vdotSat t (fVD w) (fVA w) (fVB w))
  | _ => .error .minor

/-- Major 0x40, literal forms (R62). -/
def decodeVecArithLit (w : Word32) (lit : Word64) : Except Reject Instr :=
  (fType w).bind fun t =>
  match (fVecMinor w).toNat with
  | 0 => need (fB w = 0 ∧ bit w 29 = false) .reserved (.vaddLit t (fVD w) (fVA w) lit)
  | 1 => need (fB w = 0 ∧ bit w 29 = false) .reserved (.vsubLit t (fVD w) (fVA w) lit)
  | 2 => need (fB w = 0 ∧ bit w 29 = false) .reserved (.vmulLit t (fVD w) (fVA w) lit)
  | 3 => need (fB w = 0 ∧ bit w 29 = false) .reserved (.vfmaLit t (fVD w) (fVA w) lit)
  | 4 => need (fB w = 0 ∧ bit w 29 = false) .reserved (.vfmsLit t (fVD w) (fVA w) lit)
  | 5 => need (fB w = 0 ∧ bit w 29 = false) .reserved (.vmaxLit t (fVD w) (fVA w) lit)
  | 6 => need (fB w = 0 ∧ bit w 29 = false) .reserved (.vminLit t (fVD w) (fVA w) lit)
  | 9 => need (fB w = 0 ∧ bit w 29 = false) .reserved (.vaddSatLit t (fVD w) (fVA w) lit)
  | 10 => need (fB w = 0 ∧ bit w 29 = false) .reserved (.vsubSatLit t (fVD w) (fVA w) lit)
  | _ => .error .minor

/-- Major 0x42, literal forms (R62). -/
def decodeVecLogicLit (w : Word32) (lit : Word64) : Except Reject Instr :=
  (fType w).bind fun t =>
  match (fVecMinor w).toNat with
  | 0 => need (fB w = 0 ∧ bit w 29 = false) .reserved (.vcmpEqLit t (fVD w) (fVA w) lit)
  | 1 => need (fB w = 0 ∧ bit w 29 = false) .reserved (.vcmpNeLit t (fVD w) (fVA w) lit)
  | 2 => need (fB w = 0 ∧ bit w 29 = false) .reserved (.vcmpLtLit t (fVD w) (fVA w) lit)
  | 3 => need (fB w = 0 ∧ bit w 29 = false) .reserved (.vcmpLeLit t (fVD w) (fVA w) lit)
  | 4 => need (fB w = 0 ∧ bit w 29 = false) .reserved (.vselLit t (fVD w) (fVA w) lit)
  | 5 => need (fB w = 0 ∧ bit w 29 = false) .reserved (.vandLit t (fVD w) (fVA w) lit)
  | 6 => need (fB w = 0 ∧ bit w 29 = false) .reserved (.vorLit t (fVD w) (fVA w) lit)
  | 7 => need (fB w = 0 ∧ bit w 29 = false) .reserved (.vxorLit t (fVD w) (fVA w) lit)
  | 8 => need (fB w = 0 ∧ bit w 29 = false) .reserved (.vshlLit t (fVD w) (fVA w) lit)
  | 9 => need (fB w = 0 ∧ bit w 29 = false) .reserved (.vshrLit t (fVD w) (fVA w) lit)
  | 10 => need (fB w = 0 ∧ bit w 29 = false) .reserved (.vsarLit t (fVD w) (fVA w) lit)
  | _ => .error .minor

/-! ## The major map (R55) -/

/-- Step 2 of R64: whether MAJOR is assigned and accepts L. -/
def majorCheck (w : Word32) : Except Reject Unit :=
  let l := (fL w).toNat
  let only (ok : Bool) : Except Reject Unit := if ok then .ok () else .error .length
  match (fMajor w).toNat with
  | 0x01 => only (l == 1)
  | 0x0A | 0x22 | 0x23 | 0x40 | 0x42 => only (l == 0 || l == 1)
  | 0x20 | 0x21 => only true
  | 0x30 | 0x31 | 0x32 | 0x33 | 0x58 => only (l == 0 || l == 2)
  | 0x50 | 0x51 | 0x5C | 0x6C | 0x6D => only (l == 2 || l == 3)
  | 0x6E => only (l == 2)
  | 0x00 | 0x02 | 0x03 | 0x04 | 0x05 | 0x06 | 0x07 | 0x08 | 0x09 | 0x0B | 0x10 | 0x11 | 0x12 | 0x13 | 0x14 | 0x15
  | 0x18 | 0x19 | 0x24 | 0x25 | 0x26 | 0x27 | 0x34 | 0x35 | 0x36 | 0x37 | 0x38 | 0x39 | 0x3A | 0x3B | 0x3C
  | 0x41 | 0x43 | 0x44 | 0x52 | 0x53 | 0x54 | 0x55 | 0x59 | 0x5A | 0x5D | 0x5F | 0x60 | 0x61 | 0x62
  | 0x64 | 0x65 | 0x66 | 0x67 | 0x68 | 0x69 | 0x6A | 0x6B | 0x6F => only (l == 0)
  | _ => .error .major

/-- The length in words of the instruction whose first word this is (R49). -/
def wordCount (w : Word32) : Nat :=
  match (fL w).toNat with
  | 0 => 1
  | 3 => 5
  | _ => 3

/-- The words after the base word, read as L says (R49); none where one is missing. -/
def tailOf (w : Word32) : List Word32 → Option Tail
  | rest => match (fL w).toNat, rest with
    | 0, _ => some .none
    | 1, lo :: hi :: _ => some (.lit (hi ++ lo))
    | 2, w1 :: w2 :: _ => some (.cmd w1 w2)
    | 3, w1 :: w2 :: lo :: hi :: _ => some (.cmdLit w1 w2 (hi ++ lo))
    | _, _ => none

/-- Majors that a repetition's block may not hold (R317). -/
def barredMajor (w : Word32) : Bool :=
  [0x10, 0x11, 0x12, 0x13, 0x14, 0x15, 0x18, 0x19, 0x38, 0x39, 0x55, 0x5F, 0x60, 0x68, 0x69, 0x6A, 0x6B].contains (fMajor w).toNat

/-- The majors that a repetition's block may not hold: control, contexts, migration, repetitions, positions and the kernel. -/
noncomputable def decodeBarred (w : Word32) : Except Reject Instr :=
  match (fMajor w).toNat with
  | 0x10 => .ok (.br (w.extractLsb' 9 23))
  | 0x11 => .ok (.call (w.extractLsb' 9 23))
  | 0x12 => decodeCbr w
  | 0x13 => decodeBrz w
  | 0x14 => decodeJump w
  | 0x15 => need (fD w = 0) .reserved (.loop (fA w) (w.extractLsb' 17 15))
  | 0x18 => decodeSystem w
  | 0x19 => decodeContext w
  | 0x38 => decodeMigr w
  | 0x39 => decodeMiga w
  | 0x55 => decodeRep w
  | 0x5F => single w true (fD w = 0) (.posw (fA w) (fB w))
  | 0x60 => single w true (fD w = 0) (.posa (fA w) (fB w))
  | 0x68 => single w true (fB w = 0) (.launch (fD w) (fA w))
  | 0x69 => single w true (fB w = 0 ∧ fA w = 0) (.wunext (fD w))
  | 0x6A => single w true (fB w = 0 ∧ fD w = 0) (.wudone (fA w))
  | 0x6B => single w true (fB w = 0) (.rcast (fD w) (fA w))
  | _ => .error .major

/-- The other majors. -/
def decodePlain (w : Word32) (t : Tail) : Except Reject Instr :=
  match (fMajor w).toNat with
  | 0x00 => decodeReg w
  | 0x01 => match t with
    | .lit l => decodeRegLit w l
    | .none | .cmd _ _ | .cmdLit _ _ _ => .error .length
  | 0x02 => .ok (.addImm (fW17 w) (fD w) (fA w) (fImm14 w))
  | 0x03 => .ok (.mulImm (fW17 w) (fD w) (fA w) (fImm14 w))
  | 0x04 => .ok (.andImm (fW17 w) (fD w) (fA w) (fImm14 w))
  | 0x05 => .ok (.orImm (fW17 w) (fD w) (fA w) (fImm14 w))
  | 0x06 => .ok (.xorImm (fW17 w) (fD w) (fA w) (fImm14 w))
  | 0x07 => decodeShi w
  | 0x08 => decodeSeti w
  | 0x09 => decodeFldi w
  | 0x0A => match t with
    | .none => .ok (.movi (fD w) (w.extractLsb' 13 19))
    | .lit l => need (w.extractLsb' 13 19 = 0) .reserved (.moviLit (fD w) l)
    | .cmd _ _ | .cmdLit _ _ _ => .error .length
  | 0x0B => need (bit w 17 = true ∧ bit w 16 = false) .limit (.saddr (fD w) (fASeg w) (fImm14 w))
  | 0x20 => decodeLd w t
  | 0x21 => decodeSt w t
  | 0x22 => decodeVmem w t false
  | 0x23 => decodeVmem w t true
  | 0x24 => decodeGath w false
  | 0x25 => decodeGath w true
  | 0x26 => decodeSegOps w
  | 0x27 => decodeKvt w
  | 0x30 => decodeAmo w t
  | 0x31 => decodeCas w t
  | 0x32 => decodeRed w t
  | 0x33 => decodeWaitw w t
  | 0x34 => decodeScope w false
  | 0x35 => decodeScope w true
  | 0x36 => single w false (fB w = 0 ∧ fA w = 0) (.bar (fD w) (bit w 26) (bit w 25) (fArgLo4 w))
  | 0x37 => single w true (fB w = 0 ∧ fA w = 0) (.qprobe (fD w))
  | 0x3A => decodeChmap w
  | 0x3B => single w true (fB w = 0 ∧ fA w = 0) (.chunmap (fD w))
  | 0x3C => single w true (fB w = 0) (.chstat (fD w) (fA w))
  | 0x40 => match t with
    | .lit l => decodeVecArithLit w l
    | .none | .cmd _ _ | .cmdLit _ _ _ => decodeVecArith w
  | 0x41 => decodeVecTrans w
  | 0x42 => match t with
    | .lit l => decodeVecLogicLit w l
    | .none | .cmd _ _ | .cmdLit _ _ _ => decodeVecLogic w
  | 0x43 => decodeVecMove w
  | 0x44 => decodeVecReduce w
  | 0x50 => decodeMma w t
  | 0x51 => decodeMmar w t
  | 0x52 => decodeAcc w
  | 0x53 => single w false (fB w = 0 ∧ fD w = 0 ∧ fArgHi3 w = 0) (.cbld (fArgLo3 w) (fA w))
  | 0x54 => decodeBatch w
  | 0x58 => decodeTour w t
  | 0x59 => decodeTileSlot w
  | 0x5A => decodeTileMem w
  | 0x5C => decodeMvb w t
  | 0x5D => single w true (fB w = 0) (.bstat (fD w) (fA w))
  | 0x61 => single w true True (.nbr (fD w) (fA w) (fB w))
  | 0x62 => single w true (fB w = 0) (.cellq (fD w) (fA w))
  | 0x64 => single w true (fB w = 0 ∧ fA w = 0) (.timrd (fD w))
  | 0x65 => single w true True (.tickw (fD w) (fA w) (fB w))
  | 0x66 => single w true (fB w = 0) (.winq (fD w) (fA w))
  | 0x67 => single w true True (.wintake (fD w) (fA w) (fB w))
  | 0x6C => decodeCpy w t
  | 0x6D => decodeCpy2 w t
  | 0x6E => decodeCstart w t
  | 0x6F => single w true (fB w = 0) (.cwait (fD w) (fA w))
  | _ => .error .major

/-- An instruction from its first word and what follows it, before the limits of `Instr.wf`. -/
noncomputable def decodeFields (w : Word32) (t : Tail) : Except Reject Instr :=
  if barredMajor w then decodeBarred w else decodePlain w t

/-- Step 4 of R64: the remaining checks of R63 on a fetched instruction. -/
noncomputable def decodeInstr (w : Word32) (t : Tail) : Except Reject Instr :=
  match decodeFields w t with
  | .error r => .error r
  | .ok i => if i.wf then .ok i else .error .limit

/-- The instruction at the head of a list of words, and the words after it. -/
noncomputable def decodeWords : List Word32 → Except Reject (Instr × List Word32)
  | [] => .error .short
  | w :: rest =>
    match majorCheck w with
    | .error r => .error r
    | .ok () =>
      match tailOf w rest with
      | none => .error .short
      | some t =>
        match decodeInstr w t with
        | .error r => .error r
        | .ok i => .ok (i, rest.drop (wordCount w - 1))

/-- The little-endian words of a list of bytes (R2); a last part of a word is dropped. -/
def wordsOfBytes : List Byte → List Word32
  | a :: b :: c :: d :: t => (d ++ c ++ b ++ a) :: wordsOfBytes t
  | _ => []

/-- The bytes of a word, the least significant first (R2). -/
def bytesOfWord (w : Word32) : List Byte :=
  [w.extractLsb' 0 8, w.extractLsb' 8 8, w.extractLsb' 16 8, w.extractLsb' 24 8]

/-- The decoder on bytes: total on every list. -/
noncomputable def decodeBytes (bs : List Byte) : Except Reject (Instr × List Word32) := decodeWords (wordsOfBytes bs)

/-- The words of an instruction whose bits are `w`, bit 0 the least significant of the first word: five words, those
above `nbits` zero. -/
def tableWords (nbits w : Nat) : List Word32 :=
  let v := w % 2 ^ nbits
  [BitVec.ofNat 32 v, BitVec.ofNat 32 (v / 2 ^ 32), BitVec.ofNat 32 (v / 2 ^ 64), BitVec.ofNat 32 (v / 2 ^ 96),
   BitVec.ofNat 32 (v / 2 ^ 128)]

/-- The bytes of `tableWords`, as memory holds them. -/
def tableBytes (nbits w : Nat) : List Byte := (tableWords nbits w).flatMap bytesOfWord

/-- The instruction that the decoder reads from an instruction whose bits are `w`. -/
noncomputable def decodeTableWord (nbits w : Nat) : Option Instr :=
  match decodeBytes (tableBytes nbits w) with
  | .ok (i, _) => some i
  | .error _ => none

/-! ## The encoder -/

def ofReg (r : Fin 16) : BitVec 4 := BitVec.ofFin r
def ofSeg (s : Fin 8) : BitVec 3 := BitVec.ofFin s
/-- W (R51). -/
def ofWidth : Width → BitVec 1
  | .w32 => 0
  | .w64 => 1
/-- A segment in a register field, its top bit 0 (R51). -/
def segReg (s : Fin 8) : Reg := ⟨s.val, Nat.lt_trans s.isLt (by decide)⟩
/-- ARG6 with a field in [5:3], [5:2], [2:0] or [3:0]. -/
def hi3 (s : Fin 8) : BitVec 6 := ofSeg s ++ (0 : BitVec 3)
def hi4 (r : Fin 16) : BitVec 6 := ofReg r ++ (0 : BitVec 2)
def lo3 (s : Fin 8) : BitVec 6 := (0 : BitVec 3) ++ ofSeg s
def lo4 (r : Fin 16) : BitVec 6 := (0 : BitVec 2) ++ ofReg r
/-- ARG6 of `bar` (R59). -/
def barArg (drain level : Bool) (index : Fin 16) : BitVec 6 := BitVec.ofBool drain ++ BitVec.ofBool level ++ ofReg index
/-- ARG6 of `tld` and `tst` (R59). -/
def tileArg (t : Fin 8) (size : Fin 4) : BitVec 6 := ofSeg t ++ (BitVec.ofFin size : BitVec 2) ++ (0 : BitVec 1)

def typeCode : ElemType → BitVec 4
  | .f32 => 0 | .f16 => 1 | .bf16 => 2 | .e4m3 => 3 | .e5m2 => 4 | .i32 => 5 | .i16 => 6 | .i8 => 7 | .ui8 => 8
  | .i4 => 9 | .cb4 => 10
def scopeCode : Scope → BitVec 3
  | .cr => 0 | .qd => 1 | .n1 => 2 | .n2 => 3 | .cd => 4 | .md => 5 | .sy => 6
def amoCode : AmoOp → BitVec 4
  | .add => 0 | .and => 1 | .or => 2 | .xor => 3 | .min => 4 | .max => 5 | .minu => 6 | .maxu => 7 | .swap => 8
  | .fadd => 9
/-- The vector register fields that carry a type code or a general register, extension bit 0 (R62). -/
def typeReg (t : ElemType) : VReg := ((0 : BitVec 1) ++ typeCode t).toFin
def gpVec (r : Reg) : VReg := ((0 : BitVec 1) ++ ofReg r).toFin

/-- R50. -/
def packBase (x : BitVec 11) (b a d : Reg) (maj : BitVec 7) (l : BitVec 2) : Word32 :=
  x ++ ofReg b ++ ofReg a ++ ofReg d ++ maj ++ l
def packReg (minor : BitVec 6) (w : Width) (c b a d : Reg) (maj : BitVec 7) (l : BitVec 2) : Word32 :=
  minor ++ ofWidth w ++ ofReg c ++ ofReg b ++ ofReg a ++ ofReg d ++ maj ++ l
def packImm (imm : BitVec 14) (w : Width) (a d : Reg) (maj : BitVec 7) (l : BitVec 2) : Word32 :=
  imm ++ ofWidth w ++ ofReg a ++ ofReg d ++ maj ++ l
def packShi (op : BitVec 3) (sh : BitVec 6) (w : Width) (a d : Reg) (maj : BitVec 7) (l : BitVec 2) : Word32 :=
  op ++ (0 : BitVec 5) ++ sh ++ ofWidth w ++ ofReg a ++ ofReg d ++ maj ++ l
def packSeti (cond : BitVec 3) (imm : BitVec 11) (w : Width) (a d : Reg) (maj : BitVec 7) (l : BitVec 2) : Word32 :=
  cond ++ imm ++ ofWidth w ++ ofReg a ++ ofReg d ++ maj ++ l
def packFldi (op : BitVec 2) (len pos : BitVec 6) (w : Width) (a d : Reg) (maj : BitVec 7) (l : BitVec 2) : Word32 :=
  op ++ len ++ pos ++ ofWidth w ++ ofReg a ++ ofReg d ++ maj ++ l
def packMovi (imm : BitVec 19) (d : Reg) (maj : BitVec 7) (l : BitVec 2) : Word32 := imm ++ ofReg d ++ maj ++ l
def packBr (off : BitVec 23) (maj : BitVec 7) (l : BitVec 2) : Word32 := off ++ maj ++ l
def packBrz (off : BitVec 15) (a d : Reg) (maj : BitVec 7) (l : BitVec 2) : Word32 :=
  off ++ ofReg a ++ ofReg d ++ maj ++ l
def packSub (minor : BitVec 5) (arg6 : BitVec 6) (b a d : Reg) (maj : BitVec 7) (l : BitVec 2) : Word32 :=
  minor ++ arg6 ++ ofReg b ++ ofReg a ++ ofReg d ++ maj ++ l
def packMem (off : BitVec 8) (seg : Seg) (size : Fin 4) (sx : Bool) (a d : Reg) (maj : BitVec 7) (l : BitVec 2) : Word32 :=
  off ++ ofSeg seg ++ (BitVec.ofFin size : BitVec 2) ++ BitVec.ofBool sx ++ (0 : BitVec 1) ++ ofReg a ++ ofReg d ++ maj ++ l
/-- The bits [4] and [3:0] of a vector register number. -/
def vHi (v : VReg) : BitVec 1 := (BitVec.ofFin v : BitVec 5).extractLsb' 4 1
def vLo (v : VReg) : BitVec 4 := (BitVec.ofFin v : BitVec 5).extractLsb' 0 4
def packVmem (v : VReg) (seg : Seg) (off : BitVec 7) (a : Reg) (maj : BitVec 7) (l : BitVec 2) : Word32 :=
  vHi v ++ ofSeg seg ++ off ++ (0 : BitVec 4) ++ ofReg a ++ vLo v ++ maj ++ l
def packGath (v idx : VReg) (seg : Seg) (t : ElemType) (a : Reg) (maj : BitVec 7) (l : BitVec 2) : Word32 :=
  vHi v ++ (0 : BitVec 1) ++ vHi idx ++ (0 : BitVec 1) ++ ofSeg seg ++ typeCode t ++ vLo idx ++ ofReg a ++ vLo v ++ maj ++ l
def packAtom (op : BitVec 4) (w : Width) (seg : Seg) (b a d : Reg) (maj : BitVec 7) (l : BitVec 2) : Word32 :=
  op ++ ofWidth w ++ ofSeg seg ++ (0 : BitVec 3) ++ ofReg b ++ ofReg a ++ ofReg d ++ maj ++ l
def packVec (minor : BitVec 4) (t : ElemType) (d a b : VReg) (maj : BitVec 7) (l : BitVec 2) : Word32 :=
  vHi d ++ vHi a ++ vHi b ++ minor ++ typeCode t ++ vLo b ++ vLo a ++ vLo d ++ maj ++ l
def packScope (s : Scope) (maj : BitVec 7) : Word32 := scopeCode s ++ (0 : BitVec 20) ++ maj ++ (0 : BitVec 2)
/-- W1 with its header (R53). -/
def packW1 (h : Header) (cmd : BitVec 27) : Word32 := scopeCode h.scope ++ BitVec.ofBool h.acq ++ BitVec.ofBool h.rel ++ cmd
def packCpy1 (dseg sseg : Seg) (c : Reg) (rows : BitVec 16) : BitVec 27 :=
  ofSeg dseg ++ ofSeg sseg ++ ofReg c ++ (0 : BitVec 1) ++ rows
def packCpy2 (rowBytes : BitVec 24) : Word32 := (0 : BitVec 8) ++ rowBytes
def packMma1 (mm1 km1 nm1 : BitVec 8) : BitVec 27 := mm1 ++ km1 ++ nm1 ++ (0 : BitVec 3)
def packMma2 (f : MmaFields) : Word32 :=
  typeCode f.atype ++ typeCode f.btype ++ BitVec.ofBool f.asrc ++ ofSeg f.aslot ++ BitVec.ofBool f.bsrc ++ ofSeg f.bslot ++
  BitVec.ofBool f.gath ++ (BitVec.ofFin f.idx : BitVec 5) ++ BitVec.ofBool f.zero ++ (0 : BitVec 9)
def packMmar2 (f : MmarFields) : Word32 :=
  typeCode f.atype ++ (0 : BitVec 4) ++ BitVec.ofBool f.asrc ++ ofSeg f.aslot ++ (0 : BitVec 4) ++
  BitVec.ofBool f.gath ++ (BitVec.ofFin f.idx : BitVec 5) ++ BitVec.ofBool f.zero ++ (0 : BitVec 9)
def packMvb1 (f : MvbFields) : BitVec 27 :=
  ofSeg f.wseg ++ ofSeg f.dseg ++ BitVec.ofBool f.accum ++ ofSeg f.vm1 ++ typeCode f.wtype ++ typeCode f.atype ++
  (BitVec.ofFin f.slog : BitVec 4) ++ (0 : BitVec 5)
def packMvb2 (f : MvbFields) : Word32 := f.cm1 ++ f.rm1
def packCs1 (pseg bseg fum : Fin 8) : BitVec 27 := ofSeg pseg ++ ofSeg bseg ++ ofSeg fum ++ (0 : BitVec 18)
def packCs2 (chunk : BitVec 20) : Word32 := (0 : BitVec 12) ++ chunk

/-- The words of the four lengths (R49). -/
def withLit (w : Word32) (lit : Word64) : List Word32 := [w, lit.extractLsb' 0 32, lit.extractLsb' 32 32]
def withCmd (w w1 w2 : Word32) : List Word32 := [w, w1, w2]
def withCmdLit (w w1 w2 : Word32) (lit : Word64) : List Word32 :=
  [w, w1, w2, lit.extractLsb' 0 32, lit.extractLsb' 32 32]

/-- The words of an instruction, the first at the lowest address (R49), from the layouts of R52 and of each entry.
A step that is no instruction has no words. -/
def encode : Instr → List Word32
  | .add w d a b => [packReg 0x01 w 0 b a d 0x00 0]
  | .sub w d a b => [packReg 0x02 w 0 b a d 0x00 0]
  | .mul w d a b => [packReg 0x03 w 0 b a d 0x00 0]
  | .mulh w d a b => [packReg 0x04 w 0 b a d 0x00 0]
  | .mulhu w d a b => [packReg 0x05 w 0 b a d 0x00 0]
  | .div w d a b => [packReg 0x06 w 0 b a d 0x00 0]
  | .divu w d a b => [packReg 0x07 w 0 b a d 0x00 0]
  | .rem w d a b => [packReg 0x08 w 0 b a d 0x00 0]
  | .remu w d a b => [packReg 0x09 w 0 b a d 0x00 0]
  | .adds w d a b => [packReg 0x0A w 0 b a d 0x00 0]
  | .subs w d a b => [packReg 0x0B w 0 b a d 0x00 0]
  | .and w d a b => [packReg 0x10 w 0 b a d 0x00 0]
  | .or w d a b => [packReg 0x11 w 0 b a d 0x00 0]
  | .xor w d a b => [packReg 0x12 w 0 b a d 0x00 0]
  | .andn w d a b => [packReg 0x13 w 0 b a d 0x00 0]
  | .orn w d a b => [packReg 0x14 w 0 b a d 0x00 0]
  | .shl w d a b => [packReg 0x15 w 0 b a d 0x00 0]
  | .shr w d a b => [packReg 0x16 w 0 b a d 0x00 0]
  | .sar w d a b => [packReg 0x17 w 0 b a d 0x00 0]
  | .rol w d a b => [packReg 0x18 w 0 b a d 0x00 0]
  | .ror w d a b => [packReg 0x19 w 0 b a d 0x00 0]
  | .min w d a b => [packReg 0x20 w 0 b a d 0x00 0]
  | .max w d a b => [packReg 0x21 w 0 b a d 0x00 0]
  | .minu w d a b => [packReg 0x22 w 0 b a d 0x00 0]
  | .maxu w d a b => [packReg 0x23 w 0 b a d 0x00 0]
  | .abs w d a => [packReg 0x24 w 0 0 a d 0x00 0]
  | .clz w d a => [packReg 0x25 w 0 0 a d 0x00 0]
  | .ctz w d a => [packReg 0x26 w 0 0 a d 0x00 0]
  | .popc w d a => [packReg 0x27 w 0 0 a d 0x00 0]
  | .brev w d a => [packReg 0x28 w 0 0 a d 0x00 0]
  | .sel w d a b c => [packReg 0x29 w c b a d 0x00 0]
  | .mov w d a => [packReg 0x2A w 0 0 a d 0x00 0]
  | .seq w d a b => [packReg 0x30 w 0 b a d 0x00 0]
  | .sne w d a b => [packReg 0x31 w 0 b a d 0x00 0]
  | .slt w d a b => [packReg 0x32 w 0 b a d 0x00 0]
  | .sltu w d a b => [packReg 0x33 w 0 b a d 0x00 0]
  | .sle w d a b => [packReg 0x34 w 0 b a d 0x00 0]
  | .sleu w d a b => [packReg 0x35 w 0 b a d 0x00 0]
  | .addLit w d a lit => withLit (packReg 0x01 w 0 0 a d 0x01 1) lit
  | .subLit w d a lit => withLit (packReg 0x02 w 0 0 a d 0x01 1) lit
  | .mulLit w d a lit => withLit (packReg 0x03 w 0 0 a d 0x01 1) lit
  | .mulhLit w d a lit => withLit (packReg 0x04 w 0 0 a d 0x01 1) lit
  | .mulhuLit w d a lit => withLit (packReg 0x05 w 0 0 a d 0x01 1) lit
  | .divLit w d a lit => withLit (packReg 0x06 w 0 0 a d 0x01 1) lit
  | .divuLit w d a lit => withLit (packReg 0x07 w 0 0 a d 0x01 1) lit
  | .remLit w d a lit => withLit (packReg 0x08 w 0 0 a d 0x01 1) lit
  | .remuLit w d a lit => withLit (packReg 0x09 w 0 0 a d 0x01 1) lit
  | .addsLit w d a lit => withLit (packReg 0x0A w 0 0 a d 0x01 1) lit
  | .subsLit w d a lit => withLit (packReg 0x0B w 0 0 a d 0x01 1) lit
  | .andLit w d a lit => withLit (packReg 0x10 w 0 0 a d 0x01 1) lit
  | .orLit w d a lit => withLit (packReg 0x11 w 0 0 a d 0x01 1) lit
  | .xorLit w d a lit => withLit (packReg 0x12 w 0 0 a d 0x01 1) lit
  | .andnLit w d a lit => withLit (packReg 0x13 w 0 0 a d 0x01 1) lit
  | .ornLit w d a lit => withLit (packReg 0x14 w 0 0 a d 0x01 1) lit
  | .shlLit w d a lit => withLit (packReg 0x15 w 0 0 a d 0x01 1) lit
  | .shrLit w d a lit => withLit (packReg 0x16 w 0 0 a d 0x01 1) lit
  | .sarLit w d a lit => withLit (packReg 0x17 w 0 0 a d 0x01 1) lit
  | .rolLit w d a lit => withLit (packReg 0x18 w 0 0 a d 0x01 1) lit
  | .rorLit w d a lit => withLit (packReg 0x19 w 0 0 a d 0x01 1) lit
  | .minLit w d a lit => withLit (packReg 0x20 w 0 0 a d 0x01 1) lit
  | .maxLit w d a lit => withLit (packReg 0x21 w 0 0 a d 0x01 1) lit
  | .minuLit w d a lit => withLit (packReg 0x22 w 0 0 a d 0x01 1) lit
  | .maxuLit w d a lit => withLit (packReg 0x23 w 0 0 a d 0x01 1) lit
  | .seqLit w d a lit => withLit (packReg 0x30 w 0 0 a d 0x01 1) lit
  | .sneLit w d a lit => withLit (packReg 0x31 w 0 0 a d 0x01 1) lit
  | .sltLit w d a lit => withLit (packReg 0x32 w 0 0 a d 0x01 1) lit
  | .sltuLit w d a lit => withLit (packReg 0x33 w 0 0 a d 0x01 1) lit
  | .sleLit w d a lit => withLit (packReg 0x34 w 0 0 a d 0x01 1) lit
  | .sleuLit w d a lit => withLit (packReg 0x35 w 0 0 a d 0x01 1) lit
  | .addImm w d a imm => [packImm imm w a d 0x02 0]
  | .mulImm w d a imm => [packImm imm w a d 0x03 0]
  | .andImm w d a imm => [packImm imm w a d 0x04 0]
  | .orImm w d a imm => [packImm imm w a d 0x05 0]
  | .xorImm w d a imm => [packImm imm w a d 0x06 0]
  | .shlImm w d a sh => [packShi 0 sh w a d 0x07 0]
  | .shrImm w d a sh => [packShi 1 sh w a d 0x07 0]
  | .sarImm w d a sh => [packShi 2 sh w a d 0x07 0]
  | .rolImm w d a sh => [packShi 3 sh w a d 0x07 0]
  | .rorImm w d a sh => [packShi 4 sh w a d 0x07 0]
  | .seqImm w d a imm => [packSeti 0 imm w a d 0x08 0]
  | .sneImm w d a imm => [packSeti 1 imm w a d 0x08 0]
  | .sltImm w d a imm => [packSeti 2 imm w a d 0x08 0]
  | .sltuImm w d a imm => [packSeti 3 imm w a d 0x08 0]
  | .sleImm w d a imm => [packSeti 4 imm w a d 0x08 0]
  | .sleuImm w d a imm => [packSeti 5 imm w a d 0x08 0]
  | .bfx w d a lenM1 pos => [packFldi 0 lenM1 pos w a d 0x09 0]
  | .bfi w d a lenM1 pos => [packFldi 1 lenM1 pos w a d 0x09 0]
  | .sext w d a lenM1 => [packFldi 2 lenM1 0 w a d 0x09 0]
  | .zext w d a lenM1 => [packFldi 3 lenM1 0 w a d 0x09 0]
  | .movi d imm => [packMovi imm d 0x0A 0]
  | .moviLit d lit => withLit (packMovi 0 d 0x0A 1) lit
  | .saddr d seg imm => [packImm imm .w64 (segReg seg) d 0x0B 0]
  | .br off => [packBr off 0x10 0]
  | .call off => [packBr off 0x11 0]
  | .beq a b off => [packBase off b a 0 0x12 0]
  | .bne a b off => [packBase off b a 1 0x12 0]
  | .blt a b off => [packBase off b a 2 0x12 0]
  | .bge a b off => [packBase off b a 3 0x12 0]
  | .bltu a b off => [packBase off b a 4 0x12 0]
  | .bgeu a b off => [packBase off b a 5 0x12 0]
  | .bz a off => [packBrz off a 0 0x13 0]
  | .bnz a off => [packBrz off a 1 0x13 0]
  | .jr a => [packSub 0 0 0 a 0 0x14 0]
  | .jalr d a => [packSub 1 0 0 a d 0x14 0]
  | .loop a off => [packBrz off a 0 0x15 0]
  | .nop => [packSub 0 0 0 0 0 0x18 0]
  | .trap code => [packSub 1 code 0 0 0 0x18 0]
  | .brk code => [packSub 2 code 0 0 0 0x18 0]
  | .rett => [packSub 3 0 0 0 0 0x18 0]
  | .crd d cr => [packSub 4 cr 0 0 d 0x18 0]
  | .cwr cr a => [packSub 5 cr 0 a 0 0x18 0]
  | .start d a b => [packSub 0 0 b a d 0x19 0]
  | .reap d a => [packSub 1 0 0 a d 0x19 0]
  | .exit a => [packSub 2 0 0 a 0 0x19 0]
  | .park => [packSub 3 0 0 0 0 0x19 0]
  | .wake a => [packSub 4 0 0 a 0 0x19 0]
  | .yield => [packSub 5 0 0 0 0 0x19 0]
  | .arm d => [packSub 6 0 0 0 d 0x19 0]
  | .put a b => [packSub 7 0 b a 0 0x19 0]
  | .illegalInstruction word => [word]
  | .ld size sx seg d a off => [packMem off seg size sx a d 0x20 0]
  | .ldLit size sx seg d a lit => withLit (packMem 0 seg size sx a d 0x20 1) lit
  | .ldAcq scope size sx seg d a off => withCmd (packMem off seg size sx a d 0x20 2) (packW1 ⟨scope, true, false⟩ 0) 0
  | .ldAcqLit scope size sx seg d a lit => withCmdLit (packMem 0 seg size sx a d 0x20 3) (packW1 ⟨scope, true, false⟩ 0) 0 lit
  | .st size seg d a off => [packMem off seg size false a d 0x21 0]
  | .stLit size seg d a lit => withLit (packMem 0 seg size false a d 0x21 1) lit
  | .stRel scope size seg d a off => withCmd (packMem off seg size false a d 0x21 2) (packW1 ⟨scope, false, true⟩ 0) 0
  | .stRelLit scope size seg d a lit => withCmdLit (packMem 0 seg size false a d 0x21 3) (packW1 ⟨scope, false, true⟩ 0) 0 lit
  | .ldv v seg a off => [packVmem v seg off a 0x22 0]
  | .ldvLit v seg a lit => withLit (packVmem v seg 0 a 0x22 1) lit
  | .stv v seg a off => [packVmem v seg off a 0x23 0]
  | .stvLit v seg a lit => withLit (packVmem v seg 0 a 0x23 1) lit
  | .gath t v seg a idx => [packGath v idx seg t a 0x24 0]
  | .scat t v seg a idx => [packGath v idx seg t a 0x25 0]
  | .segld s a seg => [packSub 0 (hi3 seg) 0 a (segReg s) 0x26 0]
  | .segst s a seg => [packSub 1 (hi3 seg) 0 a (segReg s) 0x26 0]
  | .segset s a b c => [packSub 2 (hi4 c) b a (segReg s) 0x26 0]
  | .kvtl d a b => [packSub 0 0 b a d 0x27 0]
  | .kvtw a b => [packSub 1 0 b a 0 0x27 0]
  | .kvti a => [packSub 2 0 0 a 0 0x27 0]
  | .kret => [packSub 3 0 0 0 0 0x27 0]
  | .cpy h d a b dseg sseg c => withCmd (packBase 0 b a d 0x6C 2) (packW1 h (packCpy1 dseg sseg c 0)) 0
  | .cpyLit h d a b dseg sseg lit => withCmdLit (packBase 0 b a d 0x6C 3) (packW1 h (packCpy1 dseg sseg 0 0)) 0 lit
  | .cpy2 h d a b dseg sseg c rowsM1 rowBytes => withCmd (packBase 0 b a d 0x6D 2) (packW1 h (packCpy1 dseg sseg c rowsM1)) (packCpy2 rowBytes)
  | .cpy2Lit h d a b dseg sseg lit rowsM1 rowBytes => withCmdLit (packBase 0 b a d 0x6D 3) (packW1 h (packCpy1 dseg sseg 0 rowsM1)) (packCpy2 rowBytes) lit
  | .amo op w seg d a b => [packAtom (amoCode op) w seg b a d 0x30 0]
  | .amoOrdered h op w seg d a b => withCmd (packAtom (amoCode op) w seg b a d 0x30 2) (packW1 h 0) 0
  | .cas w seg d a b => [packAtom 0 w seg b a d 0x31 0]
  | .casOrdered h w seg d a b => withCmd (packAtom 0 w seg b a d 0x31 2) (packW1 h 0) 0
  | .red op w seg a b => [packAtom (amoCode op) w seg b a 0 0x32 0]
  | .redRel scope op w seg a b => withCmd (packAtom (amoCode op) w seg b a 0 0x32 2) (packW1 ⟨scope, false, true⟩ 0) 0
  | .waitw w seg d a b => [packAtom 0 w seg b a d 0x33 0]
  | .waitwAcq scope w seg d a b => withCmd (packAtom 0 w seg b a d 0x33 2) (packW1 ⟨scope, true, false⟩ 0) 0
  | .fence scope => [packScope scope 0x34]
  | .bfence scope => [packScope scope 0x35]
  | .bar d drain level index => [packSub 0 (barArg drain level index) 0 0 d 0x36 0]
  | .qprobe d => [packSub 0 0 0 0 d 0x37 0]
  | .migr a => [packSub 0 0 0 a 0 0x38 0]
  | .migrL a => [packSub 0 0x20 0 a 0 0x38 0]
  | .miga seg a => [packSub 0 (lo3 seg) 0 a 0 0x39 0]
  | .migaL seg a => [packSub 0 (0x20 + lo3 seg) 0 a 0 0x39 0]
  | .chmapOut d a => [packSub 0 0x20 0 a d 0x3A 0]
  | .chmapIn d a => [packSub 0 0 0 a d 0x3A 0]
  | .chunmap d => [packSub 0 0 0 0 d 0x3B 0]
  | .chstat d a => [packSub 0 0 0 a d 0x3C 0]
  | .vadd t d a b => [packVec 0 t d a b 0x40 0]
  | .vsub t d a b => [packVec 1 t d a b 0x40 0]
  | .vmul t d a b => [packVec 2 t d a b 0x40 0]
  | .vfma t d a b => [packVec 3 t d a b 0x40 0]
  | .vfms t d a b => [packVec 4 t d a b 0x40 0]
  | .vmax t d a b => [packVec 5 t d a b 0x40 0]
  | .vmin t d a b => [packVec 6 t d a b 0x40 0]
  | .vabs t d a => [packVec 7 t d a 0 0x40 0]
  | .vneg t d a => [packVec 8 t d a 0 0x40 0]
  | .vaddSat t d a b => [packVec 9 t d a b 0x40 0]
  | .vsubSat t d a b => [packVec 10 t d a b 0x40 0]
  | .vexp2 t d a => [packVec 0 t d a 0 0x41 0]
  | .vlog2 t d a => [packVec 1 t d a 0 0x41 0]
  | .vrcp t d a => [packVec 2 t d a 0 0x41 0]
  | .vrsq t d a => [packVec 3 t d a 0 0x41 0]
  | .vcmpEq t d a b => [packVec 0 t d a b 0x42 0]
  | .vcmpNe t d a b => [packVec 1 t d a b 0x42 0]
  | .vcmpLt t d a b => [packVec 2 t d a b 0x42 0]
  | .vcmpLe t d a b => [packVec 3 t d a b 0x42 0]
  | .vsel t d a b => [packVec 4 t d a b 0x42 0]
  | .vand t d a b => [packVec 5 t d a b 0x42 0]
  | .vor t d a b => [packVec 6 t d a b 0x42 0]
  | .vxor t d a b => [packVec 7 t d a b 0x42 0]
  | .vshl t d a b => [packVec 8 t d a b 0x42 0]
  | .vshr t d a b => [packVec 9 t d a b 0x42 0]
  | .vsar t d a b => [packVec 10 t d a b 0x42 0]
  | .vaddLit t d a lit => withLit (packVec 0 t d a 0 0x40 1) lit
  | .vsubLit t d a lit => withLit (packVec 1 t d a 0 0x40 1) lit
  | .vmulLit t d a lit => withLit (packVec 2 t d a 0 0x40 1) lit
  | .vfmaLit t d a lit => withLit (packVec 3 t d a 0 0x40 1) lit
  | .vfmsLit t d a lit => withLit (packVec 4 t d a 0 0x40 1) lit
  | .vmaxLit t d a lit => withLit (packVec 5 t d a 0 0x40 1) lit
  | .vminLit t d a lit => withLit (packVec 6 t d a 0 0x40 1) lit
  | .vaddSatLit t d a lit => withLit (packVec 9 t d a 0 0x40 1) lit
  | .vsubSatLit t d a lit => withLit (packVec 10 t d a 0 0x40 1) lit
  | .vcmpEqLit t d a lit => withLit (packVec 0 t d a 0 0x42 1) lit
  | .vcmpNeLit t d a lit => withLit (packVec 1 t d a 0 0x42 1) lit
  | .vcmpLtLit t d a lit => withLit (packVec 2 t d a 0 0x42 1) lit
  | .vcmpLeLit t d a lit => withLit (packVec 3 t d a 0 0x42 1) lit
  | .vselLit t d a lit => withLit (packVec 4 t d a 0 0x42 1) lit
  | .vandLit t d a lit => withLit (packVec 5 t d a 0 0x42 1) lit
  | .vorLit t d a lit => withLit (packVec 6 t d a 0 0x42 1) lit
  | .vxorLit t d a lit => withLit (packVec 7 t d a 0 0x42 1) lit
  | .vshlLit t d a lit => withLit (packVec 8 t d a 0 0x42 1) lit
  | .vshrLit t d a lit => withLit (packVec 9 t d a 0 0x42 1) lit
  | .vsarLit t d a lit => withLit (packVec 10 t d a 0 0x42 1) lit
  | .vcvt t src d a => [packVec 0 t d a (typeReg src) 0x43 0]
  | .vcvtSat t src d a => [packVec 1 t d a (typeReg src) 0x43 0]
  | .vcvtSr t d a b => [packVec 2 t d a (gpVec b) 0x43 0]
  | .vbcast t d a => [packVec 3 t d (gpVec a) 0 0x43 0]
  | .vmovg t d a b => [packVec 4 t (gpVec d) a (gpVec b) 0x43 0]
  | .vshuf t d a b => [packVec 5 t d a b 0x43 0]
  | .vslide t d a b => [packVec 6 t d a (gpVec b) 0x43 0]
  | .viota t d => [packVec 7 t d 0 0 0x43 0]
  | .vredsum t d a b => [packVec 0 t d a b 0x44 0]
  | .vredsumSat t d a b => [packVec 1 t d a b 0x44 0]
  | .vredmax t d a b => [packVec 2 t d a b 0x44 0]
  | .vredmin t d a b => [packVec 3 t d a b 0x44 0]
  | .vdot t d a b => [packVec 4 t d a b 0x44 0]
  | .vdotSat t d a b => [packVec 5 t d a b 0x44 0]
  | .mma h d a b f => withCmd (packBase 0 b a d 0x50 2) (packW1 h (packMma1 f.mm1 f.km1 f.nm1)) (packMma2 f)
  | .mmaPitch h d a b f lit => withCmdLit (packBase 0 b a d 0x50 3) (packW1 h (packMma1 f.mm1 f.km1 f.nm1)) (packMma2 f) lit
  | .mmar h d a f => withCmd (packBase 0 0 a d 0x51 2) (packW1 h (packMma1 f.mm1 0 0)) (packMmar2 f)
  | .mmarPitch h d a f lit => withCmdLit (packBase 0 0 a d 0x51 3) (packW1 h (packMma1 f.mm1 0 0)) (packMmar2 f) lit
  | .aclr a b => [packSub 0 0 b a 0 0x52 0]
  | .acrd d a => [packSub 1 0 0 a d 0x52 0]
  | .acwr d a => [packSub 2 0 0 a d 0x52 0]
  | .cbld seg a => [packSub 0 (lo3 seg) 0 a 0 0x53 0]
  | .commit => [packSub 0 0 0 0 0 0x54 0]
  | .waitb n => [packSub 1 (lo4 n) 0 0 0 0x54 0]
  | .repb a => [packSub 0 0 0 a 0 0x55 0]
  | .repx d a => [packSub 1 0 0 a d 0x55 0]
  | .tour seg d a => [packSub 0 (lo3 seg) 0 a d 0x58 0]
  | .tourOrdered h seg d a => withCmd (packSub 0 (lo3 seg) 0 a d 0x58 2) (packW1 h 0) 0
  | .twait t d => [packSub 0 (hi3 t) 0 0 d 0x59 0]
  | .trel t => [packSub 1 (hi3 t) 0 0 0 0x59 0]
  | .thold t a => [packSub 2 (hi3 t) 0 a 0 0x59 0]
  | .tstat t d => [packSub 3 (hi3 t) 0 0 d 0x59 0]
  | .tabort t d => [packSub 4 (hi3 t) 0 0 d 0x59 0]
  | .tld t size d a => [packSub 0 (tileArg t size) 0 a d 0x5A 0]
  | .tst t size d a => [packSub 1 (tileArg t size) 0 a d 0x5A 0]
  | .mvb h d a b f => withCmd (packBase 0 b a d 0x5C 2) (packW1 h (packMvb1 f)) (packMvb2 f)
  | .mvbCb4 h d a b f lit => withCmdLit (packBase 0 b a d 0x5C 3) (packW1 h (packMvb1 f)) (packMvb2 f) lit
  | .bstat d a => [packSub 0 0 0 a d 0x5D 0]
  | .posw a b => [packSub 0 0 b a 0 0x5F 0]
  | .posa a b => [packSub 0 0 b a 0 0x60 0]
  | .nbr d a b => [packSub 0 0 b a d 0x61 0]
  | .cellq d a => [packSub 0 0 0 a d 0x62 0]
  | .launch d a => [packSub 0 0 0 a d 0x68 0]
  | .wunext d => [packSub 0 0 0 0 d 0x69 0]
  | .wudone a => [packSub 0 0 0 a 0 0x6A 0]
  | .rcast d a => [packSub 0 0 0 a d 0x6B 0]
  | .timrd d => [packSub 0 0 0 0 d 0x64 0]
  | .tickw d a b => [packSub 0 0 b a d 0x65 0]
  | .winq d a => [packSub 0 0 0 a d 0x66 0]
  | .wintake d a b => [packSub 0 0 b a d 0x67 0]
  | .cstart h d a b pseg bseg fum chunk => withCmd (packBase 0 b a d 0x6E 2) (packW1 h (packCs1 pseg bseg fum)) (packCs2 chunk)
  | .cwait d a => [packSub 0 0 0 a d 0x6F 0]
  | .copyComplete .. | .waitwTimeout .. | .writebackRequest .. | .barrierArrival .. | .quiesceCircuitEnd ..
  | .messageDelivery .. | .accessApplication .. | .answerDelivery .. | .localAnswer .. | .depositRetry ..
  | .migrationArrival .. | .contextLoaded .. | .spillWrite .. | .spillRefill .. | .tableWalk ..
  | .pagerResolved .. | .pagerRefused .. | .invalidate .. | .invalidationDone .. | .ansqIgnored ..
  | .eccError .. | .patrolRead .. | .arrayAccept .. | .vectorResult .. | .matrixPass ..
  | .matrixStepComplete .. | .accCommandEffect .. | .tourReservation .. | .tourReadDone .. | .tourHandover ..
  | .holdOverrun .. | .tourWritebackDone .. | .ventTranslation .. | .ventRow .. | .ventCommandComplete ..
  | .cellChangeApply .. | .ghostRemoval .. | .crossingEnd .. | .cellSplit .. | .fold .. | .loadLevel ..
  | .launchWordWrite .. | .launchWordRead .. | .launchPacket .. | .launchDoneWrite .. | .windowRequest ..
  | .geyserTick .. | .geyserEnable .. | .geyserDisable .. | .geyserFieldWrite .. | .tokenArrival ..
  | .frameDrop .. | .ptpMessage .. | .ptpcfgWrite .. | .dtimesetLow .. | .dtimesetHigh .. | .streamOpen ..
  | .streamClose .. | .hostBar2Write .. | .hostBar2Read .. | .preemptRequest .. | .quantumExpiry ..
  | .partitionFreeze .. | .partitionResume .. | .sinterScrub .. | .vfEnable .. | .vfScrubDone ..
  | .vfTrack .. | .vfSnapshot .. | .vfctlWrite .. | .exportState .. | .importState .. | .quoteRequest ..
  | .quoteDone .. | .linkEnable .. | .linkDisable .. | .linkTrained .. | .linkTrainTimeout ..
  | .flitReplay .. | .fumcfgWrite .. | .send .. | .recv .. | .rrs .. | .copy .. | .wait .. | .loopStep ..
  | .endStep .. | .powerOn .. | .fwReset .. | .fwStage .. | .fwVerifyDone .. | .bootStartDone ..
  | .softerrClear .. | .powerPacing .. | .thermalPacing .. | .thermalHalt .. | .machineError ..
  | .registerWrite .. | .holdover .. | .pacingEnd .. | .sliceCacheEviction .. | .wintakeCopyDone .. => []

end Sys2Proof
end

