-- ==== Sys2Proof/Config.lean ====
section
/-!
DEFINITION. What the spec leaves open: constants without a body, so that nothing can be proved about their values. A free
value is a constant applied to a counter that the state holds, or to the data it depends on.
-/
namespace Sys2Proof.Config

/-- The n-th open choice of a run: which enabled step is next, old or new bytes, and the like (log 4, log 13). -/
opaque pick : Nat → Nat

/-- The n-th choice of a deterministic partition since its launch (R16, R66, R150, R311; log 4): the same on every run. -/
opaque detPick : Nat → Nat

/-- The n-th choice of a deterministic partition in one freeze (R103; log 42): apart from those of its own cycles, and the same on
every run. -/
opaque freezePick : Nat → Nat

/-- Which of several leaves a deterministic partition's accesses to a page use, by quad, address space and page (R150; log 85): the same
on every run. -/
opaque detLeaf : Nat → Nat → Nat → Nat

/-- In deterministic mode, whether the slice cache has evicted a dirty line by the time of a vent's read (R97): a free function of the
partition's cycle since its launch and the line (R16; log 150). -/
opaque detEvict : Nat → Nat → Bool

/-- Whether BADITIN carries the issuing core: R264's table says so, R263's pseudocode does not (log 97). -/
opaque baditinIssuer : Bool

/-- How far hub `DTIME` moves in the n-th partition-independent tick, in units of 2^-16 ns (log 7). -/
opaque dtimeStep : Nat → Nat

/-- How far, in units of 2^-16 ns, a caldera's copy of `DTIME` stands from the hub's; the machine keeps it within
2 ns (R352). -/
opaque dtimeSkew : Nat → Nat

/-- SHA-384 (R384, R397; log 12). -/
opaque sha384 : List Byte → BitVec 384

/-- RSASSA-PSS verification: key, message, signature (R384, R385; log 12). -/
opaque rsaVerify : List Byte → List Byte → List Byte → Bool

/-- SLH-DSA-SHA2-192s verification: key, message, signature (R384, R385; log 12). -/
opaque slhVerify : List Byte → List Byte → List Byte → Bool

/-- What manufacture puts into the module (R384, R385; log 12): the image in flash, the fused minimum SVN, the fused digests
of the two keys, and the module's serial. -/
opaque flashImage : List Byte
opaque fusedSvn : Nat
opaque rsaDigest : BitVec 384
opaque slhDigest : BitVec 384
opaque serial : Nat

/-- The bytes of a quote by their number: firmware digest, SVN, function fields and nonce (R388; log 12). -/
opaque quoteByte : BitVec 384 → Nat → List Nat → List Byte → Nat → Byte

/-- The body of the n-th record that EXPORT writes, which only an SX4800's IMPORT reads (R376, R397; log 12). -/
opaque exportBody : Nat → List Byte

/-- How long the body of a record of another module is, by its first line (R397; log 12). -/
opaque importSize : List Byte → Nat

/-- How FWCTL codes the hub's states, numbered in the order of R386's table (R386; log 13). -/
opaque bootCode : Nat → Nat

end Sys2Proof.Config
end

