-- ==== Sys2Proof/Machine/State.lean ====
section
/-!
DEFINITION. The state of the machine: plain data that holds every piece of state the spec names, the accesses and
messages in flight (spec/05), the engines' commands, and what is fixed at reset. A part of the machine that exists many
times (contexts, cores, quads, calderas, partitions) is a sparse map by its number, and what is unlisted is as it stands
after a scrub. Each partition has its own image of each of its quads, so that a frozen partition's quads are saved (R19)
by standing still; a quad runs the one live partition that has it.
-/
namespace Sys2Proof.Machine

/-- Why the machine stops with a fault. -/
inductive Fault
  /-- Raised by `execAccessApplication` when an access in flight names a physical address at or above 480 GiB (R145),
  which no translation yields (log 118). Safe: the machine stops where the spec gives no memory. -/
  | physicalAddress (addr : Nat)
  deriving DecidableEq, Repr

/-- Why an instruction is refused. -/
inductive Refusal
  /-- Raised by `exec` for an instruction that has no meaning yet. Safe: the machine stops. -/
  | notModelled (mnemonic : String)
  deriving DecidableEq, Repr

/-- A set of numbers, strictly rising. -/
abbrev NSet := List Nat

/-- Whether a number is in the set. -/
def NSet.has (s : NSet) (n : Nat) : Bool := s.contains n
/-- Insert a number. -/
def NSet.add : NSet → Nat → NSet
  | [], n => [n]
  | m :: t, n => if n < m then n :: m :: t else if n = m then m :: t else m :: NSet.add t n
/-- Remove a number. -/
def NSet.del (s : NSet) (n : Nat) : NSet := s.filter (fun m => m ≠ n)

/-! ## A thread's context (R104) -/

/-- A general register with its full and armed bits, and the address of a poisoned answer (R106, R161). A register
that is neither full nor armed nor poisoned has a result pending. -/
structure GReg where
  val : Word64 := 0
  full : Bool := true
  armed : Bool := false
  poison : Option Nat := none
  deriving DecidableEq, Repr

/-- A segment register (R104, R177); the rights are R W X A T B K from bit 0. -/
structure Segment where
  base : BitVec 52 := 0
  limit : BitVec 40 := 0
  rights : BitVec 7 := 0
  deriving DecidableEq, Repr

/-- What a parked thread awaits (R108). -/
inductive Wait
  /-- A general register is full (or holds a poisoned answer). -/
  | full (r : Reg)
  /-- A general register has no result pending. -/
  | settled (r : Reg)
  /-- A vector register of the core, by its physical number, is full. -/
  | vfull (v : Nat)
  /-- A vector register has no result pending. -/
  | vsettled (v : Nat)
  /-- `wake`, or in context zero R109. -/
  | byPark
  /-- One access has been answered. -/
  | access (id : Nat)
  /-- Every access of the thread whose home lies inside the scope has been answered; none: every access. -/
  | earlier (scope : Option Scope)
  /-- Every access of the thread is answered and every asynchronous operation has merged (R118), the copies too (R214). -/
  | quiet (copies : Bool)
  /-- Context `n` of the core is halted and its merges are done (R117). -/
  | halted (n : Nat)
  /-- The deposit port has a free entry (R224). -/
  | portRoom
  /-- The dispatch queue, the copy queue, the vent queue or the tour table has a free entry. -/
  | dispatchRoom
  | copyRoom
  | ventRoom
  | tourRoom
  /-- At most `n` committed batches are outstanding (R314). -/
  | batches (n : Nat)
  /-- A tile slot is READY or carries a mark (R270). -/
  | slot (t : Slot)
  /-- The array reads of a tile slot are done (R271). -/
  | slotReads (t : Slot)
  /-- A tour of the quad has ended (R275), by its number. -/
  | tourEnd (seq : Nat)
  /-- The shadow set has returned from the thread's miss (R166). -/
  | kvMiss
  /-- The `mvb` commands of the thread are complete and their sums answered; then the write-backs (R96). -/
  | bankSums
  | writeBacks
  /-- No `rcast` of the core is unanswered (R254). -/
  | rcastFree
  /-- An output channel is idle (R227). -/
  | channelIdle (r : Reg)
  /-- The reply to the thread's own reads has arrived. -/
  | reply
  /-- A fumarole's program has ended (R383). -/
  | program (fum : Nat) (seq : Nat)
  /-- The crossing of a position-bound thread (R344). -/
  | crossing
  /-- The dispatched commands of the thread that an instruction reads through have taken effect. -/
  | array
  /-- The walks for the thread's translation misses (R152). -/
  | walks
  deriving DecidableEq, Repr

/-- The states of a context (R108). FROZEN is the partition's (R119); QUEUED and SPILLED threads hold no context. -/
inductive ThreadState
  | free
  | loading
  | runnable
  | parked (w : Wait)
  /-- Waiting on the pager for a page: the address space and the faulting virtual address (R155). -/
  | dropped (asid va : Nat)
  | migrating
  | halted
  deriving DecidableEq, Repr

/-- Why a thread halted (R117), by its reason code. -/
inductive HaltReason | exit | nested | novec | brk | machine | fillref | shadow
  deriving DecidableEq, Repr

/-- What the answers to a thread's own reads brought: bytes, or the first poisoned line. -/
structure Reply where
  bytes : List Byte := []
  poison : Option Nat := none
  deriving DecidableEq, Repr

/-- How far an instruction has come that waits more than once before it completes. -/
inductive Phase
  | fresh
  /-- Its `n`-th read has been sent. -/
  | asked (n : Nat)
  /-- The `bfence` has sent its write-back requests (R96). -/
  | bank
  /-- The last-stop `trel` waits for its tour (R275). -/
  | drained (seq : Nat)
  deriving DecidableEq, Repr

/-- The fill of a LOADING context (R117): what is still to be read and what has arrived. -/
structure Fill where
  /-- The place of the `start` in the issue order of context zero. -/
  order : Nat := 0
  addr : Nat := 0
  /-- Offsets of the 64-byte parts not yet sent (a page that is not resident). -/
  todo : List Nat := []
  /-- Offsets of the parts whose walk waits (R147). -/
  later : List Nat := []
  /-- Parts sent and not yet answered. -/
  sent : Nat := 0
  bytes : SMap Byte := []
  poison : Option Nat := none
  refused : Option (Nat × Nat) := none
  /-- The segment table that replaces the image's segments (R237), its address, when there is one. -/
  segt : Option Nat := none
  deriving DecidableEq, Repr

/-- The direction of a channel (R225). -/
inductive ChanDir | out | inn
  deriving DecidableEq, Repr

/-- A register-mapped channel (R225, R226, R228): the peer is `[22:19]` register, `[18:0]` thread. -/
structure Channel where
  dir : ChanDir
  peer : Nat
  busy : Bool := false
  retry : Nat := 0
  deriving DecidableEq, Repr

/-- Why a batch member failed (R315): the record's kind and detail. -/
structure MemberError where
  kind : Nat
  detail : Nat
  deriving DecidableEq, Repr

/-- A member of a batch (R312): an asynchronous command by its number, and its outcome. -/
structure Member where
  id : Nat
  done : Bool := false
  error : Option MemberError := none
  deriving DecidableEq, Repr

/-- A repetition under way (R317): the block's words and where it stands. -/
structure Rep where
  start : BitVec 50
  words : List Word32
  count : Nat
  i : Nat := 0
  lo : Nat
  w : Nat
  step : Nat
  /-- The index register of `repx`, and whether it is still to be written for this iteration. -/
  x : Option Reg := none
  due : Bool := false
  deriving DecidableEq, Repr

/-- A context (R104, R108) with what its core and quad keep for it. -/
structure Ctx where
  regs : Vector GReg 16 := Vector.replicate 16 {}
  pc : BitVec 50 := 0
  segs : Vector Segment 8 := Vector.replicate 8 {}
  /-- The segment that fetch is checked through after a lean arrival, until s7 is written (R217, R234, R235; log 20). -/
  code : Option Segment := none
  posX : BitVec 32 := 0
  posY : BitVec 32 := 0
  posZ : BitVec 32 := 0
  wuX : BitVec 24 := 0
  wuY : BitVec 24 := 0
  wuZ : BitVec 24 := 0
  rv : Bool := false
  /-- The thread's address space, which it keeps when its region ends (R146, R400). -/
  asid : Nat := 0
  handle : BitVec 10 := 0
  partialBytes : BitVec 6 := 0
  wake : Bool := false
  inh : Bool := false
  tcause : BitVec 5 := 0
  flags : BitVec 6 := 0
  vwinSize : BitVec 6 := 0
  vwinBase : BitVec 5 := 0
  tval : Word64 := 0
  tepc : BitVec 50 := 0
  tvec : BitVec 50 := 0
  state : ThreadState := .free
  /-- Partition cycle of the last issue (R107). -/
  lastIssue : Option Nat := none
  /-- `yield`: no donated slot until the own slot has passed (R118). -/
  yielded : Bool := false
  /-- The halt record (R112, R117). -/
  haltReason : HaltReason := .exit
  haltCause : BitVec 5 := 0
  haltValue : BitVec 32 := 0
  /-- The error record (R315), zero when none is pending. -/
  errorRec : Word64 := 0
  /-- Batches (R312): the open one's members, and the committed ones in order. -/
  openBatch : List Member := []
  committed : List (List Member) := []
  /-- The unanswered acquires that hold later accesses (R94). -/
  acquiring : NSet := []
  phase : Phase := .fresh
  reply : Option Reply := none
  fill : Option Fill := none
  chans : SMap Channel := []
  rep : Option Rep := none
  /-- The index vector of a `gath` that has left PARTIAL, which its reissue goes on with (R160, R174). -/
  index : Option Nat := none
  /-- The thread's latest crossing, which is in progress while the partition lists it (R344). -/
  crossing : Option Nat := none
  /-- The thread's latest reading of device time (R363). -/
  lastTime : Nat := 0
  /-- The model's own: the thread's number, which it keeps over migrations. -/
  uid : Nat := 0
  /-- The model's own: how often the context has been filled, so that a late answer finds only its own thread. -/
  gen : Nat := 0
  deriving DecidableEq, Repr

/-! ## A core -/

/-- An entry of the key-value translation buffer: key and value in the layouts of R165. -/
structure KvEntry where
  key : Word64
  val : Word64
  deriving DecidableEq, Repr

/-- `GUARDLOG` (R143). -/
structure GuardLog where
  v : Bool := false
  more : Bool := false
  wr : Bool := false
  pend : BitVec 16 := 0
  ctx : BitVec 4 := 0
  offset : BitVec 16 := 0
  deriving DecidableEq, Repr

/-- A miss of the key-value translation buffer (R166): context, SEQ, BLK, address of the `kvtl`, and the miss vector. -/
structure KvMiss where
  ctx : Nat
  seq : Nat
  blk : Nat
  pc : BitVec 50
  vec : Nat
  deriving DecidableEq, Repr

/-- The shadow context set (R105, R166). -/
structure Shadow where
  regs : Vector GReg 16 := Vector.replicate 16 {}
  pc : BitVec 50 := 0
  tepc : BitVec 50 := 0
  /-- The context that missed, while the set runs. -/
  missing : Option Nat := none
  /-- Partition cycle of its last issue. -/
  lastIssue : Option Nat := none
  /-- Misses that wait, in order. -/
  waiting : List KvMiss := []
  rep : Option Rep := none
  state : ThreadState := .free
  acquiring : NSet := []
  phase : Phase := .fresh
  reply : Option Reply := none
  deriving DecidableEq, Repr

/-- A task entry (R243): its region, its untaken units `next` to `last`, and the order of the folds. -/
structure TaskEntry where
  handle : Nat
  next : Nat
  last : Nat
  fold : Nat
  prio : Nat
  /-- The partition cycle in which it was written: a `wunext` of that cycle does not see it (R246). -/
  since : Nat := 0
  deriving DecidableEq, Repr

/-- The states and marks of a tile slot (R268). -/
inductive SlotState | empty | filling | ready | draining
  deriving DecidableEq, Repr
inductive SlotMark | none | overrun | aborted | error
  deriving DecidableEq, Repr

/-- A tile slot (R259, R268). -/
structure TileSlot where
  state : SlotState := .empty
  mark : SlotMark := .none
  /-- The tour that holds or has reserved it: issuing quad and table index. -/
  tour : Option (Nat × Nat) := none
  stop : Nat := 0
  alternate : Bool := false
  size : Nat := 0
  bytes : SMap Byte := []
  /-- Poisoned 64-byte granules of the tile (R272). -/
  poison : NSet := []
  /-- The stop's limit in units of 64 cycles, and whether the clock has been found past it (R269). -/
  limit : Nat := 0
  overrun : Bool := false
  /-- The overrun of a core that has halted has been counted. -/
  died : Bool := false
  /-- It leaves its place by an overrun. -/
  bypassed : Bool := false
  /-- Partition cycle at which it became READY. -/
  readyAt : Nat := 0
  /-- The region and the units it holds (R259). -/
  region : Nat := 0
  units : Nat := 0
  deriving DecidableEq, Repr

/-- A thread between cores (R217, R218): its context as it will be loaded, where it comes from, and how. -/
structure Traveller where
  ctx : Ctx
  origin : Nat
  lean : Bool
  /-- The core it is sent to; of a crossing, the owner of its new cell, then the part's holder. -/
  target : Nat := 0
  /-- The partition cycle of its departure (R213). -/
  sent : Nat := 0
  /-- The leg that it travels, between its quads, and its place there (R86); none once it has come. -/
  src : Nat := 0
  dst : Nat := 0
  leg : Option (Nat × Nat) := none
  /-- A crossing of a position-bound thread (R344), by its number. -/
  crossing : Option Nat := none
  deriving DecidableEq, Repr

/-- A vector register: its bits, the parts of a load still to come, and its poison mark (R284). -/
structure VecReg where
  val : BitVec 512 := 0
  full : Bool := true
  poison : Option Nat := none
  /-- Answers still to arrive, and whether lanes are still to be issued (R159). -/
  waiting : Nat := 0
  more : Bool := false
  /-- The byte of the register at which its poison lies. -/
  poisonOff : Nat := 0
  deriving DecidableEq, Repr

/-! ## Accesses in flight (R84, R85) -/

/-- Who issued an access or a walk: a thread, a core's shadow set, or an engine's command. -/
inductive Issuer
  | thread (tid : Nat)
  | shadow (core : Nat)
  | copy (quad slot : Nat)
  | tour (quad index : Nat)
  | vent (quad slot : Nat)
  /-- A core's engine as it writes its spill slots, and as it reads them back (R219). -/
  | spill (core : Nat)
  | refill (core : Nat)
  | fumarole (link : Nat)
  /-- The fill of a context of a core, whose reads are context zero's own (R117). -/
  | fill (core n : Nat)
  /-- The hub: as it reads a packet's control block (R239), writes control blocks (R241), or opens a stream (R357). -/
  | packet
  | rcb
  | sink
  /-- The cores of a region as they read its cell map (R340), and a cell part's reserve step (R345). -/
  | cellMap (region : Nat)
  | cellPart (region part : Nat)
  /-- A walk, by its number (R147). -/
  | walk (id : Nat)
  deriving DecidableEq, Repr

/-- How loaded bytes become a register's value (R171, R192). -/
inductive Ext | zero | sign
  deriving DecidableEq, Repr

/-- Where a load's bytes go. -/
inductive LoadDst
  /-- A general register, extended. -/
  | reg (d : Reg) (ext : Ext)
  /-- Bytes of a vector register, by its physical number. -/
  | vec (v off : Nat)
  /-- The reply to the thread's own read, from a byte of it on. -/
  | reply (off : Nat)
  /-- The fill of context `n`, from a byte of the image on; the second form is the segment table's part (R237). -/
  | fill (n off : Nat)
  | fillSegs (n off : Nat)
  /-- Bytes of the core's codebook (R310). -/
  | codebook (off : Nat)
  /-- An engine's or a walker's read, for the piece of its work that `tag` names; `leaving`: the bytes leave on a link, so that the
  home checks them (R393). -/
  | engine (tag : Nat) (leaving : Bool)
  /-- Nowhere: who asked has ended meanwhile. -/
  | dropped
  deriving DecidableEq, Repr

/-- What an access does at its home. -/
inductive AccKind
  | load (dst : LoadDst)
  /-- A store of bytes; `poison` marks a line that an engine writes as poisoned (R161). -/
  | store (bytes : List Byte) (poison : Bool)
  | amo (op : AmoOp) (w : Width) (b : Word64) (d : Reg)
  | cas (w : Width) (expect new : Word64) (d : Reg)
  | red (op : AmoOp) (w : Width) (b : Word64)
  | waitw (w : Width) (expect : Word64) (d : Reg)
  /-- A deposit into a register of a thread (R102); `out` is the sending channel register, if a channel sent it. -/
  | deposit (target : Nat) (reg : Reg) (value : Word64) (out : Option Reg)
  /-- The step of `rcast` on a role table (R254): the requested role and the state sent with it; and gD as it was (R255). -/
  | rcast (d : Reg) (new frm : Nat) (sameTable : Bool) (dry : Nat) (old : GReg)
  /-- A write-back request of a `bfence` (R96). -/
  | writeback
  /-- A request to the hub's window unit (R356): the operation and its operands. -/
  | window (op : Nat) (d : Reg) (a b : Word64)
  /-- The reserve step of a cell part that splits, with NRES (R345). -/
  | reserve (region part nres : Nat)
  /-- A `wintake` whose copy runs (R366): where to in the scratchpad, the answer's value, and the bytes. -/
  | take (d : Reg) (addr : Nat) (value : Word64) (bytes : List Byte)
  deriving DecidableEq, Repr

/-- What an applied access answers. -/
inductive Answer
  | none
  | ack
  | data (bytes : List Byte)
  | poisoned (line : Nat)
  | status (value code : Word64)
  /-- A deposit refused, or abandoned (R224). -/
  | refused (abandon : Bool)
  /-- `rcast`: status, and the count fields after the step. -/
  | roles (status : Nat) (counts : BitVec 48)
  deriving DecidableEq, Repr

/-- Where an access stands between issue and answer (R85, R86). A leg is a channel of the source caldera, the bridge
FIFO, or a channel of the destination caldera; `seq` is the order of entry. -/
inductive Stage
  /-- A release that is not yet delivered toward its home (R93). -/
  | held
  | leg (n : Nat) (seq : Nat)
  /-- Delivered at its home. -/
  | home
  /-- In the queue before the atomic unit, in order of entry (R231). -/
  | queued (seq : Nat)
  /-- A `waitw` that holds a watch entry since a partition cycle (R101). -/
  | watch (since : Nat)
  /-- A deposit refused at a partition cycle, to be sent again (R224). -/
  | refusedAt (cycle : Nat)
  | ansLeg (n : Nat) (seq : Nat)
  /-- The answer stands at the issuer's port. -/
  | answered
  deriving DecidableEq, Repr

/-- An access in flight. -/
structure Access where
  part : Nat
  issuer : Issuer
  /-- The thread it is issued for, by its identifier. -/
  tid : Nat
  /-- Its place in the thread's issue order, and its place among the sums of one `mvb` (R331). -/
  order : Nat × Nat := (0, 0)
  /-- The filling generation of the issuing context. -/
  gen : Nat := 0
  kind : AccKind
  /-- Physical address and bytes; a deposit has none. -/
  pa : Nat := 0
  size : Nat := 0
  /-- The address is one of the issuing core's scratchpad. -/
  spad : Bool := false
  /-- Address space and virtual address it was translated from (R153). -/
  asid : Nat := 0
  va : Nat := 0
  /-- The quads it travels between. -/
  src : Nat
  dst : Nat
  rel : Option Scope := none
  /-- For R396: whether a write counts as an earlier one, and whether a thread's store is one that may be recorded. -/
  counted : Bool := true
  plain : Bool := true
  /-- The access was issued before this one's release was, and is waited for, when its number is below this. -/
  bound : Nat := 0
  stage : Stage
  answer : Answer := .none
  /-- The partition cycle of its issue, and the address of its instruction (R395). -/
  issuedAt : Nat := 0
  pc : Nat := 0
  /-- The partition cycle in which it entered the network (R213), and the module's cycle in which it reached its home. -/
  entered : Nat := 0
  reached : Nat := 0
  /-- The number of the issuing thread (R66). -/
  uid : Nat := 0
  /-- Of a request to the window unit: the opening of its stream that the issue found (R365, R366). -/
  opening : Nat := 0
  deriving DecidableEq, Repr

/-- A result that a core writes at a fixed partition cycle (R170, R279, R287). -/
inductive LocalKind
  | reg (d : Reg) (value : Word64)
  | regPoison (d : Reg) (line : Nat)
  | vec (v : Nat) (value : BitVec 512) (poison : Option Nat)
  /-- Bytes of a vector register from a byte on, one of the answers that it awaits. -/
  | lanes (v off : Nat) (bytes : List Byte) (poison : Option Nat)
  deriving DecidableEq, Repr

structure LocalAnswer where
  /-- The number of the access to a local home that it answers, if it answers one (R87). -/
  access : Option Nat := none
  tid : Nat
  shadow : Bool := false
  gen : Nat
  due : Nat
  kind : LocalKind
  deriving DecidableEq, Repr

/-- A reduction held by a deterministic home (R100): word, source thread, issue order, operation. -/
structure HeldRed where
  part : Nat
  pa : Nat
  src : Nat
  uid : Nat
  pc : Nat
  order : Nat × Nat
  op : AmoOp
  w : Width
  b : Word64
  deriving DecidableEq, Repr

/-- An entry of a translation cache (R152). -/
structure TlbEntry where
  asid : Nat
  /-- First virtual page of the run, in pages of its size, and the pages of the run. -/
  vpage : Nat
  ps : Nat
  pages : Nat
  pbn : Nat
  bl : Bool
  pin : Bool
  cnt : Bool
  mq : Bool
  count : Nat := 0
  deriving DecidableEq, Repr

/-! ## Engines of a quad -/

/-- A segment register's value as an engine's command captured it at issue (R98). -/
abbrev Captured := Segment

/-- A copy command (R180 to R184): rows of `width` bytes. -/
structure CopyCmd where
  part : Nat
  tid : Nat
  gen : Nat
  shadow : Bool := false
  uid : Nat := 0
  /-- The address of its instruction, in words. -/
  pc : BitVec 50 := 0
  asid : Nat
  h : Header
  /-- Accesses numbered below this were issued before it (R98). -/
  bound : Nat
  member : Nat
  sseg : Captured
  dseg : Captured
  soff : Nat
  doff : Nat
  rows : Nat
  width : Nat
  spitch : Nat
  dpitch : Nat
  /-- Pieces moved: one piece is the bytes of one row within one destination line. -/
  moved : NSet := []
  /-- The page it is stalled on, while it is (R183). -/
  stalled : Option Nat := none
  deriving DecidableEq, Repr

/-- A thread that awaits a result in a register: thread, generation and register. -/
structure Waiter where
  tid : Nat
  gen : Nat
  shadow : Bool := false
  d : Reg
  deriving DecidableEq, Repr

/-- A stop of an itinerary (R261). -/
structure TourStop where
  core : Nat
  slot : Nat
  hold : Nat
  policy : Nat
  copy : Bool
  coff : Nat
  alt : Nat
  deriving DecidableEq, Repr

/-- A tile on its way between the quads of two places (16_tile.md): the leg that it travels and its place there (R86). -/
structure Hop where
  src : Nat
  dst : Nat
  leg : Nat
  seq : Nat
  deriving DecidableEq, Repr

/-- The states of a tour (R267). -/
inductive TourState | reserving | reading | atStop (k : Nat) (alternate : Bool) | writingBack
  deriving DecidableEq, Repr

/-- A tour (R263 to R267). -/
structure Tour where
  part : Nat
  tid : Nat
  gen : Nat
  /-- The address of its instruction, in words. -/
  pc : BitVec 50 := 0
  /-- The region, and the register of the answer. -/
  region : Nat
  d : Reg
  asid : Nat
  h : Header
  bound : Nat
  sseg : Captured
  soff : Nat
  rows : Nat
  rowBytes : Nat
  pitch : Nat
  cap : Nat
  wb : Bool
  wseg : Captured
  woff : Nat
  stops : List TourStop
  state : TourState := .reserving
  /-- The partition cycle of its issue (R213); whether the registry has taken it; the places that have been asked, and whether one has
  refused (R265, R266). -/
  issued : Nat := 0
  registered : Bool := false
  asked : Nat := 0
  refused : Bool := false
  /-- The number of its issue. -/
  seq : Nat
  shadow : Bool := false
  uid : Nat := 0
  /-- Pieces read into stop 0's slot, and pieces written back: a piece is the bytes of one row within one line. -/
  rowsRead : NSet := []
  written : NSet := []
  /-- Its tile travels to the next place. -/
  hop : Option Hop := none
  /-- Overruns counted (R277). -/
  overruns : Nat := 0
  stalled : Option Nat := none
  /-- The aborts asked for: the slot each named, by its core and number, and who takes the answer (R278). -/
  aborts : List (Nat × Nat × Waiter) := []
  deriving DecidableEq, Repr

/-- An arrival that a `bar` has sent (R202). -/
structure Arrival where
  tid : Nat
  gen : Nat
  shadow : Bool := false
  d : Reg
  /-- Caldera level, the entry's index, the count and DRAIN. -/
  atCaldera : Bool
  index : Nat
  count : Nat
  drain : Bool
  /-- The partition cycle in which it was sent (R213). -/
  sent : Nat := 0
  deriving DecidableEq, Repr

/-- A pending `qprobe` (R207), and whether the circuit under way began after it asked. -/
structure Probe where
  tid : Nat
  gen : Nat
  shadow : Bool := false
  d : Reg
  caldera : Nat
  counted : Bool := false
  deriving DecidableEq, Repr

/-- An entry of a barrier table (R200). STATE 0 IDLE, 1 GATHERING, 2 DRAINING. -/
structure BarEntry where
  gen : BitVec 16 := 0
  state : Nat := 0
  drain : Bool := false
  count : Nat := 0
  arrived : Nat := 0
  waiters : List Waiter := []
  /-- The circuit under way began after the last arrival (R203). -/
  counted : Bool := false
  /-- The latest arrival: the module's cycle, plus one, in which it came, its sending, and its thread (R203, R213). -/
  latest : Nat × Nat × Nat := (0, 0, 0)
  deriving DecidableEq, Repr

/-! ## A caldera -/

/-- A page with faults outstanding (R156), by an address in it: its waiters are the threads and commands that wait on it. -/
structure FaultEntry where
  asid : Nat
  va : Nat
  part : Nat
  deriving DecidableEq, Repr

/-- A fault record (R155), as it stands in a pager queue. -/
structure FaultRecord where
  kind : Nat
  acc : Nat
  thread : Nat
  asid : Nat
  va : Nat
  deriving DecidableEq, Repr

/-- Why a walk failed: a page fault of a kind, the tenant check or a REFUSED answer, or a poison leaf. -/
inductive WalkFail | fault (kind : Nat) | refused | poison
  /-- The pager has refused the page (R157). -/
  | denied
  /-- The walk has not come to its end. -/
  | held
  deriving DecidableEq, Repr

/-- A translation miss of a thread or an engine (R152): the walk for it, and why it failed, if it has. -/
structure Walk where
  part : Nat
  quad : Nat
  asid : Nat
  va : Nat
  acc : Nat
  tid : Nat
  shadow : Bool
  /-- The walk's number, the region attribute entry that it found at its start (R146; all ones before it), and the engine that it is
  for, if no thread. -/
  id : Nat := 0
  raf : Word64 := 0
  engine : Option Issuer := none
  /-- The miss waits at its port for one of the walker's 256 walks (R152). -/
  waiting : Bool := false
  result : Option WalkFail := none
  deriving DecidableEq, Repr

/-- A migration notification (R163), by the page's first address. -/
structure Notification where
  asid : Nat
  va : Nat
  caldera : Nat
  home : Nat
  deriving DecidableEq, Repr

/-- An entry of the tour registry (R265). -/
structure RegistryEntry where
  part : Nat
  region : Nat
  base : Nat
  rowBytes : Nat
  rows : Nat
  pitch : Nat
  deriving DecidableEq, Repr

/-- Soft errors of a caldera (R394). -/
structure SoftErr where
  /-- When uncorrectable errors of the last 24 hours were recorded, in units of 2^-16 ns of `DTIME`. -/
  recent : List Nat := []
  corrected : BitVec 32 := 0
  uncorrectable : BitVec 16 := 0
  reruns : BitVec 16 := 0
  deriving DecidableEq, Repr

structure Caldera where
  faults : List FaultEntry := []
  /-- Faults that wait in the walker for room in the table, with their partition (R156). -/
  faultWait : List (Nat × FaultRecord) := []
  notifications : List Notification := []
  drops : BitVec 32 := 0
  registry : List RegistryEntry := []
  softErr : SoftErr := {}
  deriving DecidableEq, Repr

/-! ## Regions and partitions -/

/-- A live region (R236 to R242): the fields of its control block after inheritance, and how far it has come. -/
structure Region where
  /-- The RCB's address, and the address space that it was launched in. -/
  rcb : Nat
  rcbAsid : Nat
  asid : Nat
  /-- False PENDING, true ACTIVE (R241). -/
  active : Bool := false
  nx : Nat
  ny : Nat
  nz : Nat
  taken : Nat := 0
  done : Nat := 0
  /-- The producers: address spaces and addresses of their RCBs, as `rcbKey` numbers them (R242). -/
  deps : List Nat := []
  /-- The root launch it descends from. -/
  root : Nat
  cores : List Nat
  image : Nat
  segt : Nat
  cellmap : Nat
  kvmiss : Nat
  spill : Nat
  spilln : Nat
  quant : Nat
  wctx : Nat
  tsb : Nat
  fdom : Nat
  prio : Nat
  det : Bool
  ronce : Bool
  strict : Bool
  /-- ACTIVE and its fold not yet written (R243). -/
  folding : Bool := false
  /-- Its cell map is still to be read (R340), and the page for which that waits. -/
  mapDue : Bool := false
  mapFault : Option Nat := none
  deriving DecidableEq, Repr

/-- A root launch (R239): its completion word. -/
structure RootLaunch where
  done : Nat
  doneVal : Word64
  irq : Bool
  vec : Nat
  /-- The refusal's CODE, if it was refused. -/
  refusedCode : Option Nat := none
  deriving DecidableEq, Repr

/-- A network interface's count and colour for a partition (R205). -/
structure Interface where
  count : BitVec 32 := 0
  black : Bool := false
  deriving DecidableEq, Repr

/-- A token of the quiesce probe on its circuit of a caldera (R205): how many interfaces it has visited, its sum and colour. -/
structure Token where
  visited : Nat := 0
  sum : BitVec 32 := 0
  black : Bool := false
  deriving DecidableEq, Repr

/-- What the core keeps of a spilled thread beside its image: its region while that lives (R400), its address space, and what
the model keeps of every thread. -/
structure Spilled where
  region : Option Nat
  asid : Nat
  lean : Bool
  origin : Nat
  crossing : Option Nat
  code : Option Segment
  crossed : Option Nat := none
  lastTime : Nat := 0
  uid : Nat := 0
  /-- Its arrival number. -/
  seq : Nat := 0
  /-- The poison marks of its general registers, for which the image has no field (log 136). -/
  poison : List (Option Nat) := []
  deriving DecidableEq, Repr

/-- A spill ring of a core (R219): the oldest slot, the arrival numbers, and the spilled threads oldest first. -/
structure SpillRing where
  head : Nat := 0
  seq : Nat := 0
  threads : List Spilled := []
  /-- The page that the spill of the oldest arrival, or (true) a refill, waits on (R220). -/
  stalled : Option (Nat × Bool) := none
  deriving DecidableEq, Repr

/-! ## The array (R284 to R317) -/

/-- A vector instruction in a dispatch queue: its registers were read at issue, so it holds its result (R286, R287). -/
structure VecJob where
  kind : LocalKind
  flags : BitVec 6
  latency : Nat
  deriving DecidableEq, Repr

/-- Where a matrix operand is read (R301): scratchpad or a tile slot. -/
inductive Place | spad | slot (t : Slot)
  deriving DecidableEq, Repr

/-- The 16 entries of a codebook, BF16 (R28), and the scratchpad or memory line that poisoned it (R310). -/
structure Codebook where
  entries : List (BitVec 16) := List.replicate 16 0
  poison : Option Nat := none
  deriving DecidableEq, Repr

/-- What a write leaves old: a byte's value; that its line was clean, which the write poisoned; that its line was poisoned, which the
write cleared (R161, R399). -/
inductive OldMark | value | clean | poisoned
  deriving DecidableEq, Repr

/-- A byte of a command's operands that was written after the command issued: where, its value before, and what is old of it (R311,
R333). -/
structure OldByte where
  place : Place
  addr : Nat
  old : Byte
  mark : OldMark := .value
  deriving DecidableEq, Repr

/-- A matrix step (R298 to R306). -/
structure MatStep where
  part : Nat
  tid : Nat
  gen : Nat
  shadow : Bool := false
  uid : Nat := 0
  /-- The address of its instruction, in words. -/
  pc : BitVec 50 := 0
  member : Nat
  reuse : Bool
  h : Header
  bound : Nat
  m : Nat
  k : Nat
  n : Nat
  atype : ElemType
  btype : ElemType
  aplace : Place
  bplace : Place
  aoff : Nat
  boff : Nat
  apitch : Nat
  bpitch : Nat
  /-- The source rows r(m). -/
  rows : List Nat
  abase : Nat
  cpitch : Nat
  zero : Bool
  codebook : Codebook := {}
  /-- Next pass, the reruns of the pass under way, and the flags of the applied passes. -/
  pass : Nat := 0
  reruns : Nat := 0
  flags : BitVec 6 := 0
  /-- The cycle at which it started, once it has, and at which its next pass ends. -/
  started : Option Nat := none
  passEnds : Nat := 0
  /-- The rows of the first block of B once they are latched, and the inputs of a pass that is run again (R303, R305). -/
  latched : Option (List (List Nat)) := none
  inputs : Option (List (List Nat) × List (List Nat)) := none
  error : Option MemberError := none
  olds : List OldByte := []
  deriving DecidableEq, Repr

/-- An entry of a dispatch queue or of the matrix section (R230, R300, R308). -/
inductive ArrayCmd
  | vec (j : VecJob)
  | step (x : MatStep)
  | aclr (i n : Nat)
  | acrd (v : Nat) (i : Int)
  | acwr (i : Int) (data : BitVec 512)
  /-- The codebook load, by the access that reads it, and what has come. -/
  | cbld (access : Nat) (reply : Option Reply)
  deriving DecidableEq, Repr

/-- A command with its issuer and the cycle of its issue; one that is an access to a local home, with its number (R87). -/
structure Queued where
  access : Option Nat := none
  tid : Nat
  gen : Nat
  shadow : Bool := false
  issued : Nat
  cmd : ArrayCmd
  deriving DecidableEq, Repr

/-- A vector result on its way (R287); of an access to a local home, with its number (R87). -/
structure VecResult where
  access : Option Nat := none
  tid : Nat
  gen : Nat
  shadow : Bool := false
  due : Nat
  kind : LocalKind
  flags : BitVec 6
  deriving DecidableEq, Repr

/-- A core's weight context (R298, R302): the latched block of B, and the latest issued `mma`'s K, N and BTYPE. -/
structure WeightCtx where
  stationary : Bool := false
  k : Nat := 1
  n : Nat := 1
  btype : ElemType := .f16
  /-- Decoded weights, row by row; a CB4 code stands as its BF16 entry. -/
  b : List Nat := []
  lastK : Nat := 1
  lastN : Nat := 1
  lastBtype : ElemType := .f16
  deriving DecidableEq, Repr

/-! ## Vents (R323 to R336) -/

inductive VentState | queued | translating | streaming
  deriving DecidableEq, Repr

/-- The part of a vent command's range that lies in one page: its virtual start, its size, where its page places it, and the
page's layout. -/
structure VentPage where
  va : Nat
  size : Nat
  pa : Nat
  row : Bool
  deriving DecidableEq, Repr

/-- A vent command (R326 to R334). -/
structure VentCmd where
  part : Nat
  tid : Nat
  gen : Nat
  shadow : Bool := false
  uid : Nat := 0
  /-- The address of its instruction, in words. -/
  pc : BitVec 50 := 0
  asid : Nat
  h : Header
  bound : Nat
  /-- Its place in the thread's issue order. -/
  order : Nat
  member : Nat
  wseg : Captured
  dseg : Captured
  woff : Nat
  doff : Nat
  act : Nat
  v : Nat
  c : Nat
  m : Nat
  st : Nat
  wtype : ElemType
  accum : Bool
  cboff : Nat
  state : VentState := .queued
  pages : List VentPage := []
  /-- The partition cycle in which it began to stream (R213). -/
  entered : Nat := 0
  acts : List Byte := []
  codebook : List (BitVec 16) := []
  rowsDone : NSet := []
  error : Option MemberError := none
  flags : BitVec 6 := 0
  stalled : Option Nat := none
  olds : List OldByte := []
  deriving DecidableEq, Repr

/-- A vault's vent counters for a partition (R336). -/
structure VentCount where
  rows : BitVec 32 := 0
  paced : BitVec 16 := 0
  corr : BitVec 16 := 0
  deriving DecidableEq, Repr


/-! ## Cells (R338 to R351) -/

/-- The kinds of an entry of a cell store (R342). -/
inductive CellKind | resident | transit | ghost
  deriving DecidableEq, Repr

/-- An entry of a cell store: the thread, its ORIGIN, and the part of the cell map its position lies in. -/
structure CellEntry where
  /-- The model's own: the entry's number, which it keeps while its fields change, the number of its thread, and the core that
  makes its changes. -/
  eid : Nat
  uid : Nat
  core : Nat
  region : Nat
  tid : Nat
  origin : Nat
  x : Int
  y : Int
  z : Int
  kind : CellKind
  part : Nat
  /-- The crossing of a TRANSIT or GHOST entry, and of the RESIDENT entry it becomes until the crossing ends. -/
  crossing : Option Nat := none
  deriving DecidableEq, Repr

/-- The states of a cell part that R346 names beside EMPTY and OCCUPIED, which its entries show. -/
inductive PartState | plain | splitting | crowded
  deriving DecidableEq, Repr

/-- A part of a cell (R341, R345): lower corner and edge exponents in raw units, and its holder. -/
structure CellPart where
  cell : Nat
  x : Int
  y : Int
  z : Int
  ex : Nat
  ey : Nat
  ez : Nat
  holder : Nat
  state : PartState := .plain
  /-- Its reserve step waits on the map's page. -/
  stalled : Bool := false
  deriving DecidableEq, Repr

/-- A region's cell map as its cores have read it (R339, R340), with its parts. A part that is not listed is a whole
cell, held by its owner; its number is the cell's index. -/
structure CellMap where
  addr : Nat
  malformed : Bool
  ox : Int
  oy : Int
  oz : Int
  elx : Nat
  ely : Nat
  elz : Nat
  gx : Nat
  gy : Nat
  gz : Nat
  halo : Nat
  thresh : Nat
  nres : Nat
  owners : List Nat
  resv : List Nat
  parts : SMap CellPart := []
  deriving DecidableEq, Repr

/-- A change of an entry on its way to a quad that holds a copy of its part (R343): the core that made it, the entry
(none: removed), its number and part, the cycle it was made, and the step of the crossing that waits on it. -/
structure CellChange where
  core : Nat
  quad : Nat
  region : Nat
  eid : Nat
  part : Nat
  entry : Option CellEntry
  made : Nat
  crossing : Option Nat := none
  step : Nat := 0
  deriving DecidableEq, Repr

/-- A crossing in progress (R344). -/
structure Crossing where
  /-- The identifier before departure. -/
  tid : Nat
  region : Nat
  /-- The part it enters, and the core that holds it. -/
  part : Nat
  holder : Nat
  /-- How far it has come: the first flit accepted, the last flit accepted, the new identifier, the ghost removed, the
  ORIGIN set. -/
  first : Bool := false
  last : Bool := false
  newTid : Option Nat := none
  ghostGone : Bool := false
  originSet : Bool := false
  deriving DecidableEq, Repr
/-! ## Cores and quads -/

/-- A core (R10): what its 16 contexts share. -/
structure Core where
  ctxs : SMap Ctx := []
  shadow : Shadow := {}
  spad : List Host.Cell := []
  /-- Poisoned 64-byte lines of the scratchpad (R399). -/
  spadPoison : NSet := []
  /-- The partition cycle, plus one, in which threads last used banks of the scratchpad, and those banks (R170). -/
  banked : Nat × NSet := (0, [])
  /-- Guarded granules (R142). -/
  guarded : NSet := []
  guardLog : GuardLog := {}
  hmask : BitVec 16 := 0
  /-- Key-value translation buffer, least recently used first (R165). -/
  kvtb : List KvEntry := []
  deadDeposits : BitVec 32 := 0
  /-- Arrivals whose last flit has come and that no context, queue entry or ring slot has taken (R220), in order. -/
  arriving : List Nat := []
  queue : List Traveller := []
  ring : SpillRing := {}
  /-- Threads whose spill page was refused, with cause and address, that wait for a context to be halted in (R220): by its number one that
  is MIGRATING still, or one whose slot could not be read back. -/
  spillRefused : List ((Nat × Nat) × (Nat ⊕ Traveller)) := []
  /-- The latest arrival: its cycle, its departure, and its departing identifier (R213). -/
  lastArrival : Nat × Nat × Nat := (0, 0, 0)
  /-- The module's cycle, plus one, in which the deposit port took its latest deposit (R84). -/
  deposited : Nat := 0
  tasks : SMap TaskEntry := []
  /-- The current region (R244, R246): its handle (1,024 once it has ended), image, segment table and address space. -/
  curRegion : Nat := 1024
  curImage : Nat := 0
  curSegt : Nat := 0
  curAsid : Nat := 0
  curX : BitVec 24 := 0
  curY : BitVec 24 := 0
  curZ : BitVec 24 := 0
  role : Nat := 0
  roleTable : Nat := 0
  /-- Partition cycle from which DRY counts (R253). -/
  dryFrom : Nat := 0
  rcasting : Option Nat := none
  vregs : SMap VecReg := []
  acc : SMap (BitVec 32) := []
  /-- Accumulator words with an uncorrectable error (R309). -/
  accPoison : NSet := []
  codebook : Codebook := {}
  weights : WeightCtx := {}
  dispatch : List Queued := []
  slots : SMap TileSlot := []
  /-- The partition cycle in which the core has used its issue. -/
  issued : Nat := 0
  /-- A machine error has halted the core (R108). -/
  dead : Bool := false
  deriving DecidableEq, Repr

/-- A quad as one partition has it (R9, R19). -/
structure Quad where
  cores : SMap Core := []
  bars : SMap BarEntry := []
  tours : SMap Tour := []
  copies : SMap CopyCmd := []
  vents : SMap VentCmd := []
  /-- The matrix section in order of acceptance, and the cycle from which its head may start (R300). -/
  matrix : List Queued := []
  matrixFree : Nat := 0
  results : List VecResult := []
  locals : List LocalAnswer := []
  /-- The core last granted by the array (R230, R258). Before any grant, and after a scrub, the search starts at core 0, which is the model's
  choice (log 125). -/
  lastGrant : Nat := 3
  /-- The array's last acceptance cycle, plus one. -/
  accepted : Nat := 0
  /-- The cell store's own entries, the copies of other quads' entries, and the entries whose copies found no room
  (R342), each as region and thread; in deterministic mode also the own entries as the last refresh saw them. -/
  cells : List CellEntry := []
  copyCells : List CellEntry := []
  missing : List CellEntry := []
  snapshot : List CellEntry := []
  /-- In deterministic mode, the regions' cell maps with their parts as the last refresh saw them (R343, R351). -/
  mapViews : SMap CellMap := []
  deriving DecidableEq, Repr

/-- A home slice's own state (R84): translation cache of the quad's port, least recently used first, and held
reductions. -/
structure Home where
  tlb : List TlbEntry := []
  held : List HeldRed := []
  deriving DecidableEq, Repr


/-! ## Partitions (R15, R16, R250) -/

/-- Whether a partition holds its quads: it never ran, it runs, it has been asked to freeze, it is frozen, or it waits
to resume. -/
inductive RunState | idle | live | freezing | frozen
  deriving DecidableEq, Repr

/-- A determinism record `DCREC` (R395). -/
structure DcRec where
  code : BitVec 4 := 0
  pc : BitVec 52 := 0
  count : BitVec 32 := 0
  deriving DecidableEq, Repr

/-- What an engine's or a walker's read has brought: for whom, for which piece of its work, from which virtual address, and the first
poisoned line (R161). -/
structure Fetched where
  issuer : Issuer
  tag : Nat
  va : Nat
  bytes : List Byte
  poison : Option Nat := none
  deriving DecidableEq, Repr

/-- A write that R396 counts as an earlier one: the line and the number of the thread it is of. -/
abbrev LineWriter := Nat × Nat

/-- A write of an RCB's word that waits (R241): the quad that makes it, address space, address, value, and whether it waits for
the pager; otherwise it waits for an earlier write of the word, or for its walk. -/
structure RcbWrite where
  quad : Nat
  asid : Nat
  va : Nat
  value : Nat
  fault : Bool
  deriving DecidableEq, Repr

/-- A partition, by its function. -/
structure Partition where
  /-- Its quads: runs of first quad and count, rising (R15). -/
  shape : List (Nat × Nat) := [(0, 8192)]
  quads : SMap Quad := []
  run : RunState := .idle
  /-- The place in the order in which partitions began to wait for their quads, while it waits (R250). -/
  waiting : Option Nat := none
  preempt : Bool := false
  det : Bool := false
  /-- Partition cycles so far, and how many of them came before the partition's launch. -/
  cycle : Nat := 0
  launchedAt : Nat := 0
  prio : Nat := 0
  /-- The partition cycle after the last one in which load was levelled (R256). -/
  levelled : Nat := 0
  /-- The quantum in microseconds; 0: no expiry. And the partition cycle at which it last resumed. -/
  quantum : Nat := 0
  resumed : Nat := 0
  regions : SMap Region := []
  nextFold : Nat := 0
  /-- The RCBs launched so far, as `rcbKey` numbers them, and whether every unit of the region has been taken (R242). -/
  launched : SMap Bool := []
  rcbWrites : List RcbWrite := []
  roots : SMap RootLaunch := []
  nextRoot : Nat := 0
  /-- The spill rings: address space, base and slots per core (R219). -/
  spillAsid : Nat := 0
  spill : Nat := 0
  spilln : Nat := 0
  /-- Network interfaces by quad; a caldera's bridge port is 8192 + its number (R205). -/
  interfaces : SMap Interface := []
  /-- Vent counters by vault (R336). -/
  ventCounts : SMap VentCount := []
  dcause : Word64 := 0
  dcrecs : SMap DcRec := []
  conflict : Word64 := 0
  writers : List LineWriter := []
  /-- Barrier arrivals on their way to their entry (R202), oldest first, and pending quiesce probes (R207). -/
  arrivals : List Arrival := []
  probes : List Probe := []
  /-- Caldera-level barrier entries by 16 × caldera + index (R200). -/
  bars : SMap BarEntry := []
  /-- Threads on their way to a core (R214), by number. -/
  travellers : SMap Traveller := []
  nextTraveller : Nat := 0
  /-- Tokens on their circuits, by caldera (R205). -/
  tokens : SMap Token := []
  /-- In deterministic mode: the choices taken since the launch, those of the freeze under way, and whether the partition has ended its
  cycle (R16). -/
  detChoices : Nat := 0
  drainChoices : Nat := 0
  rested : Bool := false
  /-- The partition's cycle, plus one, in which its cores have had their issues. -/
  closed : Nat := 0
  /-- What engines and walkers have read and not yet used. -/
  fetched : List Fetched := []
  /-- The partition's clock stands while its power is paced (R20). -/
  paused : Bool := false
  cellmaps : SMap CellMap := []
  changes : List CellChange := []
  crossings : SMap Crossing := []
  nextCrossing : Nat := 0
  nextEntry : Nat := 0
  /-- The parts numbered above the cells that splits have made so far. -/
  nextPart : Nat := 0
  deriving DecidableEq, Repr

/-! ## The window unit (R352 to R366) -/

/-- A geyser: its register set as written (R354), and the ticks fired in its run: current tick plus 1. -/
structure Geyser where
  regs : BitVec 192 := 0
  fired : Nat := 0
  deriving DecidableEq, Repr

inductive WinState | empty | present | late
  deriving DecidableEq, Repr

/-- A slot of a stream's window (R358, R361). -/
structure WinSlot where
  state : WinState := .empty
  taken : Bool := false
  len : Nat := 0
  p : Bool := false
  /-- A `wintake` copy of it that runs, by its access. -/
  copying : Option Nat := none
  deriving DecidableEq, Repr

/-- The six counters of a stream (R360). -/
structure StreamCount where
  arrived : BitVec 32 := 0
  late : BitVec 32 := 0
  early : BitVec 32 := 0
  expired : BitVec 32 := 0
  dup : BitVec 32 := 0
  bad : BitVec 32 := 0
  deriving DecidableEq, Repr

/-- An open stream (R357): its descriptor, the physical base of each 4 KiB page of its sink area with the layout it is
accessed in, and its window. -/
structure OpenStream where
  func : Nat
  sink : Nat
  asid : Nat
  ports : Nat
  slotlog : Nat
  ahead : Nat
  w : Nat
  geyser : Nat
  pages : List (Nat × Bool)
  slots : SMap WinSlot := []
  deriving DecidableEq, Repr

/-- A stream by number: open or closed, and its counters. -/
structure Stream where
  opened : Option OpenStream := none
  func : Nat := 0
  /-- How often it has been opened (R365, R366). -/
  openings : Nat := 0
  counts : StreamCount := {}
  deriving DecidableEq, Repr

/-- A token that waits in the hub until a copy of its slot has ended (R366): stream, presentation time in units of 2^-16 ns,
payload, and whether each 64-byte block of it passed the end-to-end check. -/
structure HeldToken where
  stream : Nat
  time : Nat
  payload : List Byte
  intact : List Bool
  deriving DecidableEq, Repr

/-- Device time and the window unit. -/
structure Windows where
  /-- Hub `DTIME` in units of 2^-16 ns. -/
  dtime : Nat := 0
  /-- The low word of a host setting. -/
  dtimeLow : Word64 := 0
  /-- What is still to be slewed, in units of 2^-16 ns. -/
  slew : Int := 0
  /-- Set while there is no master, as after reset (R353, R377). -/
  holdover : Bool := true
  locked : Bool := false
  backstep : Bool := false
  ptpcfg : BitVec 16 := 0
  /-- The `DTIME` copy of each caldera at its last reading. -/
  copies : SMap Nat := []
  geysers : SMap Geyser := []
  streams : SMap Stream := []
  held : List HeldToken := []
  /-- The request last applied: in which nanosecond, and its partition, cycle of issue and thread, so that no arrival and no
  older request follows it there (R356). -/
  lastRequest : Option (Nat × Nat × Nat × Nat) := none
  /-- Frames dropped at each port. -/
  drops : SMap (BitVec 32) := []
  deriving DecidableEq, Repr

/-! ## The host's view (R371 to R376) -/

/-- A PCI Express function: its launch word, ring registers, CTRL and VFCTL fields. -/
structure Func where
  packets : List Nat := []
  ovf : Bool := false
  faultq : Word64 := 0
  ansq : Word64 := 0
  eventq : Word64 := 0
  debug : Bool := false
  streamRefused : Bool := false
  round : Word64 := 0
  track : Bool := false
  snap : Bool := false
  dirty : BitVec 52 := 0
  ashi : BitVec 9 := 0
  aslo : BitVec 9 := 0
  en : Bool := false
  err : Bool := false
  pbhi : BitVec 23 := 0
  pblo : BitVec 23 := 0
  /-- EN has gone to 1 and the blocks are not yet zeroed (R391). -/
  scrubbing : Bool := false
  /-- Blocks written while TRACK = 1 (R376). -/
  marks : NSet := []
  /-- Fault records that wait for room in FAULTQ (R156). -/
  pendingFaults : List FaultRecord := []
  /-- The packet at the head waits for the pager (R239): the page's address space and an address in it, and whether the
  pager has refused it. -/
  packetFault : Option (Nat × Nat × Bool) := none
  quote : Option Nat := none
  quoteDone : Bool := false
  deriving DecidableEq, Repr

/-- An invalidation under way (R153): its function and TAG, the address space and the range that it invalidates, and the
accesses that used the removed entries. -/
structure Invalidation where
  func : Nat
  tag : Nat
  asid : Nat
  lo : Nat
  hi : Nat
  accesses : NSet
  deriving DecidableEq, Repr

/-! ## Fumaroles (R378 to R383) -/

/-- The states of a link (R380). -/
inductive LinkState | down | training | up | failed
  deriving DecidableEq, Repr

/-- A step of a collective program (R381), as its 128 bits. -/
abbrev FumStep := BitVec 128

/-- A collective program that runs (R381, R382). -/
structure FumProgram where
  part : Nat
  tid : Nat
  gen : Nat
  shadow : Bool := false
  uid : Nat := 0
  /-- The address of its instruction, in words. -/
  pc : BitVec 50 := 0
  asid : Nat
  h : Header
  bound : Nat
  pseg : Captured
  bseg : Captured
  poff : Nat
  boff : Nat
  chunk : Nat
  nrank : Nat
  rank : Nat
  /-- Its steps, once they have been read. -/
  steps : List FumStep := []
  loaded : Bool := false
  at_ : Nat := 0
  counters : List Nat := [0, 0, 0, 0]
  flags : BitVec 6 := 0
  stalled : Option Nat := none
  /-- The transfer that a receiving step has taken from its link and not yet finished with. -/
  received : Option (List (List Byte)) := none
  /-- Of the step at hand: the lines of its range that have been written, and with NRANK zero the open value that names its chunk. -/
  written : Nat := 0
  openChunk : Option Nat := none
  /-- Its issuer's partition has been replaced by an import, so that its flags reach no context (R46). -/
  orphan : Bool := false
  deriving DecidableEq, Repr

/-- A Chethen link with its fumarole: FUMCFG, the running program, and the latest handle's number and outcome. -/
structure Fumarole where
  replays : BitVec 16 := 0
  /-- Consecutive replays of the flit at hand. -/
  run : Nat := 0
  state : LinkState := .down
  nrank : BitVec 16 := 0
  rank : BitVec 16 := 0
  en : Bool := false
  owner : BitVec 5 := 0
  program : Option FumProgram := none
  seq : BitVec 16 := 0
  /-- How the programs of the handles have ended, by number (R383), and the flags that they merged (R46). -/
  ended : SMap Nat := []
  endedFlags : SMap (BitVec 6) := []
  /-- The transfers sent on the link and not yet acknowledged: the link whose program sent each, and its number (R381). -/
  awaiting : List (Nat × Nat) := []
  /-- The transfers sent on the link, block by block. -/
  sent : List (List (List Byte)) := []
  deriving DecidableEq, Repr

/-! ## Boot (R384 to R386) -/

/-- The hub's states; the staged image is verified apart (R386). -/
inductive BootState | reset | verify | start | run | recovery | failed | verifyStaged
  deriving DecidableEq, Repr

/-- Firmware: the hub's state, the image in flash (none: as it was manufactured), the staged image's buffer, and the
security version to which the fused minimum has been raised. -/
structure Firmware where
  state : BootState := .reset
  flash : Option (List Byte) := none
  buffer : Nat := 0
  /-- The staged image as the host's buffer held it when bit 9 was written. -/
  staged : List Byte := []
  stagedBad : Bool := false
  svnRaised : Nat := 0
  /-- The scope table (R92). -/
  hops1 : Nat := 2
  hops2 : Nat := 8
  deriving DecidableEq, Repr

/-- Power and cooling (R20, R398). -/
structure Power where
  pacing : Bool := false
  thermal : Bool := false
  down : Bool := false
  deriving DecidableEq, Repr

/-- A store to a word that a fetch may not see yet (R66): the word's value before it, the partition, thread and instruction of
the store, whether it has been recorded as a conflict, and the fences of that thread since, each by its core and scope. -/
structure StaleStore where
  old : Word32
  part : Nat
  uid : Nat
  pc : BitVec 50 := 0
  /-- Whether it is a plain store, and so one that R396 may record as the later write. -/
  plain : Bool := true
  noted : Bool := false
  fences : List (Nat × Scope) := []
  deriving DecidableEq, Repr

/-- The stores to a word that a fetch may not see yet, the latest first. -/
abbrev StaleWord := List StaleStore

/-- What an outside agent may do: a step of the opcode table, or what the spec gives an agent without a step of its own: the
driver names a partition's quads before its launch (R15), enters a block in the retired-block table (R161), reads a caldera's
oldest migration notification (R163); a link's far end acknowledges the oldest send (R381). -/
inductive Input
  | instr (i : Instr)
  | shape (p : Nat) (quads : List (Nat × Nat))
  | retire (block : Nat)
  | notice (caldera : Nat)
  | acknowledge (link : Nat)
  /-- A write of the stream-open register whose walk has to wait (R357). -/
  | reopen (f : Nat) (value : Word64)
  deriving DecidableEq, Repr

/-- The thread or shadow set whose instruction runs. -/
structure Current where
  part : Nat := 0
  core : Nat := 0
  ctx : Nat := 0
  shadow : Bool := false
  deriving DecidableEq, Repr

/-- What a record of EXPORT holds (R397): a partition, its unanswered accesses, as are watches, refused deposits and held `tickw`
requests, its held reductions by home, and its failed walks. -/
structure Saved where
  part : Partition
  accesses : SMap Access := []
  held : List (Nat × HeldRed) := []
  walks : List Walk := []
  /-- By caldera, its pages in the fault table and its faults that wait for room there; its fault records that wait for the pager queue
  (R156); and its tiles in the tour registries (R265). -/
  faults : List (Nat × FaultEntry) := []
  faultWait : List (Nat × FaultRecord) := []
  pendingFaults : List FaultRecord := []
  registry : List (Nat × RegistryEntry) := []
  /-- Its programs on links: the link and the handle's number of each (R46). -/
  programs : List (Nat × Nat × FumProgram) := []
  /-- How many accesses the module had numbered, and how many threads, batch members and the like. -/
  next : Nat := 0
  seq : Nat := 0
  deriving DecidableEq, Repr

/-! ## The machine -/

structure State where
  parts : SMap Partition := []
  homes : SMap Home := []
  calderas : SMap Caldera := []
  /-- Physical memory (R145): strictly rising addresses, no listed zero; an unlisted byte reads 0. -/
  mem : List Host.Cell := []
  /-- Poisoned lines, by line number (R161). -/
  poison : NSet := []
  /-- Bank copies of the lines that are dirty in a slice cache, by line number (R97). -/
  bank : SMap (List Byte) := []
  /-- The layout in which a block's bytes stand (R325): true is the row block layout. -/
  layouts : SMap Bool := []
  /-- The end-to-end checks that blocks from the host and from Ethernet carry, by line number (R21, R393). -/
  checks : SMap (BitVec 16) := []
  /-- Words that a fetch may still see old (R66), by physical address. -/
  stale : SMap StaleWord := []
  /-- The retired-block table of 256 PBNs (R151). -/
  retired : NSet := []
  /-- Region attribute entries, by 16 × ASID + entry (R146). -/
  raf : SMap Word64 := []
  accesses : SMap Access := []
  nextAccess : Nat := 0
  /-- The order of entry into channels. -/
  nextSeq : Nat := 0
  invalidations : List Invalidation := []
  /-- Walks that failed the tenant check, counted for the physical function (R151). -/
  tenantFailures : Nat := 0
  /-- Translation misses whose walks run or have failed (R152). -/
  walks : List Walk := []
  /-- The partition that a quad's storage last held, when it is not partition 0 (R18). -/
  owner : SMap Nat := []
  /-- The model's own: the records that EXPORT has written and what they hold (R397). -/
  exports : List (List Byte × Saved) := []
  nextWait : Nat := 0
  funcs : SMap Func := []
  windows : Windows := {}
  fumaroles : SMap Fumarole := []
  firmware : Firmware := {}
  power : Power := {}
  /-- MSI-X messages sent: function and vector (R239). -/
  msix : List (Nat × Nat) := []
  /-- What the host's last read returned. -/
  hostValue : Option (List Byte) := none
  /-- The model's own: steps of outside agents still to come, in order. -/
  inputs : List Input := []
  /-- Cycles of the module so far. -/
  clock : Nat := 0
  /-- The model's own: how many open values have been taken (the argument of `Config`'s free values). -/
  choices : Nat := 0
  cur : Current := {}
  deriving DecidableEq, Repr

/-- The machine right after reset: the hub is in RESET, no function is enabled, and every part is as a scrub leaves it. -/
def State.reset : State := {}

end Sys2Proof.Machine
end

