-- ==== Sys2Proof/Machine/Base.lean ====
section
/-!
DEFINITION. Reading and writing the parts of the state: partitions, quads, cores, contexts, functions, homes, accesses and
physical memory. Every later definition goes through these.
-/
namespace Sys2Proof.Machine

/-! ## The machine's parts -/

/-- The lowest key below `n` that a map does not hold. -/
def freeKey {β : Type} (m : SMap β) (n : Nat) : Option Nat := leastBelow (fun k => (m.find? k).isNone) n

namespace State

def part (s : State) (p : Nat) : Partition := s.parts.getD p {}
def setPart (s : State) (p : Nat) (x : Partition) : State := { s with parts := s.parts.put p x }
def modPart (s : State) (p : Nat) (f : Partition → Partition) : State := s.setPart p (f (s.part p))

/-- Whether a partition runs. -/
def live (s : State) (p : Nat) : Bool := decide ((s.part p).run = .live)

def quad (s : State) (p q : Nat) : Quad := (s.part p).quads.getD q {}
def setQuad (s : State) (p q : Nat) (x : Quad) : State := s.modPart p fun P => { P with quads := P.quads.put q x }
def modQuad (s : State) (p q : Nat) (f : Quad → Quad) : State := s.setQuad p q (f (s.quad p q))

def core (s : State) (p c : Nat) : Core := (s.quad p (quadOfCore c)).cores.getD (coreInQuad c) {}
def setCore (s : State) (p c : Nat) (x : Core) : State :=
  s.modQuad p (quadOfCore c) fun Q => { Q with cores := Q.cores.put (coreInQuad c) x }
def modCore (s : State) (p c : Nat) (f : Core → Core) : State := s.setCore p c (f (s.core p c))

/-- Context `n` of a core. -/
def context (s : State) (p c n : Nat) : Ctx := (s.core p c).ctxs.getD n {}
def setContext (s : State) (p c n : Nat) (x : Ctx) : State := s.modCore p c fun C => { C with ctxs := C.ctxs.put n x }
def modContext (s : State) (p c n : Nat) (f : Ctx → Ctx) : State := s.setContext p c n (f (s.context p c n))

/-- The context that a thread identifier names. -/
def threadCtx (s : State) (p tid : Nat) : Ctx := s.context p (coreOf tid) (ctxOf tid)
def modThread (s : State) (p tid : Nat) (f : Ctx → Ctx) : State := s.modContext p (coreOf tid) (ctxOf tid) f

def caldera (s : State) (k : Nat) : Caldera := s.calderas.getD k {}
def modCaldera (s : State) (k : Nat) (f : Caldera → Caldera) : State :=
  { s with calderas := s.calderas.put k (f (s.caldera k)) }

def home (s : State) (q : Nat) : Home := s.homes.getD q {}
def modHome (s : State) (q : Nat) (f : Home → Home) : State := { s with homes := s.homes.put q (f (s.home q)) }

def func (s : State) (f : Nat) : Func := s.funcs.getD f {}
def modFunc (s : State) (f : Nat) (g : Func → Func) : State := { s with funcs := s.funcs.put f (g (s.func f)) }

def fum (s : State) (l : Nat) : Fumarole := s.fumaroles.getD l {}
def modFum (s : State) (l : Nat) (g : Fumarole → Fumarole) : State :=
  { s with fumaroles := s.fumaroles.put l (g (s.fum l)) }

def modWindows (s : State) (f : Windows → Windows) : State := { s with windows := f s.windows }

/-- Whether a register of BAR0 responds (R386). -/
def bar0Responds (s : State) (f offset : Nat) : Bool :=
  decide (s.firmware.state ≠ .recovery) || (decide (f = 0) && decide (offset < 0x100))

/-- An open choice among `n`: the machine's counter goes on by one, and nothing is known of the value but its range. -/
def choose (s : State) (n : Nat) : State × Nat := ({ s with choices := s.choices + 1 }, Config.pick s.choices % n)

/-- A choice among `n` of a partition's own: in deterministic mode it depends on the choices since the launch alone (R16). -/
def chooseOwn (s : State) (p n : Nat) : State × Nat :=
  if !(s.part p).det then s.choose n
  else (s.modPart p fun P => { P with detChoices := P.detChoices + 1 }, Config.detPick (s.part p).detChoices % n)

/-- A choice among `n` within a partition: in deterministic mode what a freeze completes takes none of the partition's own choices
(R103; log 42). -/
def chooseFor (s : State) (p n : Nat) : State × Nat :=
  if (s.part p).det ∧ ((s.part p).run = .freezing ∨ (s.part p).run = .frozen) then
    (s.modPart p fun P => { P with drainChoices := P.drainChoices + 1 }, Config.freezePick (s.part p).drainChoices % n)
  else s.chooseOwn p n

/-! ## The thread at hand -/

/-- The core and the caldera of the thread at hand. -/
def curCore (s : State) : Core := s.core s.cur.part s.cur.core
def modCurCore (s : State) (f : Core → Core) : State := s.modCore s.cur.part s.cur.core f
/-- The identifier of the thread at hand; the shadow set runs for the thread that missed (R105). -/
def curTid (s : State) : Nat := s.cur.core * 16 + s.cur.ctx
def curQuad (s : State) : Quad := s.quad s.cur.part (quadOfCore s.cur.core)
def modCurQuad (s : State) (f : Quad → Quad) : State := s.modQuad s.cur.part (quadOfCore s.cur.core) f
def curPart (s : State) : Partition := s.part s.cur.part
def modCurPart (s : State) (f : Partition → Partition) : State := s.modPart s.cur.part f
/-- The partition cycle of the thread at hand. -/
def now (s : State) : Nat := s.curPart.cycle

end State

/-- The shadow set's own state laid over the context that missed: what an instruction of the shadow set sees (R105,
R166). The set has no ARM bits and no WAKE of its own in R105: that `arm` sets an armed bit of the set's own register and `park` takes
the WAKE of the thread that missed is the model's choice (log 121). -/
def overlay (h : Shadow) (c : Ctx) : Ctx :=
  { c with regs := h.regs, pc := h.pc, tepc := h.tepc, state := h.state, acquiring := h.acquiring,
           phase := h.phase, reply := h.reply, rep := h.rep, chans := [] }

/-- What an instruction of the shadow set wrote, back into the shadow set. -/
def underlay (h : Shadow) (c : Ctx) : Shadow :=
  { h with regs := c.regs, pc := c.pc, tepc := c.tepc, state := c.state, acquiring := c.acquiring,
           phase := c.phase, reply := c.reply, rep := c.rep }

/-- What an instruction of the shadow set wrote to the context that missed: everything but what the set holds itself. -/
def beneath (old new : Ctx) : Ctx :=
  { new with regs := old.regs, pc := old.pc, tepc := old.tepc, state := old.state, acquiring := old.acquiring,
             phase := old.phase, reply := old.reply, rep := old.rep, chans := old.chans }

namespace State

/-- The context of the thread at hand. -/
def ctx (s : State) : Ctx :=
  let c := s.context s.cur.part s.cur.core s.cur.ctx
  if s.cur.shadow then overlay s.curCore.shadow c else c

def setCtx (s : State) (c : Ctx) : State :=
  if s.cur.shadow then
    let old := s.context s.cur.part s.cur.core s.cur.ctx
    (s.setContext s.cur.part s.cur.core s.cur.ctx (beneath old c)).modCurCore fun C => { C with shadow := underlay C.shadow c }
  else s.setContext s.cur.part s.cur.core s.cur.ctx c

def modCtx (s : State) (f : Ctx → Ctx) : State := s.setCtx (f s.ctx)

end State

/-! ## Physical memory (R145): canonical, an unlisted byte reads 0 -/

namespace Memory

/-- The byte at an address. -/
def read : List Host.Cell → Nat → Byte
  | [], _ => 0
  | (a', b) :: t, a => if a = a' then b else if a < a' then 0 else read t a

/-- Write the byte at an address, keeping the form: addresses strictly rising, no listed zero. -/
def write : List Host.Cell → Nat → Byte → List Host.Cell
  | [], a, b => if b = 0 then [] else [(a, b)]
  | (a', b') :: t, a, b =>
    if a < a' then (if b = 0 then (a', b') :: t else (a, b) :: (a', b') :: t)
    else if a = a' then (if b = 0 then t else (a, b) :: t)
    else (a', b') :: write t a b

/-- The canonical form. -/
def wf : List Host.Cell → Bool
  | [] => true
  | [(_, b)] => decide (b ≠ 0)
  | (a, b) :: (a', b') :: t => decide (b ≠ 0) && decide (a < a') && wf ((a', b') :: t)

def readList (m : List Host.Cell) (a : Nat) : Nat → List Byte
  | 0 => []
  | n + 1 => read m a :: readList m (a + 1) n

def writeList (m : List Host.Cell) (a : Nat) : List Byte → List Host.Cell
  | [] => m
  | b :: t => writeList (write m a b) (a + 1) t

end Memory

/-- Bytes, the first least significant (R2). -/
def natOfBytes : List Byte → Nat
  | [] => 0
  | b :: t => b.toNat + 256 * natOfBytes t

/-- The `n` bytes of a number, the least significant first (R2). -/
def bytesOfNat : Nat → Nat → List Byte
  | 0, _ => []
  | n + 1, v => BitVec.ofNat 8 v :: bytesOfNat n (v / 256)

/-- A field of a number. -/
def bitsOf (v hi lo : Nat) : Nat := v / 2 ^ lo % 2 ^ (hi + 1 - lo)

/-- Memory sizes (R145). -/
def vaultBytes : Nat := 60 * 2 ^ 20
def memBytes : Nat := 480 * 2 ^ 30
def blockBytes : Nat := 2 ^ 16

/-- The home quad of a physical address (R11, R145). -/
def homeOf (pa : Nat) : Nat := pa / vaultBytes

namespace State
def readMem (s : State) (pa n : Nat) : List Byte := Memory.readList s.mem pa n
end State

/-! ## Cores of a partition (R15) -/

/-- How many cores a partition has. -/
def Partition.coreCount (P : Partition) : Nat := 4 * P.shape.foldl (fun n r => n + r.2) 0

/-- Whether a quad belongs to a partition's shape. -/
def Partition.hasQuad (P : Partition) (q : Nat) : Bool := P.shape.any fun r => decide (r.1 ≤ q ∧ q < r.1 + r.2)

/-- The core of rank `r` in ascending core identifier. -/
def coreAtRank : List (Nat × Nat) → Nat → Nat
  | [], _ => 0
  | (q, n) :: t, r => if r < 4 * n then 4 * q + r else coreAtRank t (r - 4 * n)

/-- The rank of a core. -/
def rankOfCore : List (Nat × Nat) → Nat → Nat → Nat
  | [], _, _ => 0
  | (q, n) :: t, c, base => if 4 * q ≤ c ∧ c < 4 * (q + n) then base + (c - 4 * q) else rankOfCore t c (base + 4 * n)

/-- Whether a partition holds its quads: it runs, or has been asked to freeze. -/
def Partition.holdsQuads (P : Partition) : Bool := decide (P.run = .live ∨ P.run = .freezing)

/-- Whether a core belongs to a partition. -/
def Partition.hasCore (P : Partition) (c : Nat) : Bool := P.hasQuad (quadOfCore c)

/-- Whether any quad of the partition lies on a caldera. -/
def Partition.onCaldera (P : Partition) (k : Nat) : Bool :=
  P.shape.any fun r => decide (0 < r.2 ∧ r.1 < (k + 1) * 1024 ∧ k * 1024 < r.1 + r.2)

end Sys2Proof.Machine
end

