-- ==== Sys2Proof/Machine/CellBase.lean ====
section
/-!
DEFINITION. The geometry of a cell map (R339 to R341), views (R343), and the entries of the cell stores with the changes
that travel to the quads holding copies (R342, R343).
-/
namespace Sys2Proof.Machine

/-! ## Geometry (R341) -/

def CellMap.cells (m : CellMap) : Nat := m.gx * m.gy * m.gz

/-- A part by its number: a listed part, or a whole cell that has not been split. -/
def CellMap.part (m : CellMap) (i : Nat) : CellPart :=
  match m.parts.find? i with
  | some p => p
  | none =>
    let cx := i % m.gx
    let cy := i / m.gx % m.gy
    let cz := i / (m.gx * m.gy)
    { cell := i, x := m.ox + (cx * 2 ^ m.elx : Nat), y := m.oy + (cy * 2 ^ m.ely : Nat),
      z := m.oz + (cz * 2 ^ m.elz : Nat), ex := m.elx, ey := m.ely, ez := m.elz, holder := m.owners.getD i 0 }

/-- The cell of a position, when it is inside the grid. -/
def CellMap.cellAt (m : CellMap) (x y z : Int) : Option Nat :=
  let cx := (x - m.ox) / (2 ^ m.elx : Nat)
  let cy := (y - m.oy) / (2 ^ m.ely : Nat)
  let cz := (z - m.oz) / (2 ^ m.elz : Nat)
  if 0 ≤ cx ∧ cx < m.gx ∧ 0 ≤ cy ∧ cy < m.gy ∧ 0 ≤ cz ∧ cz < m.gz then
    some (cx.toNat + m.gx * (cy.toNat + m.gy * cz.toNat))
  else none

def CellPart.contains (p : CellPart) (x y z : Int) : Bool :=
  decide (p.x ≤ x ∧ x < p.x + (2 ^ p.ex : Nat) ∧ p.y ≤ y ∧ y < p.y + (2 ^ p.ey : Nat) ∧
    p.z ≤ z ∧ z < p.z + (2 ^ p.ez : Nat))

/-- The numbers of the parts of a cell: all are listed once the cell has been split. -/
def CellMap.partsOf (m : CellMap) (cell : Nat) : List Nat :=
  match m.parts.find? cell with
  | none => [cell]
  | some _ => (m.parts.keep fun _ p => decide (p.cell = cell)).map Prod.fst

/-- The part of a position inside a cell. -/
def CellMap.partIn (m : CellMap) (cell : Nat) (x y z : Int) : Nat :=
  ((m.partsOf cell).find? fun i => (m.part i).contains x y z).getD cell

/-- The cells within HALO of a cell on every axis. -/
def CellMap.near (m : CellMap) (cell : Nat) : List Nat :=
  let cx := cell % m.gx
  let cy := cell / m.gx % m.gy
  let cz := cell / (m.gx * m.gy)
  let span (c g : Nat) : List Nat := (List.range (2 * m.halo + 1)).filterMap fun d =>
    if m.halo ≤ c + d ∧ c + d - m.halo < g then some (c + d - m.halo) else none
  (span cz m.gz).flatMap fun z => (span cy m.gy).flatMap fun y => (span cx m.gx).map fun x => x + m.gx * (y + m.gy * z)

/-- The cores whose view contains the parts of a cell (R343): those that hold a part of a cell near it. -/
def CellMap.viewers (m : CellMap) (cell : Nat) : List Nat :=
  ((m.near cell).flatMap fun c => (m.partsOf c).map fun i => (m.part i).holder).eraseDups

/-- Whether a core's view contains a part. -/
def CellMap.inView (m : CellMap) (core part : Nat) : Bool := (m.viewers (m.part part).cell).contains core

/-! ## Entries and their changes (R342, R343) -/

namespace State

def cellMap (s : State) (p region : Nat) : Option CellMap := (s.part p).cellmaps.find? region

/-- Send a change that a core makes of an entry to every other quad with a core whose view contains its part or the part it stood
in: one change at each, which removes the entry where the view no longer contains it. The interfaces do not count a change (R205;
log 27). -/
def announce (s : State) (p core old : Nat) (e : CellEntry) (keep : Bool) (step : Nat) : State :=
  match s.cellMap p e.region with
  | none => s
  | some m =>
    let seers (part : Nat) : List Nat := (m.viewers (m.part part).cell).map quadOfCore
    let new := if keep then seers e.part else []
    let quads := (seers old ++ new).eraseDups.filter fun q => decide (q ≠ quadOfCore core)
    s.modPart p fun P => { P with changes := P.changes ++ quads.map fun q =>
      { core := core, quad := q, region := e.region, eid := e.eid, part := e.part, entry := if new.contains q then some e else none,
        made := P.cycle, crossing := e.crossing, step := step } }

/-- TRANSIT entries of a quad's store: with the copies they share 896 entries. -/
def transits (s : State) (p q : Nat) : Nat := ((s.quad p q).cells.filter fun e => decide (e.kind = .transit)).length

/-- Evict one copy, whichever, when own TRANSIT entries and copies together exceed the shared entries. -/
def evictCopy (s : State) (p q : Nat) : State :=
  let n := (s.quad p q).copyCells.length
  if n = 0 ∨ s.transits p q + n ≤ 896 then s
  else
    let (s, k) := s.chooseFor p n
    s.modQuad p q fun Q =>
      { Q with copyCells := Q.copyCells.eraseIdx k, missing := Q.missing ++ (Q.copyCells[k]?).toList }

/-- Entries of a part that count against THRESH (R345): RESIDENT ones, tenants among them, and TRANSIT ones. -/
def partCount (s : State) (p region part : Nat) : Nat :=
  (s.part p).quads.foldl (fun n q =>
    n + (q.2.cells.filter fun e => decide (e.region = region ∧ e.part = part ∧ e.kind ≠ .ghost)).length) 0

def setCellPart (s : State) (p region part : Nat) (x : CellPart) : State :=
  match s.cellMap p region with
  | none => s
  | some m => s.modPart p fun P =>
      { P with cellmaps := P.cellmaps.put region { m with parts := m.parts.put part x } }

/-- An addition to a part (R345, R346): above THRESH its holder tries to split it, unless a step is already on its way;
a part that cannot be halved is CROWDED. -/
def partAdded (s : State) (p region part : Nat) : State :=
  match s.cellMap p region with
  | none => s
  | some m =>
    let x := m.part part
    if s.partCount p region part ≤ m.thresh ∨ x.state = .splitting then s
    else if x.ex = 0 ∧ x.ey = 0 ∧ x.ez = 0 then s.setCellPart p region part { x with state := .crowded }
    else s.setCellPart p region part { x with state := .splitting }

/-- A removal from a part (R346): a CROWDED part whose count has fallen to THRESH is OCCUPIED again. -/
def partRemoved (s : State) (p region part : Nat) : State :=
  match s.cellMap p region with
  | none => s
  | some m =>
    let x := m.part part
    if x.state = .crowded ∧ s.partCount p region part ≤ m.thresh then s.setCellPart p region part { x with state := .plain } else s

/-- Enter a new entry in the store of a core's quad. -/
def addEntry (s : State) (p core : Nat) (e : CellEntry) (step : Nat) : State :=
  let q := quadOfCore core
  let e := { e with eid := (s.part p).nextEntry, core := core }
  let s := s.modPart p fun P => { P with nextEntry := P.nextEntry + 1 }
  let s := (s.modQuad p q fun Q => { Q with cells := Q.cells ++ [e] }).evictCopy p q
  (s.announce p core e.part e true step).partAdded p e.region e.part

/-- Change an entry in place; `old` is the part it stood in before. A ghost counts in no part, so that turning into one is a
removal, and it is no addition (R345, R346). -/
def changeEntry (s : State) (p core : Nat) (e : CellEntry) (old : Nat) (step : Nat) : State :=
  let q := quadOfCore core
  let e := { e with core := core }
  let s := s.modQuad p q fun Q => { Q with cells := Q.cells.map fun x => if x.eid = e.eid then e else x }
  let s := s.announce p core old e true step
  if e.kind = .ghost then s.partRemoved p e.region old
  else if e.part = old then s
  else (s.partRemoved p e.region old).partAdded p e.region e.part

/-- Remove an entry. -/
def removeEntry (s : State) (p core : Nat) (e : CellEntry) (step : Nat) : State :=
  let q := quadOfCore core
  let s := s.modQuad p q fun Q => { Q with cells := Q.cells.filter fun x => decide (x.eid ≠ e.eid) }
  (s.announce p core e.part e false step).partRemoved p e.region e.part

/-- The RESIDENT entry of a thread. -/
def residentOf (s : State) (p tid : Nat) : Option CellEntry :=
  (s.quad p (quadOfCore (coreOf tid))).cells.find? fun e => decide (e.tid = tid ∧ e.kind = .resident)

/-- Whether a thread is bound (R338): its entry stands in the cell store of its quad. -/
def isBound (s : State) (p tid : Nat) : Bool := (s.residentOf p tid).isSome

/-- The TRANSIT entry of a crossing, as its thread enters a context (R342): RESIDENT, with the thread's new identifier. -/
def settleTransit (s : State) (p core crossing tid : Nat) : State :=
  match (s.quad p (quadOfCore core)).cells.find? fun e => decide (e.crossing = some crossing ∧ e.kind = .transit) with
  | none => s
  | some e => s.changeEntry p core { e with tid := tid, kind := .resident } e.part 4

/-- Whether a change has still to be applied that shows a crossing's entry under the ORIGIN before it, or that takes such a copy away
(R344), of whatever step it is. -/
def originPending (P : Partition) (k : Nat) : Bool :=
  match P.crossings.find? k with
  | none => false
  | some x => P.changes.any fun c => decide (c.crossing = some k) &&
      ((match c.entry with | some e => decide (e.origin = x.tid) | none => false) ||
        (P.quads.getD c.quad {}).copyCells.any fun e => decide (e.eid = c.eid ∧ e.origin = x.tid))

/-- Whether a step's change of a crossing has still to be applied somewhere. Of its last step no copy may show the old ORIGIN any more. -/
def changePending (P : Partition) (k step : Nat) : Bool :=
  (P.changes.any fun c => decide (c.crossing = some k ∧ c.step = step)) || (decide (step = 3) && originPending P k)

/-- The entry of a kind that a crossing has in a partition, with its quad. -/
def crossingEntry (P : Partition) (k : Nat) (kind : CellKind) : Option (Nat × CellEntry) :=
  P.quads.findSome? fun q => (q.2.cells.find? fun e => decide (e.crossing = some k ∧ e.kind = kind)).map fun e => (q.1, e)

def modCrossing (s : State) (p k : Nat) (f : Crossing → Crossing) : State :=
  s.modPart p fun P => { P with crossings := match P.crossings.find? k with | some x => P.crossings.put k (f x) | none => P.crossings }

/-- The ghost of a crossing is removed by the core that made it. -/
def dropGhost (s : State) (p k : Nat) : State :=
  let s := match crossingEntry (s.part p) k .ghost with
    | some (_, e) => s.removeEntry p e.core e 2
    | none => s
  s.modCrossing p k fun x => { x with ghostGone := true }

/-- Unbind a thread (R338): its entry goes and leaves no ghost, also that of a crossing still in progress. -/
def unbind (s : State) (p tid : Nat) : State :=
  match s.residentOf p tid with
  | none => s
  | some e =>
    let s := s.removeEntry p (coreOf tid) e 0
    match e.crossing with
    | some k => s.dropGhost p k
    | none => s

/-- Clear every entry of a region (R338). A crossing of it that is in progress goes on without entries, as of a handle that no region
has. -/
def clearRegionCells (s : State) (p region : Nat) : State :=
  let keepE (l : List CellEntry) : List CellEntry := l.filter fun e => decide (e.region ≠ region)
  s.modPart p fun P =>
    { P with
      cellmaps := P.cellmaps.del region
      crossings := P.crossings.mapVal fun _ x => if x.region = region then { x with region := 1024 } else x
      changes := P.changes.filter fun c => decide (c.region ≠ region)
      quads := P.quads.mapVal fun _ Q =>
        { Q with
          cells := keepE Q.cells
          copyCells := keepE Q.copyCells
          missing := keepE Q.missing
          snapshot := keepE Q.snapshot
          mapViews := Q.mapViews.del region } }

/-- Quads whose views contain an entry, other than its own. -/
def copyQuads (s : State) (p q : Nat) (e : CellEntry) : List Nat :=
  match s.cellMap p e.region with
  | none => []
  | some m => ((m.viewers (m.part e.part).cell).map quadOfCore).eraseDups.filter fun v => decide (v ≠ q)

/-- Keep a copy of an entry at a quad, if it finds room; otherwise the views that miss it are short. -/
def keepCopy (s : State) (p v : Nat) (e : CellEntry) : State :=
  let room := decide (s.transits p v + (s.quad p v).copyCells.length < 896)
  s.modQuad p v fun Q => if room then { Q with copyCells := Q.copyCells ++ [e] } else { Q with missing := Q.missing ++ [e] }

/-- The quads of a partition in a caldera. -/
def quadsIn (P : Partition) (k : Nat) : List Nat :=
  (P.shape.flatMap fun r => List.range' r.1 r.2).filter fun q => decide (calderaOf q = k)

/-- In deterministic mode, refresh the views of a caldera's cores to the state of the stores (R343); the changes on their
way there are applied with it. -/
def refreshViews (s : State) (p k : Nat) : State :=
  let s := s.modPart p fun P =>
    { P with
      quads := (if P.cellmaps.isEmpty then P.quads else (quadsIn P k).foldl (fun m q => m.put q (m.getD q {})) P.quads).mapVal fun q Q =>
        if calderaOf q = k then { Q with snapshot := Q.cells, copyCells := [], missing := [], mapViews := P.cellmaps } else Q
      changes := P.changes.filter fun c => decide (calderaOf c.quad ≠ k) }
  (s.part p).quads.foldl (fun s x =>
    x.2.cells.foldl (fun s e =>
      ((s.copyQuads p x.1 e).filter fun v => decide (calderaOf v = k)).foldl (fun s v => s.keepCopy p v e) s) s) s

/-! ## Halving (R345, R346) -/

/-- The two halves of a part: the lower half stays with its holder, the upper half is held by `c`. -/
def halves2 (x : CellPart) (c : Nat) : CellPart × CellPart :=
  let e := max x.ex (max x.ey x.ez)
  let x := { x with state := PartState.plain }
  if x.ex = e then ({ x with ex := e - 1 }, { x with ex := e - 1, x := x.x + (2 ^ (e - 1) : Nat), holder := c })
  else if x.ey = e then ({ x with ey := e - 1 }, { x with ey := e - 1, y := x.y + (2 ^ (e - 1) : Nat), holder := c })
  else ({ x with ez := e - 1 }, { x with ez := e - 1, z := x.z + (2 ^ (e - 1) : Nat), holder := c })

/-- An entry of a part that has been halved. -/
def relabel (region part upper : Nat) (u : CellPart) (e : CellEntry) : CellEntry :=
  if e.region = region ∧ e.part = part ∧ u.contains e.x e.y e.z then { e with part := upper } else e

/-- The step of its crossing that waits for an entry to stand in the copies that a split adds (R344): the ghost's removal, or once the
ORIGIN is set the end. -/
def insertedStep (P : Partition) (e : CellEntry) : Nat :=
  match e.crossing.bind P.crossings.find? with
  | some x => if e.kind = .ghost then 0 else if x.originSet then 3 else 1
  | none => 0

/-- A part is halved: entries keep their place under the half that holds their position, and quads whose views now contain more
are told of the entries they miss, in the order of the changes that each entry's core makes (R343). In deterministic mode what a
quad shows of the stores stays as the last refresh saw it. -/
def halvePart (s : State) (p region part : Nat) (m : CellMap) (c : Nat) : State :=
  let upper := m.cells + (s.part p).nextPart
  let (lo, hi) := halves2 (m.part part) c
  let f := relabel region part upper hi
  let seen (l : List CellEntry) : List CellEntry := if (s.part p).det then l else l.map f
  let own (s : State) : List (Nat × CellEntry × List Nat) :=
    (s.part p).quads.flatMap fun q => (q.2.cells.filter fun e => decide (e.region = region)).map fun e => (q.1, e, s.copyQuads p q.1 e)
  let before := own s
  let s := s.modPart p fun P =>
    { P with
      nextPart := P.nextPart + 1
      cellmaps := P.cellmaps.put region { m with parts := (m.parts.put part lo).put upper hi }
      changes := P.changes.map fun c => match c.entry with
        | some e => { c with entry := some (f e), part := (f e).part }
        | none => c
      quads := P.quads.mapVal fun _ Q =>
        { Q with cells := Q.cells.map f, copyCells := seen Q.copyCells, missing := seen Q.missing } }
  let new := (List.zip before (own s)).flatMap fun x => (x.2.2.2.filter fun q => !x.1.2.2.contains q).map fun q => (x.2.2.1, q)
  s.modPart p fun P => { P with changes := P.changes ++ new.map fun x =>
    { core := x.1.core, quad := x.2, region := region, eid := x.1.eid, part := x.1.part, entry := some x.1, made := P.cycle,
      crossing := x.1.crossing, step := insertedStep P x.1 } }

/-- A part that cannot be split is CROWDED (R345). -/
def crowdPart (s : State) (p region part : Nat) : State :=
  match s.cellMap p region with
  | none => s
  | some m => s.setCellPart p region part { m.part part with state := .crowded, stalled := false }

/-- A part whose reserve step has waited for the pager tries again. -/
def retryPart (s : State) (p region part : Nat) : State :=
  match s.cellMap p region with
  | none => s
  | some m => s.setCellPart p region part { m.part part with stalled := false }

/-- The reserve step's answer (R345): the reserve entry that has been taken, or none. -/
def reserveAnswered (s : State) (p region part : Nat) (taken : Option Nat) : State :=
  match s.cellMap p region with
  | none => s
  | some m =>
    if (m.part part).state ≠ .splitting then s
    else match taken with
      | some n => s.halvePart p region part m (m.resv.getD n 0)
      | none => s.crowdPart p region part

end State

end Sys2Proof.Machine
end

