-- ==== Sys2Proof/Machine/Flags.lean ====
section
/-!
DEFINITION. The sticky flags (R45), the floating-point formats, rounding and exact arithmetic (spec/02, R23 to R35), and
the sums whose order the spec fixes (R38 to R40). A finite value is an exact dyadic number: sign, magnitude and exponent.
-/
namespace Sys2Proof.Machine

/-! ## Flags (R45) -/

/-- The six sticky flags: SAT 5, NX 4, UF 3, OF 2, DZ 1, NV 0. -/
abbrev Flags := BitVec 6

def flagNone : Flags := 0
def flagNv : Flags := 1
def flagDz : Flags := 2
def flagOf : Flags := 4
def flagUf : Flags := 8
def flagNx : Flags := 16
def flagSat : Flags := 32

/-- Flags when a condition holds. -/
def flagIf (c : Bool) (f : Flags) : Flags := if c then f else 0

/-! ## Integer helpers -/

/-- A `w`-bit number read as signed. -/
def signedOf (w n : Nat) : Int := if n % 2 ^ w < 2 ^ (w - 1) then (n % 2 ^ w : Nat) else (n % 2 ^ w : Nat) - (2 ^ w : Nat)

/-- An integer modulo 2^w. -/
def wrapTo (w : Nat) (i : Int) : Nat := (i % (2 ^ w : Nat)).toNat

/-- Clip to `lo .. hi`, and whether it clipped. -/
def clipTo (lo hi i : Int) : Int × Bool := if i < lo then (lo, true) else if hi < i then (hi, true) else (i, false)

/-- The signed range of a width. -/
def signedLo (w : Nat) : Int := -(2 ^ (w - 1) : Nat)
def signedHi (w : Nat) : Int := (2 ^ (w - 1) : Nat) - 1

/-- Bits that a number takes. -/
def bitLength (n : Nat) : Nat := if n = 0 then 0 else n.log2 + 1

/-! ## Formats (R23, R24) -/

/-- A floating-point format; `flush` says that results below the smallest normal are flushed (R31). -/
structure FloatFormat where
  eb : Nat
  mb : Nat
  flush : Bool
  e4m3 : Bool := false
  deriving DecidableEq, Repr

def fp32 : FloatFormat := ⟨8, 23, false, false⟩
def fp16 : FloatFormat := ⟨5, 10, false, false⟩
def bf16 : FloatFormat := ⟨8, 7, true, false⟩
def fpE4m3 : FloatFormat := ⟨4, 3, true, true⟩
def fpE5m2 : FloatFormat := ⟨5, 2, true, false⟩

namespace FloatFormat
def bias (f : FloatFormat) : Nat := 2 ^ (f.eb - 1) - 1
def width (f : FloatFormat) : Nat := 1 + f.eb + f.mb
def signBit (f : FloatFormat) (neg : Bool) : Nat := if neg then 2 ^ (f.eb + f.mb) else 0
/-- The canonical NaN: sign 0, quiet, no payload. -/
def nan (f : FloatFormat) : Nat := if f.e4m3 then 0x7F else (2 ^ f.eb - 1) * 2 ^ f.mb + 2 ^ (f.mb - 1)
/-- The largest finite encoding. -/
def top (f : FloatFormat) : Nat := if f.e4m3 then 0x7E else (2 ^ f.eb - 1) * 2 ^ f.mb - 1
/-- The encoding of infinity; E4M3 has none. -/
def inf (f : FloatFormat) : Nat := (2 ^ f.eb - 1) * 2 ^ f.mb
end FloatFormat

/-- A floating-point value, exact. -/
inductive FVal
  | nan
  | inf (neg : Bool)
  /-- (−1)^neg × m × 2^e; zero when `m` is 0. -/
  | fin (neg : Bool) (m : Nat) (e : Int)
  deriving DecidableEq, Repr

def FVal.zero : FVal := .fin false 0 0

/-- The value of an encoding; with `flush`, a subnormal reads as zero of its sign (R23, R31). -/
def decodeFloat (f : FloatFormat) (flush : Bool) (bits : Nat) : FVal :=
  let neg := decide (bits / 2 ^ (f.eb + f.mb) % 2 = 1)
  let e := bits / 2 ^ f.mb % 2 ^ f.eb
  let m := bits % 2 ^ f.mb
  if f.e4m3 && decide (e = 15 ∧ m = 7) then .nan
  else if !f.e4m3 && decide (e = 2 ^ f.eb - 1) then (if m = 0 then .inf neg else .nan)
  else if e = 0 then (if flush then .fin neg 0 0 else .fin neg m (1 - (f.bias : Int) - f.mb))
  else .fin neg (2 ^ f.mb + m) ((e : Int) - f.bias - f.mb)

/-! ## Rounding (R31 to R33) -/

/-- Round m × 2^e to a multiple of 2^q, ties to even: the multiple, and whether it is inexact. -/
def roundAt (m : Nat) (e q : Int) : Nat × Bool :=
  if q ≤ e then (m * 2 ^ (e - q).toNat, false)
  else
    let d := (q - e).toNat
    let n := m / 2 ^ d
    let r := m % 2 ^ d
    let half := 2 ^ (d - 1)
    (if half < r ∨ (r = half ∧ n % 2 = 1) then n + 1 else n, decide (r ≠ 0))

/-- What an overflow gives (R33): infinity, the largest finite value, or the NaN of non-saturating E4M3. -/
def overflowed (f : FloatFormat) (sat : Bool) (neg : Bool) : Nat × Flags :=
  if sat then (f.signBit neg + f.top, flagSat ||| flagNx)
  else if f.e4m3 then (f.nan, flagOf ||| flagNx)
  else (f.signBit neg + f.inf, flagOf ||| flagNx)

/-- Round a finite magnitude m × 2^e into a format: first with the exponent range unbounded, then overflow (R33), then
flushing or subnormal rounding (R31). -/
def roundFinite (f : FloatFormat) (sat : Bool) (neg : Bool) (m : Nat) (e : Int) : Nat × Flags :=
  if m = 0 then (f.signBit neg, 0)
  else
    let p := f.mb + 1
    let q0 : Int := e + bitLength m - p
    let (n0, inx) := roundAt m e q0
    -- the rounding may carry into the next binade
    let (n, q) := if n0 = 2 ^ p then (2 ^ (p - 1), q0 + 1) else (n0, q0)
    let ex : Int := q + f.mb
    if (f.bias : Int) + (if f.e4m3 then 1 else 0) < ex ∨ (f.e4m3 ∧ ex = f.bias + 1 ∧ n = 2 ^ p - 1) then overflowed f sat neg
    else if ex < 1 - (f.bias : Int) then
      if f.flush then (f.signBit neg, flagUf ||| flagNx)
      else
        let (ns, inxs) := roundAt m e (1 - (f.bias : Int) - f.mb)
        (f.signBit neg + ns, flagIf inxs (flagUf ||| flagNx))
    else (f.signBit neg + (ex + f.bias).toNat * 2 ^ f.mb + (n - 2 ^ f.mb), flagIf inx flagNx)

/-- A value in a format, with the flags of rounding it (R29, R32, R33). An infinite input converted to E4M3 follows the
last table of R33. -/
def encodeFloat (f : FloatFormat) (sat : Bool) : FVal → Nat × Flags
  | .nan => (f.nan, 0)
  | .inf neg =>
    if f.e4m3 then (if sat then (f.signBit neg + f.top, flagSat) else (f.nan, flagNv))
    else (f.signBit neg + f.inf, 0)
  | .fin neg m e => roundFinite f sat neg m e

/-- Round to FP32 and read the rounded value back. -/
def roundTo (f : FloatFormat) (v : FVal) : FVal × Flags :=
  let (b, fl) := encodeFloat f false v
  (decodeFloat f f.flush b, fl)

/-! ## Exact arithmetic (R29) -/

def FVal.neg : FVal → FVal
  | .nan => .nan
  | .inf n => .inf (!n)
  | .fin n m e => .fin (!n) m e

def FVal.isNan : FVal → Bool
  | .nan => true
  | _ => false

/-- Signed magnitude at an exponent not above the value's own. -/
def scaled (neg : Bool) (m : Nat) (e q : Int) : Int :=
  if neg then -((m * 2 ^ (e - q).toNat : Nat) : Int) else (m * 2 ^ (e - q).toNat : Nat)

/-- An exact sum; ∞ − ∞ is NaN and sets NV. -/
def fadd : FVal → FVal → FVal × Flags
  | .nan, _ => (.nan, 0)
  | _, .nan => (.nan, 0)
  | .inf a, .inf b => if a = b then (.inf a, 0) else (.nan, flagNv)
  | .inf a, .fin .. => (.inf a, 0)
  | .fin .., .inf b => (.inf b, 0)
  | .fin na ma ea, .fin nb mb eb =>
    if ma = 0 ∧ mb = 0 then (.fin (na && nb) 0 0, 0)
    else
      let q := min ea eb
      let s := scaled na ma ea q + scaled nb mb eb q
      (.fin (decide (s < 0)) s.natAbs (if s = 0 then 0 else q), 0)

def fsub (a b : FVal) : FVal × Flags := fadd a b.neg

/-- An exact product; 0 × ∞ is NaN and sets NV. -/
def fmul : FVal → FVal → FVal × Flags
  | .nan, _ => (.nan, 0)
  | _, .nan => (.nan, 0)
  | .inf a, .inf b => (.inf (a != b), 0)
  | .inf a, .fin nb mb _ => if mb = 0 then (.nan, flagNv) else (.inf (a != nb), 0)
  | .fin na ma _, .inf b => if ma = 0 then (.nan, flagNv) else (.inf (na != b), 0)
  | .fin na ma ea, .fin nb mb eb =>
    if ma * mb = 0 then (.fin (na != nb) 0 0, 0) else (.fin (na != nb) (ma * mb) (ea + eb), 0)

/-- Whether the first value is below the second; NaNs compare false; −0 counts below +0 when `zeros`. -/
def flt (zeros : Bool) : FVal → FVal → Bool
  | .nan, _ => false
  | _, .nan => false
  | .inf a, .inf b => a && !b
  | .inf a, .fin .. => a
  | .fin .., .inf b => !b
  | .fin na ma ea, .fin nb mb eb =>
    if ma = 0 ∧ mb = 0 then zeros && na && !nb
    else
      let q := min ea eb
      decide (scaled na ma ea q < scaled nb mb eb q)

/-- Whether two values compare equal; −0 equals +0. -/
def feq (a b : FVal) : Bool := !a.isNan && !b.isNan && !flt false a b && !flt false b a

/-- The larger or the smaller of two values (R29, R290). -/
def fmax (a b : FVal) : FVal := if a.isNan || b.isNan then .nan else if flt true a b then b else a
def fmin (a b : FVal) : FVal := if a.isNan || b.isNan then .nan else if flt true b a then b else a

/-! ## Square roots, reciprocals, powers and logarithms (R291) -/

/-- The integer square root, by bits from `k` down. -/
def sqrtBits (n : Nat) : Nat → Nat → Nat
  | 0, r => r
  | k + 1, r => let r' := r + 2 ^ k; sqrtBits n k (if r' * r' ≤ n then r' else r)

def natSqrt (n : Nat) : Nat := sqrtBits n (bitLength n / 2 + 1) 0

/-- A magnitude known to lie strictly between n and n + 1 in units of 2^q, as an exact number that rounds alike. -/
def between (neg : Bool) (n : Nat) (q : Int) : FVal := .fin neg (2 * n + 1) (q - 1)

/-- 1 / a (R291). -/
def frcp : FVal → FVal × Flags
  | .nan => (.nan, 0)
  | .inf n => (.fin n 0 0, 0)
  | .fin n m e =>
    if m = 0 then (.inf n, flagDz)
    else
      let k := bitLength m + 64
      if 2 ^ k % m = 0 then (.fin n (2 ^ k / m) (-e - k), 0) else (between n (2 ^ k / m) (-e - k), 0)

/-- 1 / √a (R291). -/
def frsq : FVal → FVal × Flags
  | .nan => (.nan, 0)
  | .inf n => if n then (.nan, flagNv) else (.fin false 0 0, 0)
  | .fin n m e =>
    if m = 0 then (.inf n, flagDz)
    else if n then (.nan, flagNv)
    else
      -- m' × 2^(2h) with an even exponent; 1 / √ = √(2^(2k) / m') × 2^(−k − h)
      let (m', h) := if e % 2 = 0 then (m, e / 2) else (2 * m, (e - 1) / 2)
      let k := bitLength m' + 64
      let r := natSqrt (2 ^ (2 * k) / m')
      if r * r * m' = 2 ^ (2 * k) then (.fin false r (-h - k), 0) else (between false r (-h - k), 0)

/-- Fixed-point precision of `fexp2`, in bits: DEDUCED (log 17) to be enough for the rounding to be exact. -/
def expBits : Nat := 320

/-- The product of 2^(2^−i) over the bits of a fraction given to `n` bits, most significant first, in fixed point; `c` is
the power for the bit at hand. -/
def expProduct : Nat → Nat → Nat → Nat → Nat
  | 0, _, _, acc => acc
  | n + 1, f, c, acc =>
    expProduct n f (natSqrt (c * 2 ^ expBits)) (if f / 2 ^ n % 2 = 1 then acc * c / 2 ^ expBits else acc)

/-- 2^a (R291): an integer exponent is exact; any other value is irrational. The exponent is clipped to where every format
has overflowed or underflowed, the magnitude there being of no account. -/
def fexp2 : FVal → FVal × Flags
  | .nan => (.nan, 0)
  | .inf n => (if n then .fin false 0 0 else .inf false, 0)
  | .fin n m e =>
    let k := if 0 ≤ e then 0 else (-e).toNat
    let i := scaled n m e (-(k : Int))
    let ip := i / (2 ^ k : Nat)
    let f := (i % (2 ^ k : Nat)).toNat
    let ex := if ip < -2000 then -2000 else if 2000 < ip then 2000 else ip
    if f = 0 then (.fin false 1 ex, 0)
    else (between false (expProduct k f (natSqrt (2 * 2 ^ (2 * expBits))) (2 ^ expBits)) (ex - expBits), 0)

/-- Bits of log2 x after the point, most significant first, for x in [1, 2) in fixed point of `p` bits. -/
def logBits (p : Nat) : Nat → Nat → Nat → Nat
  | 0, _, acc => acc
  | n + 1, x, acc =>
    let y := x * x / 2 ^ p
    if 2 ^ (p + 1) ≤ y then logBits p n (y / 2) (2 * acc + 1) else logBits p n y (2 * acc)

/-- log2 a (R291): a power of two is exact; any other value is irrational. -/
def flog2 : FVal → FVal × Flags
  | .nan => (.nan, 0)
  | .inf n => if n then (.nan, flagNv) else (.inf false, 0)
  | .fin n m e =>
    if m = 0 then (.inf true, flagDz)
    else if n then (.nan, flagNv)
    else
      let ip : Int := e + bitLength m - 1
      if m = 2 ^ (bitLength m - 1) then (.fin (decide (ip < 0)) ip.natAbs 0, 0)
      else
        let t := ip * (2 ^ 160 : Nat) + (logBits 400 160 (m * 2 ^ (400 + 1 - bitLength m)) 0 : Nat)
        if t < 0 then (between true (t.natAbs - 1) (-160), 0) else (between false t.natAbs (-160), 0)

/-! ## Conversions (R34, R35) -/

/-- Float to integer: truncation toward zero, judged against `lo .. hi` (R34). -/
def floatToInt (lo hi : Int) : FVal → Int × Flags
  | .nan => (0, flagNv)
  | .inf n => (if n then lo else hi, flagNv)
  | .fin n m e =>
    let t : Nat := if 0 ≤ e then m * 2 ^ e.toNat else m / 2 ^ (-e).toNat
    let v : Int := if n then -(t : Int) else t
    if v < lo then (lo, flagNv) else if hi < v then (hi, flagNv)
    else (v, flagIf (decide (e < 0 ∧ m % 2 ^ (-e).toNat ≠ 0)) flagNx)

/-- An integer as an exact value. -/
def intVal (i : Int) : FVal := .fin (decide (i < 0)) i.natAbs 0

/-- One step of the generator of R35. -/
def srStep (s : Nat) : Nat := if s % 2 = 1 then (s / 2) ^^^ 0xB400 else s / 2

/-- `sr_bits(seed, lane)` (R35). -/
def srBits (seed lane : Nat) : Nat :=
  let s := (seed % 2 ^ 16) ^^^ ((lane + 1) * 0x9E37 % 2 ^ 16)
  Nat.repeat srStep 16 (if s = 0 then 0xACE1 else s)

/-- The stochastic conversion of R35. -/
def stochastic (f : FloatFormat) (sat : Bool) (draw : Nat) : FVal → Nat × Flags
  | .nan => (f.nan, 0)
  | .inf n => encodeFloat f sat (.inf n)
  | .fin n m e =>
    if m = 0 then (f.signBit n, 0)
    else
      -- the spacing of lo: the target's precision, and its lower bound
      let q : Int := max (e + bitLength m - (f.mb + 1)) (1 - (f.bias : Int) - f.mb)
      if q ≤ e then roundFinite f sat n m e
      else
        let d := (q - e).toNat
        let lo := m / 2 ^ d
        let r := m % 2 ^ d
        let up := decide (2 ^ 16 ≤ 2 ^ 16 * r / 2 ^ d + draw)
        let (b, fl) := roundFinite f sat n (if up then lo + 1 else lo) q
        let tiny := !f.flush && decide (q = 1 - (f.bias : Int) - f.mb ∧ (if up then lo + 1 else lo) < 2 ^ f.mb)
        (b, fl ||| flagIf (decide (r ≠ 0)) (flagNx ||| flagIf tiny flagUf))

/-! ## Sums in a fixed order (R38 to R40) -/

/-- One level of the pairwise tree. -/
def treeLevel {α : Type} (op : α → α → α × Flags) : List α → List α × Flags
  | a :: b :: t =>
    let (c, f) := op a b
    let (r, g) := treeLevel op t
    (c :: r, f ||| g)
  | l => (l, 0)

/-- The pairwise tree in ascending lane order (R38), with fuel for its levels. -/
def treeSum {α : Type} (op : α → α → α × Flags) : Nat → List α → List α × Flags
  | 0, l => (l, 0)
  | n + 1, l =>
    match l with
    | _ :: _ :: _ =>
      let (l', f) := treeLevel op l
      let (r, g) := treeSum op n l'
      (r, f ||| g)
    | _ => (l, 0)

/-- An addition rounded to FP32. -/
def addFp32 (a b : FVal) : FVal × Flags :=
  let (s, f) := fadd a b
  let (r, g) := roundTo fp32 s
  (r, f ||| g)

/-- The chain of one 16-value block down a column of cells (R39): c := round(c + p, FP32) over the products in order. -/
def chainFp32 : List (FVal × Flags) → FVal → FVal × Flags
  | [], c => (c, 0)
  | (p, fp) :: t, c =>
    let (c', f) := addFp32 c p
    let (r, g) := chainFp32 t c'
    (r, fp ||| f ||| g)

/-- Lists of `n`, in order. -/
def chunksOf {α : Type} (n : Nat) : Nat → List α → List (List α)
  | 0, _ => []
  | _ + 1, [] => []
  | fuel + 1, l => l.take n :: chunksOf n fuel (l.drop n)

/-- A vent's row sum (R40): chunks of 32 products, completed with +0, each by the tree, added to the running sum. -/
def ventSum (products : List (FVal × Flags)) : FVal × Flags :=
  (chunksOf 32 products.length products).foldl (fun (acc : FVal × Flags) ch =>
    let xs := ch.map Prod.fst ++ List.replicate (32 - ch.length) FVal.zero
    let fl := ch.foldl (fun g x => g ||| x.2) acc.2
    let (t, f) := treeSum addFp32 5 xs
    let (s, g) := addFp32 acc.1 (t.headD FVal.zero)
    (s, fl ||| f ||| g)) (FVal.zero, 0)

end Sys2Proof.Machine
end

