-- ==== Sys2Proof/Machine/Network.lean ====
section
/-!
DEFINITION. Messages: the channels and bridge FIFOs that an access crosses to its home and its answer back (R84 to R86,
R212), the interface counts that the quiesce probe sums (R205), the scopes (R91), and what releases and fences wait for
(R93, R95).
-/
namespace Sys2Proof.Machine

/-! ## Interfaces (R205) -/

/-- The interface of the bridge port of a caldera. -/
def bridgeIface (caldera : Nat) : Nat := 8192 + caldera

/-- A message of the partition enters the caldera network at an interface. -/
def State.enterNet (s : State) (p i : Nat) : State :=
  s.modPart p fun P =>
    let x := P.interfaces.getD i {}
    { P with interfaces := P.interfaces.put i { x with count := x.count + 1 } }

/-- A message of the partition leaves the caldera network at an interface, which turns black. -/
def State.leaveNet (s : State) (p i : Nat) : State :=
  s.modPart p fun P =>
    let x := P.interfaces.getD i {}
    { P with interfaces := P.interfaces.put i { count := x.count - 1, black := true } }

/-! ## Legs of a message (R86; log 89) -/

/-- The legs between two quads: one mesh, or mesh, bridge, mesh. -/
def legCount (a b : Nat) : Nat := if calderaOf a = calderaOf b then 1 else 3

/-- Where leg `n` starts and ends, by interface. -/
def legFrom (a b n : Nat) : Nat := if n = 0 then a else if n = 1 then bridgeIface (calderaOf a) else bridgeIface (calderaOf b)
def legTo (a b n : Nat) : Nat :=
  if legCount a b = 1 then b
  else if n = 0 then bridgeIface (calderaOf a) else if n = 1 then bridgeIface (calderaOf b) else b

/-- A message enters leg `n`; the bridge is no part of a caldera network. -/
def State.enterLeg (s : State) (p a b n : Nat) : State := if n = 1 then s else s.enterNet p (legFrom a b n)
def State.leaveLeg (s : State) (p a b n : Nat) : State := if n = 1 then s else s.leaveNet p (legTo a b n)

/-- The legs of a message that travels whole within a step (log 27): what enters leaves, and each receiving interface turns black. -/
def State.passLegs (s : State) (p a b : Nat) : State :=
  (List.range (legCount a b)).foldl (fun s n => (s.enterLeg p a b n).leaveLeg p a b n) s

/-- The channel or bridge FIFO that an access stands in: its class, where it starts and ends, and its place. -/
def Access.channel (x : Access) : Option ((Nat × Nat × Nat) × Nat) :=
  match x.stage with
  | .leg n q => some ((if n = 1 then 0 else 1, legFrom x.src x.dst n, legTo x.src x.dst n), q)
  | .ansLeg n q => some ((if n = 1 then 0 else 2, legFrom x.dst x.src n, legTo x.dst x.src n), q)
  | _ => none

/-- The channel or bridge FIFO that a migrating thread stands in. -/
def Traveller.channel (t : Traveller) : Option ((Nat × Nat × Nat) × Nat) :=
  t.leg.map fun l => ((if l.1 = 1 then 0 else 3, legFrom t.src t.dst l.1, legTo t.src t.dst l.1), l.2)

/-- The channel or bridge FIFO that a tile stands in on its way to the next place: of the class of the engines' writes (log 89). -/
def Hop.channel (h : Hop) : (Nat × Nat × Nat) × Nat :=
  ((if h.leg = 1 then 0 else 1, legFrom h.src h.dst h.leg, legTo h.src h.dst h.leg), h.seq)

/-- Whether a message of a channel with key `k'` and place `q'` stands before place `q` of the channel `k`. -/
def stands (k : Nat × Nat × Nat) (q : Nat) (c : Option ((Nat × Nat × Nat) × Nat)) : Bool :=
  match c with
  | some (k', q') => decide (k' = k ∧ q' < q)
  | none => false

/-- Whether the messages of two partitions can be in each other's way: a deterministic partition's travel in time-division slots of
their own (R16, R86). -/
def State.sharesNet (s : State) (p o : Nat) : Bool := decide (o = p) || !((s.part p).det || (s.part o).det)

/-- Whether a message is the one its channel may deliver: the first of a bridge FIFO always, the first of a channel of a
deterministic partition, any of a channel of a throughput partition (R86). -/
def State.firstOf (s : State) (part : Nat) (c : Option ((Nat × Nat × Nat) × Nat)) : Bool :=
  match c with
  | none => false
  | some (k, q) =>
    let counts (p : Nat) : Bool := s.sharesNet part p && (decide (k.1 = 0) || (s.part part).det)
    !(s.accesses.any fun y => counts y.2.part && stands k q y.2.channel) &&
      !(s.parts.any fun P => counts P.1 && (P.2.travellers.any (fun t => stands k q t.2.channel) ||
        P.2.quads.any fun Q => Q.2.tours.any fun t => stands k q (t.2.hop.map Hop.channel)))

def State.mayDeliver (s : State) (x : Access) : Bool := s.firstOf x.part x.channel

/-! ## Age (R213) -/

/-- The age of a message that entered the network in a cycle. -/
def messageAge (cycle entered : Nat) : Nat := min 4095 (cycle - entered)

/-- Whether the first of two messages, each by its age, its source thread and its class, goes before the second. -/
def goesBefore (a b : Nat × Nat × Nat) : Bool :=
  decide (b.1 < a.1 ∨ (a.1 = b.1 ∧ (a.2.1 < b.2.1 ∨ (a.2.1 = b.2.1 ∧ a.2.2 < b.2.2))))

/-! ## Issuing and answering -/

def State.setAccess (s : State) (id : Nat) (x : Access) : State := { s with accesses := s.accesses.put id x }
def State.dropAccess (s : State) (id : Nat) : State := { s with accesses := s.accesses.del id }

/-- The core's DRY (R253), which counts from the launch at the earliest. -/
def State.dryOf (s : State) (p core : Nat) : Nat := min (2 ^ 32 - 1) ((s.part p).cycle - max (s.core p core).dryFrom (s.part p).launchedAt)

/-- What a request carries as it is sent: an `rcast` the core's DRY (R254). -/
def State.sentKind (s : State) (x : Access) : AccKind :=
  match x.kind with
  | .rcast d new frm same _ old => .rcast d new frm same (s.dryOf x.part (coreOf x.tid)) old
  | k => k

/-- An access enters its first leg. -/
def State.launchAccess (s : State) (id : Nat) (x : Access) : State :=
  let q := s.nextSeq
  (({ s with nextSeq := q + 1 } : State).setAccess id
    { x with stage := .leg 0 q, kind := s.sentKind x, entered := (s.part x.part).cycle }).enterLeg x.part x.src x.dst 0

/-- The core and register that a deposit names, and the core whose port sends it. -/
def Access.deposits (x : Access) : Option (Nat × Nat × Nat) :=
  match x.kind with
  | .deposit target r _ _ =>
    some (target, r.val, match x.issuer with | .shadow c => c | _ => coreOf x.tid)
  | _ => none

/-- Whether an older deposit of the same port to the same register was refused and waits to be sent again (R224). -/
def State.behindRefused (s : State) (id : Nat) (x : Access) : Bool :=
  x.deposits.isSome && s.accesses.any fun y =>
    decide (y.1 < id ∧ y.2.part = x.part ∧ y.2.deposits = x.deposits) && (match y.2.stage with | .refusedAt _ => true | _ => false)

/-- Enter an access in the outstanding-access record under a number and hand it to the network; a release is held first (R93), and a
deposit behind a refused one (R224). -/
def State.sendAs (s : State) (id : Nat) (x : Access) : State :=
  let x := { x with bound := id }
  if x.rel.isSome || s.behindRefused id x then s.setAccess id { x with stage := .held } else s.launchAccess id x

/-- Send an access under the next number. -/
def State.sendAccess (s : State) (x : Access) : State := ({ s with nextAccess := s.nextAccess + 1 } : State).sendAs s.nextAccess x

/-- The home sends its answer back. -/
def State.sendAnswer (s : State) (id : Nat) (a : Answer) : State :=
  match s.accesses.find? id with
  | none => s
  | some x =>
    if x.spad then s.setAccess id { x with stage := .answered, answer := a }
    else
      let q := s.nextSeq
      (({ s with nextSeq := q + 1 } : State).setAccess id { x with stage := .ansLeg 0 q, answer := a }).enterLeg x.part x.dst x.src 0

/-! ## Scopes (R91) -/

/-- Whether a home quad lies inside a scope measured from a core. -/
def quadInScope (hops1 hops2 : Nat) (sc : Scope) (core q : Nat) : Bool :=
  let q0 := quadOfCore core
  match sc with
  | .cr => false
  | .qd => decide (q = q0)
  | .n1 => decide (calderaOf q = calderaOf q0 ∧ hopDistance q q0 ≤ hops1)
  | .n2 => decide (calderaOf q = calderaOf q0 ∧ hopDistance q q0 ≤ hops2)
  | .cd => decide (calderaOf q = calderaOf q0)
  | .md | .sy => true

/-- Whether the home of an access lies inside a scope measured from a core: a scratchpad word is a local home, and a
deposit's home is the target's port. A request to the window unit has no home. -/
def State.inScope (s : State) (sc : Scope) (core : Nat) (x : Access) : Bool :=
  if x.spad then true
  else match x.kind with
    | .deposit t _ _ _ =>
      decide (coreOf t = core) || quadInScope s.firmware.hops1 s.firmware.hops2 sc core (quadOfCore (coreOf t))
    | .window .. | .take .. => false
    | _ => quadInScope s.firmware.hops1 s.firmware.hops2 sc core x.dst

/-- The core that an issuer issues from. -/
def Access.issuerCore (x : Access) : Nat :=
  match x.issuer with
  | .shadow c => c
  | _ => coreOf x.tid

/-- Whether what a local home holds of an access of a thread, or of its shadow set, is of an issuer and numbered below a bound (R87,
R95). -/
def localOf (i : Issuer) (bound : Nat) (access : Option Nat) (tid : Nat) (shadow : Bool) : Bool :=
  (match access with | some n => decide (n < bound) | none => false) &&
    (match i with
     | .thread t => decide (tid = t) && !shadow
     | .shadow core => decide (coreOf tid = core) && shadow
     | _ => false)

/-- Whether an access of an issuer to a local home, numbered below a bound, is unanswered at a quad: its result is on its way, or it
is an `acrd`, `acwr` or `aclr` in a queue of the array (R87, R308). -/
def Quad.localsBefore (Q : Quad) (i : Issuer) (bound : Nat) : Bool :=
  Q.locals.any (fun l => localOf i bound l.access l.tid l.shadow) ||
    Q.results.any (fun l => localOf i bound l.access l.tid l.shadow) ||
    Q.matrix.any (fun l => localOf i bound l.access l.tid l.shadow) ||
    Q.cores.any fun c => c.2.dispatch.any fun l => localOf i bound l.access l.tid l.shadow

/-- The address and the length of a part of a fill: an offset in the image, or 1,024 + offset of a segment table's (R237). -/
def Fill.part (f : Fill) (o : Nat) : Nat × Nat :=
  if o < 1024 then (f.addr + o, if o = 256 then 32 else 64) else (f.segt.getD 0 + (o - 1024), 64)

/-- The number of the read of a part, which stands at its `start` in context zero's order (R88, R117). -/
def Fill.number (f : Fill) (o : Nat) : Nat := f.order + 1 + (if o < 1024 then o / 64 else 5 + (o - 1024) / 64)

/-- Whether a fill that an issuer, as context zero of its core, began before a bound has parts that wait for the pager (R117). Their
homes are not known yet, but that they are no local homes, which the scope `.cr` has alone (R91). -/
def State.fillWaits (s : State) (p : Nat) (i : Issuer) (bound : Nat) (sc : Option Scope) : Bool :=
  match i with
  | .thread tid => decide (sc ≠ some .cr ∧ ctxOf tid = 0) && (s.core p (coreOf tid)).ctxs.any fun c =>
      match c.2.fill with | some f => decide (f.order < bound) && !(f.todo ++ f.later).isEmpty | none => false
  | _ => false

/-- Whether some access of an issuer, numbered below a bound and inside a scope, is still outstanding: in the record, at a local
home, or as a part of a fill whose page, and so whose home, is not known yet. -/
def State.pendingBefore (s : State) (p : Nat) (i : Issuer) (core bound : Nat) (sc : Option Scope) : Bool :=
  (s.accesses.any fun y =>
    decide (y.1 < bound ∧ y.2.part = p ∧ y.2.issuer = i) &&
      (match sc with | none => true | some c => s.inScope c core y.2)) ||
    (s.quad p (quadOfCore core)).localsBefore i bound || s.fillWaits p i bound sc

/-- Whether an access reads for an engine or a walker, whose reads keep no order (R98). -/
def Access.engineRead (x : Access) : Bool :=
  match x.kind with
  | .load (.engine _ _) | .load .dropped => true
  | _ => false

/-- Whether an engine's command issued an access: its writes keep no order among themselves either (R98). -/
def Issuer.isEngine : Issuer → Bool
  | .copy .. | .tour .. | .vent .. | .fumarole _ => true
  | _ => false

/-- Whether a fumarole issued an access: its program stays with its link, wherever its issuer's partition goes. -/
def Issuer.isFumarole : Issuer → Bool
  | .fumarole _ => true
  | _ => false

/-- Whether an access is to a line of its home: no deposit, no write-back request, and none to the window unit. -/
def AccKind.toLine : AccKind → Bool
  | .deposit .. | .writeback | .window .. | .take .. => false
  | _ => true

/-- Whether two accesses are of one issuer, which is no engine, and to one line, so that they are applied in their order (R88). -/
def Access.sameLine (x y : Access) : Bool :=
  decide (x.part = y.part ∧ x.issuer = y.issuer ∧ x.spad = y.spad ∧ x.pa / 64 = y.pa / 64) && !x.issuer.isEngine &&
    !x.engineRead && !y.engineRead && x.kind.toLine && y.kind.toLine

/-- Whether an access has not yet been applied. -/
def Access.unapplied (x : Access) : Bool :=
  match x.stage with
  | .held => true
  | .leg _ _ => true
  | .home => true
  | .queued _ => true
  | _ => false

/-- Whether an earlier access of the same issuer to the same line is not yet applied (R88). -/
def State.earlierOnLine (s : State) (id : Nat) (x : Access) : Bool :=
  s.accesses.any fun y => decide (y.1 < id) && y.2.unapplied && x.sameLine y.2

/-- Whether a held access may enter the network: a release once the earlier accesses in its scope are answered (R93), a deposit
once no older one is to be sent again before it (R224). -/
def State.mayLaunch (s : State) (id : Nat) (x : Access) : Bool :=
  match x.rel with
  | some sc => !s.pendingBefore x.part x.issuer x.issuerCore x.bound (some sc)
  | none => !s.behindRefused id x

/-- An access reaches its home. A `red` leaves the network only when the home takes it (R100, R231). -/
def State.reachHome (s : State) (id : Nat) (x : Access) (n : Nat) : State :=
  let s := match x.kind with
    | .red .. => s
    | _ => s.leaveLeg x.part x.src x.dst n
  s.setAccess id { x with stage := .home, reached := s.clock }

/-! ## Reads of engines and walkers (R84, R85, R147) -/

/-- What a read of an engine or a walker, for a piece of its work, has brought from an address. -/
def State.fetchedAt (s : State) (p : Nat) (i : Issuer) (tag va : Nat) : Option Fetched :=
  (s.part p).fetched.find? fun f => decide (f.issuer = i ∧ f.tag = tag ∧ f.va = va)

/-- Whether an access is such a read. -/
def Access.fetches (x : Access) (p : Nat) (i : Issuer) (tag va : Nat) : Bool :=
  decide (x.part = p ∧ x.issuer = i ∧ x.va = va) && (match x.kind with | .load (.engine t _) => decide (t = tag) | _ => false)

/-- Whether such a read is under way. -/
def State.fetching (s : State) (p : Nat) (i : Issuer) (tag va : Nat) : Bool := s.accesses.any fun x => x.2.fetches p i tag va

/-- What a read has brought is kept until it is used. -/
def State.addFetched (s : State) (p : Nat) (f : Fetched) : State := s.modPart p fun P => { P with fetched := P.fetched ++ [f] }

/-- A piece of an engine's work has been done: what was read for it is used. -/
def State.useFetched (s : State) (p : Nat) (i : Issuer) (tag : Nat) : State :=
  s.modPart p fun P => { P with fetched := P.fetched.filter fun f => !decide (f.issuer = i ∧ f.tag = tag) }

/-- An engine's command, a walk, or what else reads, has ended: its reads bring nothing to anyone. -/
def State.dropFetches (s : State) (p : Nat) (i : Issuer) : State :=
  let s := { s with accesses := s.accesses.mapVal fun _ x =>
    if x.engineRead && decide (x.part = p ∧ x.issuer = i) then { x with kind := .load .dropped } else x }
  s.modPart p fun P => { P with fetched := P.fetched.filter fun f => decide (f.issuer ≠ i) }

/-- Walks end before their result, or with it taken: their reads bring nothing to anyone. -/
def State.removeWalks (s : State) (which : Walk → Bool) : State :=
  let s := (s.walks.filter fun w => which w && w.result.isNone).foldl (fun s w => s.dropFetches w.part (.walk w.id)) s
  { s with walks := s.walks.filter fun w => !which w }

/-- An engine's command, or what else reads and writes for itself, has ended: its reads and its walks with it. -/
def State.endReads (s : State) (p : Nat) (i : Issuer) : State :=
  (s.dropFetches p i).removeWalks fun w => decide (w.part = p ∧ w.engine = some i)

/-- Send the read of bytes of one line, by an engine or a walker of a quad. -/
def State.sendFetch (s : State) (i : Issuer) (p q tid tag asid va pa n : Nat) (leaving : Bool) : State :=
  s.sendAccess
    { part := p, issuer := i, tid := tid, order := (s.nextAccess, 0), kind := .load (.engine tag leaving), pa := pa, size := n,
      asid := asid, va := va, src := q, dst := homeOf pa, stage := .home, issuedAt := (s.part p).cycle }

/-- One message step (R85, R86): a held release that may go enters the network; a message leaves its leg and enters the
next, reaches its home, or reaches its issuer. Disabled when the message may not move. -/
def State.moveMessage (s : State) (id : Nat) : State :=
  match s.accesses.find? id with
  | none => s
  | some x =>
    match x.stage with
    | .held =>
      if s.mayLaunch id x then s.launchAccess id x else s
    | .leg n _ =>
      if s.mayDeliver x then
        if n + 1 < legCount x.src x.dst then
          let s := s.leaveLeg x.part x.src x.dst n
          let q := s.nextSeq
          (({ s with nextSeq := q + 1 } : State).setAccess id { x with stage := .leg (n + 1) q }).enterLeg x.part x.src x.dst (n + 1)
        else s.reachHome id x n
      else s
    | .ansLeg n _ =>
      if s.mayDeliver x then
        let s := s.leaveLeg x.part x.dst x.src n
        if n + 1 < legCount x.dst x.src then
          let q := s.nextSeq
          (({ s with nextSeq := q + 1 } : State).setAccess id { x with stage := .ansLeg (n + 1) q }).enterLeg x.part x.dst x.src (n + 1)
        else s.setAccess id { x with stage := .answered }
      else s
    | _ => s

end Sys2Proof.Machine
end

