-- ==== Sys2Proof/Machine/Home.lean ====
section
/-!
DEFINITION. What a home does: applying writes to lines with poison (R161), bank copies (R97), block marks (R376), stale
fetch words (R66), watches (R101), plain-store conflicts (R396); atomic operations (R192); held reductions and epochs
(R100); determinism records (R395); and the rings in device memory that the hub writes (R155, R372, R374).
-/
namespace Sys2Proof.Machine

/-! ## Determinism records (R395) -/

/-- Record an event in a deterministic partition: its code and the program counter. -/
def State.recordDet (s : State) (p code : Nat) (pc : BitVec 50) : State :=
  if !(s.part p).det then s
  else s.modPart p fun P =>
    let n := P.dcause.toNat % 2 ^ 32
    let d := (P.dcause ||| BitVec.ofNat 64 (2 ^ (48 + code))) &&& (BitVec.ofNat 64 (2 ^ 64 - 2 ^ 32))
    let r := P.dcrecs.getD code {}
    { P with
      dcause := d ||| BitVec.ofNat 64 (if n = 2 ^ 32 - 1 then n else n + 1)
      dcrecs := P.dcrecs.put code
        { code := BitVec.ofNat 4 code
          pc := if r.count = 0 then pc.setWidth 52 <<< 2 else r.pc
          count := if r.count = BitVec.allOnes 32 then r.count else r.count + 1 } }

/-- Record a plain-store conflict at a line (R396). -/
def State.recordConflict (s : State) (p line : Nat) (pc : BitVec 50) : State :=
  (s.recordDet p 9 pc).modPart p fun P =>
    let c := P.conflict.toNat / 2 ^ 52
    let first := if c = 0 then line * 64 else P.conflict.toNat % 2 ^ 52
    { P with conflict := BitVec.ofNat 64 ((if c = 4095 then c else c + 1) * 2 ^ 52 + first) }

/-! ## Lines -/

/-- Mark the block of a write that is applied to a tracked virtual function's range (R376). -/
def State.markBlock (s : State) (pa : Nat) : State :=
  let b := pa / blockBytes
  { s with funcs := s.funcs.mapVal fun f x =>
      if x.track && decide (f ≠ 0 ∧ x.pblo.toNat ≤ b ∧ b ≤ x.pbhi.toNat) then { x with marks := NSet.add x.marks b } else x }

/-! ## End-to-end checks (R21, R393; log 88) -/

/-- One byte of CRC-16 with polynomial 0x8BB7. -/
def crcByte (c : BitVec 16) (b : Byte) : BitVec 16 :=
  let step (c : BitVec 16) : BitVec 16 := if c.msb then (c <<< 1) ^^^ 0x8BB7 else c <<< 1
  step (step (step (step (step (step (step (step (c ^^^ (b.setWidth 16 <<< 8)))))))))

/-- The end-to-end check of a block: its bytes in ascending order, from 0. -/
def crc16 (bytes : List Byte) : BitVec 16 := bytes.foldl crcByte 0

/-- The check that a line carries, brought up to date with a write of part of it; a write of the whole line ends it. -/
def State.keepCheck (s : State) (l n : Nat) : State :=
  match s.checks.find? l with
  | none => s
  | some _ => { s with checks := if n = 64 then s.checks.del l else s.checks.put l (crc16 (s.readMem (l * 64) 64)) }

/-- Lines of the slice caches that satisfy a test are written back, which marks their blocks (R376), and are clean (R97). -/
def State.cleanLines (s : State) (which : Nat → Bool) : State :=
  let s := s.bank.foldl (fun s x => if which x.1 then s.markBlock (x.1 * 64) else s) s
  { s with bank := s.bank.keep fun l _ => !which l }

/-- The function that owns a physical block. -/
def State.ownerOf (s : State) (b : Nat) : Nat :=
  match s.funcs.first? fun f x => decide (f ≠ 0) && x.en && decide (x.pblo.toNat ≤ b ∧ b ≤ x.pbhi.toNat) with
  | some x => x.1
  | none => 0

/-- The function that owns a line. -/
def State.lineOwner (s : State) (l : Nat) : Nat := s.ownerOf (l * 64 / blockBytes)

/-- A line of a deterministic partition, whose vents alone can tell when it is written back: of that they see a free value, whatever other
partitions, a scrub or the slice do, so that its results do not depend on them (R16, R96; log 150). -/
def State.detLine (s : State) (l : Nat) : Bool := (s.part (s.lineOwner l)).det

/-- The lines that may leave a full slice cache for a line of function `f`, of the dirty ones `here`: not those of another deterministic
partition, and those of a deterministic `f` itself only when there are no others (R16; log 148). -/
def State.evictable (s : State) (f : Nat) (here : List Nat) : List Nat :=
  let free := here.filter fun l => decide (s.lineOwner l = f) || !s.detLine l
  let others := free.filter fun l => decide (s.lineOwner l ≠ f)
  if (s.part f).det && !others.isEmpty then others else if free.isEmpty then here else free

/-- A slice cache of 256 KiB holds 4,096 lines (R9): before another line of its vault turns dirty in a full one, a dirty line is written
back, whichever (R97; log 148). -/
def State.makeRoom (s : State) (l : Nat) : State :=
  let here := (s.bank.filter fun x => decide (homeOf (x.1 * 64) = homeOf (l * 64))).map Prod.fst
  if here.length < 4096 then s
  else
    let f := s.lineOwner l
    let out := s.evictable f here
    let (s, k) := if out.all fun x => decide (s.lineOwner x = f) then s.chooseFor f out.length else s.choose out.length
    s.cleanLines fun x => decide (out[k]? = some x)

/-- Put bytes into a line: memory, the bank copy of a line that turns dirty (R97), and the check that it carries. -/
def State.putBytes (s : State) (pa : Nat) (bytes : List Byte) : State :=
  let l := pa / 64
  let s := match s.bank.find? l with
    | some _ => s
    | none => let s := s.makeRoom l; { s with bank := s.bank.put l (s.readMem (l * 64) 64) }
  (({ s with mem := Memory.writeList s.mem pa bytes } : State).keepCheck l bytes.length).markBlock pa

def State.isPoisoned (s : State) (pa : Nat) : Bool := s.poison.contains (pa / 64)

/-- Answer the watches on a line whose word a write has left different (R101, R196). -/
def State.answerWatches (s : State) (pa : Nat) : State :=
  s.accesses.foldl (fun s y =>
    match y.2.stage, y.2.kind with
    | .watch _, .waitw w e _ =>
      if !y.2.spad && decide (y.2.pa / 64 = pa / 64) then
        let v := natOfBytes (s.readMem y.2.pa y.2.size)
        if v ≠ e.toNat % 2 ^ w.bits then s.sendAnswer y.1 (.status (BitVec.ofNat 64 v) 0) else s
      else s
    | _, _ => s) s

/-- Apply a write to part of one line at its home (R161): a partial write to a poisoned line is discarded, a whole-line
write clears the poison. -/
def State.storeLine (s : State) (pa : Nat) (bytes : List Byte) : State :=
  if s.isPoisoned pa && decide (bytes.length < 64) then s
  else
    let s := if bytes.length = 64 then { s with poison := NSet.del s.poison (pa / 64) } else s
    (s.putBytes pa bytes).answerWatches pa

/-- Apply a write by the hub or the host, of any length: whole and partial lines in ascending order. -/
def storeBytes : Nat → State → Nat → List Byte → State
  | 0, s, _, _ => s
  | fuel + 1, s, pa, bytes =>
    if bytes.isEmpty then s
    else
      let n := 64 - pa % 64
      storeBytes fuel (s.storeLine pa (bytes.take n)) (pa + n) (bytes.drop n)

def State.hubWrite (s : State) (pa : Nat) (bytes : List Byte) : State := storeBytes (bytes.length + 1) s pa bytes

/-- A line is poisoned (R161, R183): the bytes are of no account. -/
def State.poisonLine (s : State) (pa : Nat) : State := { s with poison := NSet.add s.poison (pa / 64) }

/-- An engine writes a line as poisoned (R161, R376). -/
def State.writePoison (s : State) (pa : Nat) : State :=
  (({ s with checks := s.checks.del (pa / 64) } : State).poisonLine pa).markBlock pa

/-- The 4-byte words that a write touches turn stale for fetches until the storing thread's fence (R66). -/
def State.staleWords (s : State) (p uid pa n : Nat) (plain : Bool) (pc : BitVec 50) : State :=
  (List.range ((pa + n + 3) / 4 - pa / 4)).foldl (fun s i =>
    let a := (pa / 4 + i) * 4
    let old := BitVec.ofNat 32 (natOfBytes (s.readMem a 4))
    { s with stale := s.stale.put a ({ old := old, part := p, uid := uid, pc := pc, plain := plain } :: s.stale.getD a []) }) s

/-- A store after a fence of scope S by a thread on a core, if the store is that thread's. -/
def StaleStore.fence (p uid core : Nat) (sc : Scope) (w : StaleStore) : StaleStore :=
  if w.part = p ∧ w.uid = uid then { w with fences := (core, sc) :: w.fences } else w

/-- Whether a fence has made a store visible to every fetch. -/
def StaleStore.visible (w : StaleStore) : Bool := w.fences.any fun f => decide (Scope.code .md ≤ f.2.code)

/-- A fence of scope S by a thread on a core (R66): its stores are fenced, and once one is visible to every fetch, no value from
before it is seen any more. A store that is applied after such a fence, which did not wait for it because its home lies outside S
(R95), is not fenced by it: R66 leaves that open (log 106). -/
def State.fenceStale (s : State) (p uid core : Nat) (sc : Scope) : State :=
  let stale := s.stale.mapVal fun _ w => (w.map (StaleStore.fence p uid core sc)).takeWhile fun x => !x.visible
  { s with stale := stale.keep fun _ w => !w.isEmpty }

/-! ## Plain-store conflicts (R396) -/

/-- In a deterministic partition, note a write of a thread to a line: `plain` is a plain store, which may be recorded as
a conflict; `counted` is a write that is no release. -/
def State.noteWrite (s : State) (p uid pa : Nat) (plain counted : Bool) (pc : BitVec 50) : State :=
  if !(s.part p).det then s
  else
    let l := pa / 64
    let others := (s.part p).writers.any fun w => decide (w.1 = l ∧ w.2 ≠ uid)
    let s := if plain && others then s.recordConflict p l pc else s
    if counted && !(s.part p).writers.contains (l, uid) then
      s.modPart p fun P => { P with writers := (l, uid) :: P.writers }
    else s

/-! ## Atomic operations (R192) -/

/-- op(old, b) at a width, as numbers below 2^width. -/
def atomicOp (op : AmoOp) (w old b : Nat) : Nat :=
  match op with
  | .add => (old + b) % 2 ^ w
  | .and => old &&& b
  | .or => old ||| b
  | .xor => old ^^^ b
  | .min => if signedOf w b < signedOf w old then b else old
  | .max => if signedOf w old < signedOf w b then b else old
  | .minu => if b < old then b else old
  | .maxu => if old < b then b else old
  | .swap => b
  | .fadd => (encodeFloat fp32 false (addFp32 (decodeFloat fp32 false old) (decodeFloat fp32 false b)).1).1

/-! ## Reductions (R100, R231) -/

/-- Whether a partition holds reductions against a line. -/
def State.heldOnLine (s : State) (p pa : Nat) : Bool :=
  (s.home (homeOf pa)).held.any fun h => decide (h.part = p ∧ h.pa / 64 = pa / 64)

/-- Apply one reduction to its word; a poisoned line discards it. -/
def State.applyRed (s : State) (pa : Nat) (op : AmoOp) (w : Width) (b : Word64) : State :=
  if s.isPoisoned pa then s
  else
    let n := w.bits / 8
    let old := natOfBytes (s.readMem pa n)
    s.storeLine pa (bytesOfNat n (atomicOp op w.bits old (b.toNat % 2 ^ w.bits)))

/-- The order in which a closing epoch applies held reductions: by source thread, then in issue order (R100). -/
def HeldRed.before (x y : HeldRed) : Bool :=
  decide (x.src < y.src ∨ (x.src = y.src ∧ (x.order.1 < y.order.1 ∨ (x.order.1 = y.order.1 ∧ x.order.2 ≤ y.order.2))))

/-- Insertion into that order. -/
def insertHeld (x : HeldRed) : List HeldRed → List HeldRed
  | [] => [x]
  | y :: t => if x.before y then x :: y :: t else y :: insertHeld x t

def sortHeld : List HeldRed → List HeldRed
  | [] => []
  | x :: t => insertHeld x (sortHeld t)

/-- Apply, in that order, the held reductions of a home that satisfy a test, and hold them no longer. -/
def State.releaseHeld (s : State) (q : Nat) (which : HeldRed → Bool) : State :=
  let go := sortHeld ((s.home q).held.filter which)
  let s := s.modHome q fun h => { h with held := h.held.filter fun x => !which x }
  go.foldl (fun s x => (s.staleWords x.part x.uid x.pa (x.w.bits / 8) false (BitVec.ofNat 50 x.pc)).applyRed x.pa x.op x.w x.b) s

/-- Close the epoch of every home slice of a caldera for a partition (R100, R203), and forget its line writers there
(R396). -/
def State.closeEpoch (s : State) (p k : Nat) : State :=
  let s := s.homes.foldl (fun s h =>
    if calderaOf h.1 = k then s.releaseHeld h.1 fun x => decide (x.part = p) else s) s
  s.modPart p fun P => { P with writers := P.writers.filter fun w => decide (calderaOf (homeOf (w.1 * 64)) ≠ k) }

/-! ## Rings (R372) -/

/-- Base and size of a ring register; a ring register that is not set names no ring. -/
def ringOf (r : Word64) : Option (Nat × Nat) :=
  let n := r.toNat % 32
  if 4 ≤ n ∧ n ≤ 16 then some (bitsOf r.toNat 51 12 * 4096, n) else none

/-- PROD and CONS of a ring. -/
def State.ringProd (s : State) (base : Nat) : Nat := natOfBytes (s.readMem base 8)
def State.ringCons (s : State) (base : Nat) : Nat := natOfBytes (s.readMem (base + 8) 8)

/-- The hub, as producer, writes one entry and then PROD; none when the ring is full or there is none. -/
def State.ringPush (s : State) (r : Word64) (entry : Nat) : Option State :=
  match ringOf r with
  | none => none
  | some (base, n) =>
    let prod := s.ringProd base
    if 2 ^ n ≤ prod - s.ringCons base then none
    else
      let s := s.hubWrite (base + 64 + (prod % 2 ^ n) * 16) (bytesOfNat 16 entry)
      some (s.hubWrite base (bytesOfNat 8 (prod + 1)))

/-- Post an event to a function's event queue (R374); a full queue counts it at the header. -/
def State.postEvent (s : State) (f kind tid detail : Nat) : State :=
  let r := (s.func f).eventq
  match s.ringPush r (kind * 2 ^ 120 + tid * 2 ^ 101 + detail) with
  | some s => s
  | none =>
    match ringOf r with
    | none => s
    | some (base, _) =>
      let n := natOfBytes (s.readMem (base + 24) 4)
      s.hubWrite (base + 24) (bytesOfNat 4 (if n = 2 ^ 32 - 1 then n else n + 1))

/-! ## Blocks from outside (R21, R161, R393) -/

/-- A line is poisoned by an error that the driver of its function is told of (R161, R374). -/
def State.poisonTold (s : State) (pa : Nat) : State :=
  let pa := pa / 64 * 64
  (s.poisonLine pa).postEvent (s.ownerOf (pa / blockBytes)) 2 0 pa

/-- A block, or a part of one, that entered from the host or from Ethernet is written to its home: with a check that does not
match its bytes the line is poisoned. -/
def State.enterBlock (s : State) (pa : Nat) (bytes : List Byte) (intact : Bool) : State :=
  if !intact then (s.markBlock pa).poisonTold pa
  else if s.isPoisoned pa && decide (bytes.length < 64) then s
  else
    let s := s.storeLine pa bytes
    let l := pa / 64
    { s with checks := s.checks.put l (crc16 (s.readMem (l * 64) 64)) }

/-- The check of a block as it leaves: a line whose bytes do not match the check that it carries is poisoned. -/
def State.leaveBlock (s : State) (pa : Nat) : State :=
  let l := pa / 64
  match s.checks.find? l with
  | none => s
  | some c => if c = crc16 (s.readMem (l * 64) 64) then s else s.poisonTold pa

/-! ## Faults (R155, R156) -/

/-- A fault record's 128 bits. -/
def FaultRecord.bits (r : FaultRecord) : Nat :=
  r.kind * 2 ^ 83 + r.acc * 2 ^ 80 + r.thread * 2 ^ 61 + r.asid % 512 * 2 ^ 52 + r.va % 2 ^ 52

/-- The page size of a region attribute entry's PS. -/
def pageBytes (ps : Nat) : Nat := if ps = 0 then 2 ^ 16 else if ps = 1 then 2 ^ 21 else 2 ^ 30

/-- The page size that an address space gives an address. -/
def State.pageSize (s : State) (asid va : Nat) : Nat := pageBytes (bitsOf (s.raf.getD (asid * 16 + va / 2 ^ 48) 0).toNat 62 61)

/-- Whether two addresses of an address space lie on one page: in one region, and in one page of the size that it has now. -/
def State.samePage (s : State) (asid va vb : Nat) : Bool :=
  decide (va / 2 ^ 48 = vb / 2 ^ 48 ∧ va / s.pageSize asid va = vb / s.pageSize asid va)

/-- Whether a page with faults outstanding holds an address of an address space. -/
def State.faultOn (s : State) (asid va : Nat) (e : FaultEntry) : Bool := decide (e.asid = asid) && s.samePage asid va e.va

/-- Send the fault records that wait, in order, while the pager queue has room (R156). -/
def drainFaults : Nat → State → Nat → State
  | 0, s, _ => s
  | fuel + 1, s, f =>
    match (s.func f).pendingFaults with
    | [] => s
    | r :: t =>
      match s.ringPush (s.func f).faultq r.bits with
      | none => s
      | some s => drainFaults fuel (s.modFunc f fun x => { x with pendingFaults := t }) f

/-- Put a fault in a caldera's table and its record on its way to the pager queue; a page that the table already holds
sends no new record, and a full table makes the fault wait (R156). -/
def State.tableFault (s : State) (p k : Nat) (r : FaultRecord) : State :=
  let c := s.caldera k
  if c.faults.any (s.faultOn r.asid r.va) then s
  else if 1024 ≤ c.faults.length then s.modCaldera k fun c => { c with faultWait := c.faultWait ++ [(p, r)] }
  else
    let s := s.modCaldera k fun c => { c with faults := c.faults ++ [{ asid := r.asid, va := r.va, part := p }] }
    let s := s.modFunc p fun x => { x with pendingFaults := x.pendingFaults ++ [r] }
    drainFaults 64 s p

/-- Enter a page fault (R155): none is reported twice. -/
def State.enterFault (s : State) (p k : Nat) (r : FaultRecord) : State :=
  if (s.caldera k).faultWait.any fun e => decide (e.2.asid = r.asid) && s.samePage r.asid r.va e.2.va then s
  else s.tableFault p k r

end Sys2Proof.Machine
end

