-- ==== Sys2Proof/Machine/Translate.lean ====
section
/-!
DEFINITION. Translation: tenants (R151), the region attribute file and the table walk (R146 to R150), the translation
cache with its access counters (R152, R163, R164), and bank layouts (R324, R325).
-/
namespace Sys2Proof.Machine

/-- Physical blocks of the module (R145). -/
def blockCount : Nat := memBytes / blockBytes

/-! ## Tenants (R151) -/

/-- Whether every block from `lo` to `hi` belongs to a function: inside the function's own range, or for the physical
function outside every enabled virtual function's range. -/
def State.ownsBlocks (s : State) (f lo hi : Nat) : Bool :=
  decide (hi < blockCount) &&
    (if f = 0 then s.funcs.all fun v =>
        v.1 == 0 || !v.2.en || decide (hi < v.2.pblo.toNat ∨ v.2.pbhi.toNat < lo)
     else (s.func f).en && decide ((s.func f).pblo.toNat ≤ lo ∧ hi ≤ (s.func f).pbhi.toNat))

/-- The tenant check: owned and not retired. -/
def State.tenantOk (s : State) (f lo hi : Nat) : Bool :=
  s.ownsBlocks f lo hi && !(s.retired.any fun b => decide (lo ≤ b ∧ b ≤ hi))

/-! ## The walk (R146 to R150) -/

/-- How a walk ends: a translation, or a failure. -/
inductive WalkEnd
  | found (e : TlbEntry)
  | failed (f : WalkFail)
  deriving DecidableEq, Repr

/-- The tables of a page size: the bits of the top index, those of a middle level, and those of the leaf (R147). -/
def topIndex (ps va : Nat) : Nat :=
  if ps = 0 then bitsOf va 47 42 else if ps = 1 then bitsOf va 47 34 else bitsOf va 47 43
def leafIndex (ps va : Nat) : Nat :=
  if ps = 0 then bitsOf va 28 16 else if ps = 1 then bitsOf va 33 21 else bitsOf va 42 30
/-- Bytes of the top table. -/
def topBytes (ps : Nat) : Nat := if ps = 0 then 512 else if ps = 1 then 2 ^ 17 else 256

/-- What reading a pointer entry gives: the next table's address, or a failure. -/
inductive PointerEnd
  | table (addr : Nat)
  | failed (f : WalkFail)
  deriving DecidableEq, Repr

/-- What a table entry gives a function: the tenant check comes before the read; a poisoned table line reads as a malformed
entry (log 18). -/
def State.entryAt (s : State) (f addr : Nat) : Except WalkFail Nat :=
  if !s.tenantOk f (addr / blockBytes) (addr / blockBytes) then .error .refused
  else if s.isPoisoned addr then .error (.fault 2)
  else .ok (natOfBytes (s.readMem addr 8))

/-- A walk reads a table entry at its home, as a load (R85, R147): the read is sent, and the entry is known once it has been
answered. The tenant check comes before anything is sent (R151). -/
def State.readEntry (s : State) (w : Walk) (addr : Nat) : State × Except WalkFail Nat :=
  match s.fetchedAt w.part (.walk w.id) addr w.va with
  | some x => (s, if x.poison.isSome then .error (.fault 2) else .ok (natOfBytes x.bytes))
  | none =>
    if s.fetching w.part (.walk w.id) addr w.va then (s, .error .held)
    else if !s.tenantOk w.part (addr / blockBytes) (addr / blockBytes) then (s, .error .refused)
    else (s.sendFetch (.walk w.id) w.part w.quad w.tid addr w.asid w.va addr 8 false, .error .held)

/-- A pointer entry (R148, R149). -/
def State.readPointer (s : State) (w : Walk) (addr : Nat) : State × PointerEnd :=
  match s.readEntry w addr with
  | (s, .error e) => (s, .failed e)
  | (s, .ok v) => (s,
    if v % 2 = 0 then .failed (.fault 0)
    else if bitsOf v 63 39 ≠ 0 ∨ bitsOf v 15 1 ≠ 0 then .failed (.fault 2)
    else .table (bitsOf v 38 16 * blockBytes))

/-- Blocks of a page. -/
def pageBlocks (ps : Nat) : Nat := pageBytes ps / blockBytes

/-- The run of a leaf at an index, which ends at the last entry of its table (R150). -/
def leafRun (v i : Nat) : Nat := min (bitsOf v 58 53) (8191 - i)

/-- Whether a valid leaf breaks R149. -/
def leafMalformed (ps v i : Nat) : Bool :=
  decide (bitsOf v 52 39 ≠ 0 ∨ bitsOf v 15 2 ≠ 0 ∨ bitsOf v 1 1 = 0 ∨ bitsOf v 38 16 % pageBlocks ps ≠ 0 ∨
    blockCount < bitsOf v 38 16 + (leafRun v i + 1) * pageBlocks ps)

/-- The translation that leaf `v` at index `i` of a table gives (R148 to R151). -/
def State.leafEnd (s : State) (f asid ps v i vpage0 : Nat) : WalkEnd :=
  if v % 2 = 0 then .failed (.fault 0)
  else if leafMalformed ps v i then .failed (.fault 2)
  else
    let lo := bitsOf v 38 16
    if !s.tenantOk f lo (lo + (leafRun v i + 1) * pageBlocks ps - 1) then .failed .refused
    else if bitsOf v 63 63 = 1 then .failed .poison
    else .found { asid := asid, vpage := vpage0, ps := ps, pages := leafRun v i + 1, pbn := lo,
                  bl := decide (bitsOf v 61 61 = 1), pin := decide (bitsOf v 62 62 = 1),
                  cnt := decide (bitsOf v 60 60 = 1), mq := decide (bitsOf v 59 59 = 1) }

/-- Whether two endings of a walk agree on a virtual page: the same block and attributes, or the same failure (R150). -/
def WalkEnd.agrees (vpage : Nat) : WalkEnd → WalkEnd → Bool
  | .found e, .found x =>
    decide (e.pbn + (vpage - e.vpage) * pageBlocks e.ps = x.pbn + (vpage - x.vpage) * pageBlocks x.ps ∧ e.bl = x.bl ∧
      e.pin = x.pin ∧ e.cnt = x.cnt ∧ e.mq = x.mq)
  | .failed f, .failed g => decide (f = g)
  | _, _ => false

/-- The endings by earlier leaves of the table whose runs reach the page (R150), a malformed leaf's among them: distance `d` from 63 down. -/
def State.runEnds (s : State) (f asid ps table i vpage : Nat) : Nat → List WalkEnd
  | 0 => []
  | d + 1 =>
    let rest := s.runEnds f asid ps table i vpage d
    if i < d + 1 then rest
    else match s.entryAt f (table + 8 * (i - (d + 1))) with
      | .error _ => rest
      | .ok v =>
        if v % 4 = 3 ∧ d + 1 ≤ leafRun v (i - (d + 1)) then
          s.leafEnd f asid ps v (i - (d + 1)) (vpage - (d + 1)) :: rest
        else rest

/-- The leaves, by their endings, that a page may be translated by (R150): its own, and the earlier ones that disagree with it. -/
def State.leavesOf (s : State) (f asid ps table i vpage : Nat) (own : WalkEnd) : List WalkEnd :=
  own :: (s.runEnds f asid ps table i vpage 63).filter fun e => !own.agrees vpage e

/-- The leaf that the accesses of a deterministic partition to a page use at a quad's port: the same on every run, whoever walks
(R150; log 85). -/
def State.detLeaf (s : State) (q f asid ps table i vpage : Nat) (own : WalkEnd) : WalkEnd :=
  let l := s.leavesOf f asid ps table i vpage own
  l.getD (Config.detLeaf q asid (vpage * pageBytes ps) % l.length) own

/-- The same for the page at index `j` of the table, whose own leaf is read there. -/
def State.detLeafAt (s : State) (q f asid ps table vpage0 j : Nat) : WalkEnd :=
  s.detLeaf q f asid ps table j (vpage0 + j) (match s.entryAt f (table + 8 * j) with
    | .error e => .failed e
    | .ok v => s.leafEnd f asid ps v j (vpage0 + j))

/-- How many of `n` successive pages, from index `i` on, or down from it, agree with an ending. -/
def agreeing (at_ : Nat → WalkEnd) (e : WalkEnd) (vpage0 : Nat) (down : Bool) : Nat → Nat → Nat
  | 0, _ => 0
  | n + 1, i => if e.agrees (vpage0 + i) (at_ i) then 1 + agreeing at_ e vpage0 down n (if down then i - 1 else i + 1) else 0

/-- Of a run, what holds page `i` of the table, whose first page is `vpage0`, and in which every page has this same leaf for the
accesses of the deterministic partition: what a cached run translates is then what a walk of its own would find (R150; log 85). -/
def State.detRun (s : State) (q f asid ps table vpage0 i : Nat) : WalkEnd → WalkEnd
  | .failed x => .failed x
  | .found e =>
    let at_ := s.detLeafAt q f asid ps table vpage0
    let before := vpage0 + i - e.vpage
    let down := agreeing at_ (.found e) vpage0 true before (i - 1)
    let up := agreeing at_ (.found e) vpage0 false (e.pages - before - 1) (i + 1)
    .found { e with vpage := vpage0 + i - down, pages := down + 1 + up, pbn := e.pbn + (before - down) * pageBlocks ps }

/-! ## The walkers (R152) -/

/-- How many walks the walker of a caldera has in flight. -/
def State.walksAt (s : State) (k : Nat) : Nat :=
  s.walks.countP fun w => w.result.isNone && !w.waiting && decide (calderaOf w.quad = k)

/-- Whether a miss is the first that waits at the ports of its caldera (log 131). -/
def State.firstMiss (s : State) (w : Walk) : Bool :=
  !s.walks.any fun y => y.waiting && decide (calderaOf y.quad = calderaOf w.quad ∧ y.id < w.id)

/-- A miss that waits at its port is sent to the walker once that has fewer than 256 walks in flight; its walk begins with the region
attribute entry as it is then. -/
def State.admitWalk (s : State) (w : Walk) : State :=
  if s.firstMiss w && decide (s.walksAt (calderaOf w.quad) < 256) then
    { s with walks := s.walks.map fun y =>
        if y = w then { y with waiting := false, raf := s.raf.getD (w.asid * 16 + w.va / 2 ^ 48) 0 } else y }
  else s

/-- Walk the page tables for an address of a function's address space (R147), for a quad's port: entry by entry, from the region
attribute entry that the walk found at its start. It is held until the answer of each read has come, and before it has begun. The
earlier leaves whose runs reach the page are looked at when it ends (log 85). -/
def State.walkTables (s : State) (w : Walk) : State × WalkEnd :=
  let f := w.part
  let asid := w.asid
  let va := w.va
  let r := w.raf.toNat
  let ps := bitsOf r 62 61
  let root := bitsOf r 38 8 * 256
  if r / 2 ^ 63 % 2 = 0 then (s, .failed (.fault 1))
  else if w.waiting then (s.admitWalk w, .failed .held)
  else if ps = 3 ∨ bitsOf r 56 39 ≠ 0 ∨ bitsOf r 7 0 ≠ 0 ∨ root % topBytes ps ≠ 0 then (s, .failed (.fault 2))
  else
    match s.readPointer w (root + 8 * topIndex ps va) with
    | (s, .failed e) => (s, .failed e)
    | (s, .table t1) =>
      match (if ps = 0 then s.readPointer w (t1 + 8 * bitsOf va 41 29) else (s, .table t1)) with
      | (s, .failed e) => (s, .failed e)
      | (s, .table t) =>
        let i := leafIndex ps va
        let vpage := va / pageBytes ps
        match s.readEntry w (t + 8 * i) with
        | (s, .error e) => (s, .failed e)
        | (s, .ok v) =>
          let own := s.leafEnd f asid ps v i vpage
          if (s.part f).det then (s, s.detRun w.quad f asid ps t (vpage - i) i (s.detLeaf w.quad f asid ps t i vpage own))
          else match s.leavesOf f asid ps t i vpage own with
            | [_] => (s, own)
            | l =>
              let (s, k) := s.choose l.length
              (s, l.getD k own)

/-- How far a walk has come; one that fails the tenant check is counted for the physical function (R151). -/
def State.walk (s : State) (w : Walk) : State × WalkEnd :=
  match s.walkTables w with
  | (s, .failed .refused) => ({ s with tenantFailures := s.tenantFailures + 1 }, .failed .refused)
  | r => r

/-! ## The translation cache (R152) -/

/-- Whether a cached translation covers an address. -/
def TlbEntry.covers (e : TlbEntry) (asid va : Nat) : Bool :=
  let v := va / pageBytes e.ps
  decide (e.asid = asid ∧ e.vpage ≤ v ∧ v < e.vpage + e.pages)

/-- The physical address that a cached translation gives. -/
def TlbEntry.translate (e : TlbEntry) (va : Nat) : Nat :=
  e.pbn * blockBytes + (va / pageBytes e.ps - e.vpage) * pageBytes e.ps + va % pageBytes e.ps

/-- Make a found entry the most recently used. -/
def touchTlb (t : List TlbEntry) (e : TlbEntry) : List TlbEntry := t.erase e ++ [e]

/-- Put a translation in a cache of 256 entries, in place of the least recently used (R152). -/
def insertTlb (t : List TlbEntry) (e : TlbEntry) : List TlbEntry := (if 256 ≤ t.length then t.drop 1 else t) ++ [e]

/-! ## Bank layouts (R324, R325) -/

/-- Where the bytes of line `l` of a block stand when the block was written in the other layout: `row` is the layout in
which it is accessed now. -/
def relaidLine (row : Bool) (l : Nat) : Nat := if row then (l % 64) * 16 + l / 64 else (l % 16) * 64 + l / 16

/-- The address at which the bytes of an address stand (R325): the first use through a translation records a block's
layout, and a use under the other layout sees each line where the recorded layout placed it. -/
def State.placed (s : State) (row : Bool) (pa : Nat) : State × Nat :=
  let b := pa / blockBytes
  match s.layouts.find? b with
  | none => ({ s with layouts := s.layouts.put b row }, pa)
  | some r => if r = row then (s, pa) else (s, b * blockBytes + relaidLine row (pa % blockBytes / 64) * 64 + pa % 64)

/-- A placed physical address. -/
structure Phys where
  pa : Nat
  row : Bool
  deriving DecidableEq, Repr

/-! ## Access counters (R163, R164) -/

/-- Count an access through an entry of a quad's cache whose home lies on another caldera, and notify when the count
reaches the region's threshold. -/
def State.countAccess (s : State) (q : Nat) (e : TlbEntry) (va pa : Nat) : State :=
  let thr := bitsOf (s.raf.getD (e.asid * 16 + va / 2 ^ 48) 0).toNat 60 57
  if !e.cnt || e.pin || decide (thr = 0) || decide (calderaOf (homeOf pa) = calderaOf q) then s
  else
    let bump (n : Nat) (s : State) : State :=
      s.modHome q fun h => { h with tlb := h.tlb.map fun x => if x = e then { e with count := n } else x }
    if e.count + 1 < 2 ^ thr then bump (e.count + 1) s
    else
      let s := bump 0 s
      let k := calderaOf q
      let page := va / pageBytes e.ps * pageBytes e.ps
      let c := s.caldera k
      if e.mq || c.notifications.any fun n => decide (n.asid = e.asid ∧ n.va = page) then s
      else if 256 ≤ c.notifications.length then
        s.modCaldera k fun c => { c with drops := if c.drops = BitVec.allOnes 32 then c.drops else c.drops + 1 }
      else s.modCaldera k fun c => { c with notifications := c.notifications ++
        [{ asid := e.asid, va := page, caldera := k, home := calderaOf (homeOf pa) }] }

/-- Translate through an entry of a quad's cache. -/
def State.useEntry (s : State) (q : Nat) (e : TlbEntry) (va : Nat) (count : Bool) : State × Phys :=
  let s := s.modHome q fun h => { h with tlb := touchTlb h.tlb e }
  let pa0 := e.translate va
  let s := if count then s.countAccess q e va pa0 else s
  let (s, pa) := s.placed e.bl pa0
  (s, ⟨pa, e.bl⟩)

/-- The cached translation of an address at a quad's port. -/
def State.cached (s : State) (q asid va : Nat) : Option TlbEntry := (s.home q).tlb.find? fun e => e.covers asid va

/-- A miss at a quad's port (R152): its walk starts, or it waits at the port while the walker has 256 walks in flight. It is one of its
partition's, which is on record with it. -/
def State.startWalk (s : State) (p q tid asid va acc : Nat) (shadow : Bool) (engine : Option Issuer) : State :=
  let w : Walk := { part := p, quad := q, asid := asid, va := va, acc := acc, tid := tid, shadow := shadow, id := s.nextSeq, engine := engine }
  let waits := !(s.firstMiss w && decide (s.walksAt (calderaOf q) < 256))
  { s.modPart p id with
    nextSeq := s.nextSeq + 1
    walks := s.walks ++ [{ w with waiting := waits, raf := if waits then BitVec.allOnes 64 else s.raf.getD (asid * 16 + va / 2 ^ 48) 0 }] }

/-- Whether a walk is an engine's for an address. -/
def Walk.serves (w : Walk) (i : Issuer) (p q asid va : Nat) : Bool :=
  decide (w.engine = some i ∧ w.part = p ∧ w.quad = q ∧ w.asid = asid ∧ w.va = va)

/-- The entry that translates an address at a quad's port for an engine or the hub: the cached one. Where none is cached a walk is
started, and it is held until the walk has ended; a walk that failed tells so once. -/
def State.entryFor (s : State) (i : Issuer) (p q tid asid va : Nat) : State × Except WalkFail TlbEntry :=
  let mine (w : Walk) : Bool := w.serves i p q asid va
  match s.cached q asid va with
  | some e => (if s.walks.any mine then s.removeWalks mine else s, .ok e)
  | none =>
    match s.walks.find? mine with
    | none => (s.startWalk p q tid asid va 0 false (some i), .error .held)
    | some w =>
      match w.result with
      | none => (s, .error .held)
      | some e => (s.removeWalks mine, .error e)

/-- A translation, as engines and the hub make it; a fault is entered by the caller. -/
def State.translateNow (s : State) (i : Issuer) (p q tid asid va : Nat) : State × Except WalkFail Phys :=
  match s.entryFor i p q tid asid va with
  | (s, .error e) => (s, .error e)
  | (s, .ok e) => let (s, x) := s.useEntry q e va true; (s, .ok x)

end Sys2Proof.Machine
end

