-- ==== Sys2Proof/Machine/Reads.lean ====
section
/-!
DEFINITION. Reading a range of an address space line by line, as the engines, the hub and the cores for their own needs do: each line
is a read of its own that is issued, delivered, applied and answered (R84, R85), and the range is known once every answer has come.
-/
namespace Sys2Proof.Machine

/-- What an engine's read of a range gives: the bytes and the first poisoned line, a page that is not resident, a page that is refused,
or that some line or its translation has not come yet. -/
inductive EngineRead
  | bytes (b : List Byte) (poison : Option Nat)
  | fault (kind va : Nat)
  | refused (va : Nat)
  | held
  deriving DecidableEq, Repr

/-- Add a line's bytes before those of the rest of a range. -/
def EngineRead.before (b : List Byte) (po : Option Nat) : EngineRead → EngineRead
  | .bytes t q => .bytes (b ++ t) (match po with | some l => some l | none => q)
  | r => r

/-- A line that has not come makes its range wait, but for a page that fails. -/
def EngineRead.waiting : EngineRead → EngineRead
  | .bytes _ _ => .held
  | r => r

/-- How the reads of a range are made: who reads, of which partition, at which quad's port, for which thread, for which piece of its
work, in which address space, and whether the bytes leave on a link (R393). -/
structure Reader where
  issuer : Issuer
  part : Nat
  quad : Nat
  tid : Nat
  tag : Nat := 0
  asid : Nat
  leaving : Bool := false
  deriving DecidableEq, Repr

/-- A read of bytes of one line, up to its answer: it is translated and sent once, and a leaf with POISON answers as a poisoned line
does. -/
def State.readLine (s : State) (r : Reader) (va n : Nat) : State × EngineRead :=
  match s.fetchedAt r.part r.issuer r.tag va with
  | some f => (s, .bytes f.bytes f.poison)
  | none =>
    if s.fetching r.part r.issuer r.tag va then (s, .held)
    else
      match s.translateNow r.issuer r.part r.quad r.tid r.asid va with
      | (s, .error (.fault kind)) => (s, .fault kind va)
      | (s, .error .held) => (s, .held)
      | (s, .error .poison) =>
        let f : Fetched := { issuer := r.issuer, tag := r.tag, va := va, bytes := List.replicate n 0, poison := some (va / 64 * 64) }
        (s.addFetched r.part f, .bytes f.bytes f.poison)
      | (s, .error _) => (s, .refused va)
      | (s, .ok x) => (s.sendFetch r.issuer r.part r.quad r.tid r.tag r.asid va x.pa n r.leaving, .held)

/-- Read a range at its homes, line by line. The first argument bounds the number of lines. -/
def engineReadMem (r : Reader) : Nat → State → Nat → Nat → State × EngineRead
  | 0, s, _, _ => (s, .bytes [] none)
  | fuel + 1, s, va, n =>
    if n = 0 then (s, .bytes [] none)
    else
      let k := min n (64 - va % 64)
      match s.readLine r va k with
      | (s, .bytes b po) => let (s, t) := engineReadMem r fuel s ((va + k) % 2 ^ 52) (n - k); (s, t.before b po)
      | (s, .held) => let (s, t) := engineReadMem r fuel s ((va + k) % 2 ^ 52) (n - k); (s, t.waiting)
      | (s, e) => (s, e)

end Sys2Proof.Machine
end

