-- ==== Sys2Proof/Machine/Regions.lean ====
section
/-!
DEFINITION. Regions: the word of the region control block (R241), admission (R242), the end of a region (R249, R400), and
reading a region's cell map when it enters ACTIVE (R340).
-/
namespace Sys2Proof.Machine

/-- Bytes of an address space, read line by line at their homes; where that fails, how and at which address. -/
def readVirt (r : Reader) (s : State) (va n : Nat) : State × Except (WalkFail × Nat) (List Byte) :=
  match engineReadMem r (n / 64 + 2) s va n with
  | (s, .bytes b none) => (s, .ok b)
  | (s, .bytes _ (some l)) => (s, .error (.poison, l))
  | (s, .fault k va) => (s, .error (.fault k, va))
  | (s, .refused va) => (s, .error (.refused, va))
  | (s, .held) => (s, .error (.held, va))

/-- The number of an RCB: its address space and its address. -/
def rcbKey (asid va : Nat) : Nat := asid * 2 ^ 52 + va

/-- The states of a region as its RCB's word shows them (R236). -/
def rcbWord (state code handle : Nat) : Nat := state * 2 ^ 61 + code * 2 ^ 57 + handle

/-- 16-bit entries. -/
def halves : List Byte → List Nat
  | a :: b :: t => (a.toNat + 256 * b.toNat) :: halves t
  | _ => []

/-- The fields of a cell map's header (R339). -/
def cellMapOf (addr : Nat) (hdr : Nat) (owners resv : List Nat) : CellMap :=
  { addr := addr, malformed := false,
    ox := signedOf 32 (bitsOf hdr 31 0), oy := signedOf 32 (bitsOf hdr 63 32), oz := signedOf 32 (bitsOf hdr 95 64),
    elx := bitsOf hdr 100 96, ely := bitsOf hdr 105 101, elz := bitsOf hdr 110 106,
    gx := bitsOf hdr 123 112 + 1, gy := bitsOf hdr 135 124 + 1, gz := bitsOf hdr 147 136 + 1,
    halo := bitsOf hdr 150 148, thresh := bitsOf hdr 155 152, nres := bitsOf hdr 170 160,
    owners := owners, resv := resv }

/-- A map that R340 calls malformed. -/
def badCellMap (addr : Nat) : CellMap := { cellMapOf addr 0 [] [] with malformed := true }

namespace State

/-- A write of an RCB's word waits, behind those of the same word. -/
def pushRcb (s : State) (p : Nat) (w : RcbWrite) : State := s.modPart p fun P => { P with rcbWrites := P.rcbWrites ++ [w] }

/-- Write the word of an RCB at its home (R241), after the earlier writes of the word. A page fault makes the write wait for the
pager, with THREAD 0 in its record, since the hub makes it (log 90); a page refused to the partition discards it. -/
def writeRcb (s : State) (p q asid va value : Nat) : State :=
  let w : RcbWrite := { quad := q, asid := asid, va := va, value := value, fault := false }
  if (s.part p).rcbWrites.any fun x => decide (x.asid = asid ∧ x.va = va) then s.pushRcb p w
  else
    match s.translateNow .rcb p q 0 asid va with
    | (s, .ok x) => s.storeLine x.pa (bytesOfNat 8 value)
    | (s, .error (.fault k)) =>
      (s.enterFault p (calderaOf q) { kind := k, acc := 5, thread := 0, asid := asid, va := va }).pushRcb p { w with fault := true }
    | (s, .error .held) => s.pushRcb p w
    | (s, .error _) => s

/-- The writes of RCBs' words that wait, in order, without those that wait for the pager and what stands behind them. -/
def retryRcb (s : State) (p : Nat) : State :=
  (s.part p).rcbWrites.foldl (fun s w =>
    if w.fault then s.pushRcb p w else s.writeRcb p w.quad w.asid w.va w.value) (s.modPart p fun P => { P with rcbWrites := [] })

/-- Write a region's state to its RCB, from its first core's caldera (R241, R247). -/
def writeState (s : State) (p : Nat) (r : Region) (state handle : Nat) : State :=
  s.writeRcb p (quadOfCore (r.cores.headD 0)) r.rcbAsid r.rcb (rcbWord state 0 handle)

/-- Read a region's cell map, with its owner and reserve lists (R339, R340), or why it has not been read. -/
def readCellMap (s : State) (p handle : Nat) (r : Region) : State × Except (WalkFail × Nat) CellMap :=
  let core := r.cores.headD 0
  let rd (tag : Nat) : Reader :=
    { issuer := .cellMap handle, part := p, quad := quadOfCore core, tid := core * 16, tag := tag, asid := r.asid }
  let bad := badCellMap r.cellmap
  if r.cellmap % 64 ≠ 0 then (s, .ok bad)
  else match readVirt (rd 0) s r.cellmap 64 with
    | (s, .error e) => (s, .error e)
    | (s, .ok b) =>
      let h := natOfBytes b
      let m := cellMapOf r.cellmap h [] []
      if bitsOf h 511 308 ≠ 0 ∨ bitsOf h 255 244 ≠ 0 ∨ bitsOf h 191 187 ≠ 0 ∨ bitsOf h 175 171 ≠ 0 ∨ bitsOf h 159 156 ≠ 0 ∨
          bitsOf h 151 151 ≠ 0 ∨ bitsOf h 111 111 ≠ 0 ∨ m.thresh = 0 ∨ 1024 < m.nres ∨ 65536 < m.cells then
        (s, .ok bad)
      else match readVirt (rd 1) s (bitsOf h 243 192) (2 * m.cells) with
        | (s, .error e) => (s, .error e)
        | (s, .ok ob) =>
          match readVirt (rd 2) s (bitsOf h 307 256) (2 * m.nres) with
          | (s, .error e) => (s, .error e)
          | (s, .ok rb) =>
            let owners := halves ob
            let resv := halves rb
            if (owners ++ resv).all fun c => r.cores.contains c then (s, .ok { m with owners := owners, resv := resv })
            else (s, .ok bad)

def modRegion (s : State) (p handle : Nat) (f : Region → Region) : State :=
  s.modPart p fun P => { P with regions := match P.regions.find? handle with | some r => P.regions.put handle (f r) | none => P.regions }

/-- The cores of a region read its cell map, if that is still due (R340): a page fault makes them wait for the pager, and the fold
with them; a map on a page that is refused, or on a poisoned line, counts as malformed (log 19). -/
def readMap (s : State) (p handle : Nat) : State :=
  match (s.part p).regions.find? handle with
  | none => s
  | some r =>
    if !r.mapDue || r.mapFault.isSome then s
    else
      let put (s : State) (m : CellMap) : State :=
        ((s.endReads p (.cellMap handle)).modPart p fun P => { P with cellmaps := P.cellmaps.put handle m }).modRegion p handle
          fun r => { r with mapDue := false }
      match s.readCellMap p handle r with
      | (s, .ok m) => put s m
      | (s, .error (.held, _)) => s
      | (s, .error (.fault k, va)) =>
        let core := r.cores.headD 0
        (s.enterFault p (calderaOf (quadOfCore core)) { kind := k, acc := 1, thread := core * 16, asid := r.asid, va := va }).modRegion
          p handle fun r => { r with mapFault := some va }
      | (s, .error _) => put s (badCellMap r.cellmap)

/-- The page of a region's cell map is refused: the map counts as malformed. -/
def refuseMap (s : State) (p handle : Nat) : State :=
  match (s.part p).regions.find? handle with
  | none => s
  | some r => ((s.endReads p (.cellMap handle)).modPart p fun P =>
      { P with cellmaps := P.cellmaps.put handle (badCellMap r.cellmap) }).modRegion p handle fun r => { r with mapDue := false, mapFault := none }

/-- Whether every producer of a region has been fully taken (R242). -/
def admitted (s : State) (p : Nat) (r : Region) : Bool := r.deps.all fun d => (s.part p).launched.getD d false

/-- A PENDING region of a running partition whose producers are fully taken becomes ACTIVE: its word is written, its cell map is read, and its
fold is due (R241, R242, R340). -/
def activate (s : State) (p handle : Nat) (r : Region) : State :=
  if r.active || !s.live p || !s.admitted p r then s
  else
    let s := s.modPart p fun P => { P with regions := P.regions.put handle { r with active := true, folding := true, mapDue := decide (r.cellmap ≠ 0) } }
    (s.writeState p r 2 handle).readMap p handle

def activateAll (s : State) (p : Nat) : State :=
  (s.part p).regions.foldl (fun s h => s.activate p h.1 h.2) s

/-- Clear RV of every thread of an ended region (R400): in contexts, queues, rings and on its way. -/
def clearRegion (s : State) (p handle : Nat) : State :=
  let off (c : Ctx) : Ctx := if c.rv && decide (c.handle.toNat = handle) then { c with rv := false } else c
  let offT (t : Traveller) : Traveller := { t with ctx := off t.ctx }
  s.modPart p fun P =>
    { P with
      travellers := P.travellers.mapVal fun _ t => offT t
      quads := P.quads.mapVal fun _ Q =>
        { Q with cores := Q.cores.mapVal fun _ C =>
          { C with
            curRegion := if C.curRegion = handle then 1024 else C.curRegion
            ctxs := C.ctxs.mapVal fun _ c => off c
            spillRefused := C.spillRefused.map fun x => (x.1, match x.2 with | .inl k => .inl k | .inr t => .inr (offT t))
            queue := C.queue.map offT
            ring := { C.ring with
              threads := C.ring.threads.map fun x => if x.region = some handle then { x with region := none } else x } } } }

/-- The reserve steps of a region that ends: what is under way splits nothing. -/
def endReserves (s : State) (p handle : Nat) : State :=
  let s := s.removeWalks fun w => decide (w.part = p) && (match w.engine with | some (.cellPart r _) => decide (r = handle) | _ => false)
  { s with accesses := s.accesses.mapVal fun _ x =>
    match x.kind with
    | .reserve r part n => if x.part = p ∧ r = handle then { x with kind := .reserve 1024 part n } else x
    | _ => x }

/-- A region ends, COMPLETE or FAILED (R241): its word is written, its handle, task entries, registry entries and cell
entries are released, its threads lose it, and consumers that waited on it may enter ACTIVE. -/
def endRegion (s : State) (p handle : Nat) (failed : Bool) : State :=
  match (s.part p).regions.find? handle with
  | none => s
  | some r =>
    let s := s.writeState p r (if failed then 4 else 3) handle
    let s := (((s.endReads p (.cellMap handle)).endReserves p handle).clearRegionCells p handle).clearRegion p handle
    let s := s.modPart p fun P =>
      { P with
        regions := P.regions.del handle
        launched := P.launched.put (rcbKey r.rcbAsid r.rcb) true
        quads := P.quads.mapVal fun _ Q =>
          { Q with cores := Q.cores.mapVal fun _ C =>
            { C with tasks := C.tasks.keep fun _ t => decide (t.handle ≠ handle) } } }
    let s := { s with calderas := s.calderas.mapVal fun _ c =>
      { c with registry := c.registry.filter fun e => decide (e.part ≠ p ∨ e.region ≠ handle) } }
    s.activateAll p

/-- A halt on a core fails the live regions with a task entry there, a region named beside them, and every live region of
their fault domains (R249); the event queue is told of each. -/
def failRegions (s : State) (p core reason : Nat) (also_ : Option Nat) : State :=
  let hit := (s.core p core).tasks.map fun t => t.2.handle
  let domains := ((s.part p).regions.keep fun h _ => hit.contains h || also_ == some h).map fun r => r.2.fdom
  let lost := (s.part p).regions.keep fun h r => hit.contains h || also_ == some h || domains.contains r.fdom
  lost.foldl (fun s h =>
    (s.endRegion p h.1 true).postEvent p 1 0 (h.1 * 2 ^ 64 + reason * 2 ^ 60 + core)) s

end State
end Sys2Proof.Machine
end

