-- ==== Sys2Proof/Machine/Ops.lean ====
section
/-!
DEFINITION. What every instruction shares: how it ends (completing, trapping, parking, dropping), taking a trap (R112) and
returning from one (R115), halting a thread (R108, R109, R117), the shadow set (R105, R166), and the program counter with
the repetition buffer (R317).
-/
namespace Sys2Proof.Machine

/-! ## Halting (R108, R109, R117) -/

/-- The reason codes of R117. -/
def HaltReason.code : HaltReason → Nat
  | .exit => 0 | .nested => 1 | .novec => 2 | .brk => 3 | .machine => 4 | .fillref => 5 | .shadow => 6

namespace State

/-- Wake a context of a core (R118, R246): parked by `park` it becomes RUNNABLE in the next cycle, otherwise its WAKE bit is set. A FREE or
HALTED context is left unchanged (R118). Of a context whose thread is MIGRATING it is the context's bit that is set, and the thread does not
take it along (log 137). -/
def wakeContext (s : State) (p core n : Nat) : State :=
  s.modContext p core n fun c =>
    match c.state with
    | .free => c
    | .halted => c
    | _ => { c with wake := true }

/-- A fill has ended, and its walks with it (R117). -/
def endFill (s : State) (p core n : Nat) : State :=
  match (s.context p core n).fill with
  | none => s
  | some _ => (s.endReads p (.fill core n)).modContext p core n fun c => { c with fill := none }

/-- A thread enters HALTED (R108): the halt record, HMASK, the wake of context zero, the end of its bond (R338), and what
the halt costs its regions (R249). -/
def haltThread (s : State) (p core n : Nat) (reason : HaltReason) (cause : Nat) (value : Nat) : State :=
  let own := let c := s.context p core n; if c.rv then some c.handle.toNat else none
  let s := s.modContext p core n fun c =>
    { c with
      state := .halted
      haltReason := reason
      haltCause := BitVec.ofNat 5 cause
      haltValue := BitVec.ofNat 32 value
      phase := .fresh, reply := none, rep := none, index := none }
  let s := (s.endFill p core n).unbind p (core * 16 + n)
  let s := if n = 0 then s else s.modCore p core fun C => { C with hmask := C.hmask ||| BitVec.ofNat 16 (2 ^ n) }
  let s := if n = 0 then (s.postEvent p 3 0 core).failRegions p core reason.code own
    else s.modContext p core 0 fun c => { c with wake := true }
  if reason = .fillref then s.failRegions p core reason.code own else s

/-! ## The shadow set (R105, R166) -/

/-- Start the shadow set for a miss. -/
def startShadow (s : State) (p core : Nat) (m : KvMiss) : State :=
  s.modCore p core fun C =>
    let h := C.shadow
    let put (r : Reg) (v : Nat) (g : Vector GReg 16) : Vector GReg 16 :=
      g.set r { val := BitVec.ofNat 64 v, full := true, armed := false, poison := none }
    { C with shadow := { h with
        regs := put 3 (core * 16 + m.ctx) (put 2 m.blk (put 1 m.seq h.regs))
        tepc := m.pc
        pc := BitVec.ofNat 50 (m.vec / 4)
        missing := some m.ctx
        state := .runnable, acquiring := [], phase := .fresh, reply := none, rep := none } }

/-- The shadow set returns to idle, and the next waiting miss, if there is one, starts it again (R166). -/
def idleShadow (s : State) (p core : Nat) : State :=
  let h := (s.core p core).shadow
  let s := s.modCore p core fun C =>
    { C with shadow := { C.shadow with missing := none, state := .free, acquiring := [], phase := .fresh, reply := none, waiting := h.waiting.drop 1 } }
  match h.waiting with
  | [] => s
  | m :: _ => s.startShadow p core m

/-! ## Traps (R112) -/

/-- What delivery consumes of an imprecise cause (R111, R144, R315). -/
def consumeReport (s : State) (cause : Nat) : State :=
  if cause = 12 then
    s.modCurCore fun C => { C with guardLog := { C.guardLog with pend := C.guardLog.pend &&& ~~~ BitVec.ofNat 16 (2 ^ s.cur.ctx) } }
  else if cause = 13 then s.modCtx fun c => { c with errorRec := 0 }
  else s

/-- Take a trap (R112), with TEPC as R111 gives it: nested and vectorless traps halt the thread, any other vectors. A trap
abandons a repetition (R317). A trap inside the shadow set halts the thread that missed and returns the set to idle (R105). -/
def takeTrap (s : State) (cause : Nat) (value : Word64) (tepc : BitVec 50) : State :=
  let s := s.consumeReport cause
  let p := s.cur.part
  let core := s.cur.core
  let n := s.cur.ctx
  if s.cur.shadow then (s.haltThread p core n .shadow cause value.toNat).idleShadow p core
  else
    let c := s.ctx
    if c.inh then s.haltThread p core n .nested cause value.toNat
    else
      let c := { c with tepc := tepc, tcause := BitVec.ofNat 5 cause, tval := value, phase := .fresh, reply := none, rep := none }
      if c.tvec = 0 then (s.setCtx c).haltThread p core n .novec cause value.toNat
      else s.setCtx { c with inh := true, pc := c.tvec }

/-- Return from a trap (R115), when INH is set. -/
def returnTrap (s : State) : State :=
  s.modCtx fun c => { c with pc := c.tepc, inh := false, rep := none, phase := .fresh, reply := none }

end State

/-! ## How an instruction ends -/

/-- Why an instruction does not complete now: a trap at the instruction, in the state in which it was issued or in a later one, which an
earlier part of its fetch has left (R66); a wait after which it is reissued; a page fault that drops the thread. The state is the one in
which the thread waits. -/
inductive Stop
  | trap (cause : Nat) (value : Word64)
  | trapIn (s : State) (cause : Nat) (value : Word64)
  | park (s : State) (w : Wait)
  | drop (s : State) (asid va : Nat)
  deriving DecidableEq, Repr

/-- A trap in what follows a part of the instruction that has left a state. -/
def Stop.within (s : State) : Stop → Stop
  | .trap cause value => .trapIn s cause value
  | e => e

/-- What follows a part of the instruction that has left a state. -/
def following {α : Type} (s : State) (r : Except Stop α) : Except Stop α := r.mapError (Stop.within s)

/-- The meaning of an instruction's body: a next state, or why there is none yet. -/
abbrev Step := Except Stop State

/-- What an instruction's meaning answers. -/
abbrev Out := Host.Outcome State Fault Refusal

namespace State

/-- Forget the walks made for the instruction at hand. -/
def endWalks (s : State) : State :=
  s.removeWalks fun w => decide (w.part = s.cur.part ∧ w.tid = s.curTid ∧ w.shadow = s.cur.shadow ∧ w.engine = none)

/-- Park the thread at hand. -/
def park (s : State) (w : Wait) : State := s.modCtx fun c => { c with state := .parked w }

/-- How the instruction at hand ends. -/
def settle (s : State) (r : Step) : State :=
  match r with
  | .ok t => t.endWalks
  | .error (.trap cause value) => (s.takeTrap cause value s.ctx.pc).endWalks
  | .error (.trapIn t cause value) => (t.takeTrap cause value s.ctx.pc).endWalks
  | .error (.park t .walks) => t.park .walks
  | .error (.park t w) => t.endWalks.park w
  | .error (.drop t asid va) => (t.modCtx fun c => { c with state := .dropped asid va }).endWalks

/-- Go on past an instruction of `n` bytes: the next address, or at the end of a repetition's block the next iteration
(R317), which may run past the last word of the 52-bit address space. Any waits of the instruction are over. Past that word the next is
that of address 0 (R49, R133; log 107). -/
def advance (s : State) (n : Nat) : State :=
  s.modCtx fun c =>
    let pc := c.pc + BitVec.ofNat 50 (n / 4)
    let c := { c with phase := .fresh, reply := none }
    match c.rep with
    | none => { c with pc := pc }
    | some r =>
      if (pc - r.start).toNat < r.words.length then { c with pc := pc }
      else if r.i + 1 < r.count then
        { c with pc := r.start, rep := some { r with i := r.i + 1, due := r.x.isSome } }
      else { c with pc := pc, rep := none }

/-- Jump to a word address. -/
def jump (s : State) (pc : BitVec 50) : State := s.modCtx fun c => { c with pc := pc, phase := .fresh, reply := none }

end State

/-- Trap with a number as its value. -/
def trapN {α : Type} (cause value : Nat) : Except Stop α := .error (.trap cause (BitVec.ofNat 64 value))

/-! ## Trap causes (R111) -/

def causeIllegal : Nat := 1
def causePrivilege : Nat := 2
def causeSegment : Nat := 3
def causeAlign : Nat := 4
def causeVwindow : Nat := 5
def causeTileslot : Nat := 6
def causeMigrate : Nat := 7
def causeAccess : Nat := 8
def causePoison : Nat := 9
def causeStrict : Nat := 10
def causeOperand : Nat := 11
def causeGuard : Nat := 12
def causeAsync : Nat := 13
def causeTrap : Nat := 14
def causeBrk : Nat := 15

end Sys2Proof.Machine
end

