-- ==== Sys2Proof/Machine/Operands.lean ====
section
/-!
DEFINITION. Operands: general registers with their full, armed and poison states and channels (R106, R224, R225), segments
(R139 to R141), translation of a thread's accesses (R152, R159, R169, R176), the scratchpad with guards, poison and local
watches (R142, R143, R197, R399), and the forms of address.
-/
namespace Sys2Proof.Machine

/-! ## General registers (R106) -/

/-- A register with a result pending: neither full nor armed, and no poisoned answer has come. -/
def GReg.pending (g : GReg) : Bool := !g.full && !g.armed && g.poison.isNone

/-- A register as a synchronous write leaves it. -/
def GReg.written (v : Word64) : GReg := { val := v, full := true, armed := false, poison := none }

namespace State

def reg (s : State) (r : Reg) : GReg := s.ctx.regs.get r
/-- The value of a register of the thread at hand. -/
def val (s : State) (r : Reg) : Word64 := (s.reg r).val
def setReg (s : State) (r : Reg) (g : GReg) : State := s.modCtx fun c => { c with regs := c.regs.set r g }

/-- The sources of an instruction, in order: an empty one parks the thread, one with a poisoned answer traps (R106,
R161). Which of several decides is the model's choice: the first in the order in which each instruction gives its sources (log 122). -/
def ready (s : State) : List Reg → Except Stop Unit
  | [] => .ok ()
  | r :: t =>
    match (s.reg r).poison with
    | some a => trapN causePoison a
    | none => if (s.reg r).full then s.ready t else .error (.park s (.full r))

/-- The channel that a register of the thread at hand is mapped to. -/
def chan (s : State) (r : Reg) : Option Channel := s.ctx.chans.find? r.val

/-- Entries that a core's deposit port holds (R224). -/
def portUsed (s : State) (p core : Nat) : Nat :=
  s.accesses.countP fun _ x =>
    match x.kind with
    | .deposit _ _ _ _ => decide (x.part = p ∧ x.issuerCore = core)
    | _ => false

/-- A destination that may be written: no result is pending in it (R106), and if it is an output channel, whose write sends a
deposit, no acquire holds the thread's accesses (R94) and the port has room (R224). -/
def free (s : State) (d : Reg) : Except Stop Unit :=
  if (s.reg d).pending then .error (.park s (.settled d))
  else match s.chan d with
    | some c =>
      if c.dir ≠ ChanDir.out then .ok ()
      else match s.ctx.acquiring with
        | id :: _ => .error (.park s (.access id))
        | [] => if 8 ≤ s.portUsed s.cur.part s.cur.core then .error (.park s .portRoom) else .ok ()
    | none => .ok ()

/-- Reading a full input channel takes its message: the register turns empty and armed (R225). -/
def consume (s : State) : List Reg → State
  | [] => s
  | r :: t =>
    let s := match s.chan r with
      | some c => if c.dir = ChanDir.inn then s.setReg r { s.reg r with full := false, armed := true } else s
      | none => s
    s.consume t

/-- Who issues: the thread, or the core's shadow set. -/
def issuer (s : State) : Issuer := if s.cur.shadow then .shadow s.cur.core else .thread s.curTid

/-- Send a deposit (R102, R224). -/
def sendDeposit (s : State) (target : Nat) (r : Reg) (v : Word64) (out : Option Reg) : State :=
  s.sendAccess
    { part := s.cur.part, issuer := s.issuer, tid := s.curTid, gen := s.ctx.gen, uid := s.ctx.uid,
      kind := .deposit target r v out, src := quadOfCore s.cur.core, dst := quadOfCore (coreOf target),
      stage := .home, issuedAt := s.now, pc := s.ctx.pc.toNat }

/-- Write a register of the thread at hand: full and disarmed; through an output channel the value is also sent, and the
register stays empty until the deposit is applied (R106, R225). -/
def write (s : State) (d : Reg) (v : Word64) : State :=
  match s.chan d with
  | some c =>
    if c.dir = ChanDir.out then
      let s := s.setReg d { val := v, full := false, armed := false, poison := none }
      let s := s.modCtx fun x => { x with chans := x.chans.put d.val { c with busy := true, retry := 0 } }
      s.sendDeposit (c.peer % 2 ^ 19) (Fin.ofNat 16 (c.peer / 2 ^ 19)) v (some d)
    else s.setReg d (.written v)
  | none => s.setReg d (.written v)

/-- Mark a destination empty until its result arrives: FE and ARM are clear. -/
def writePending (s : State) (d : Reg) : State :=
  s.setReg d { val := s.val d, full := false, armed := false, poison := none }

/-- OR flags into the thread's `FLAGS` (R46). -/
def mergeFlags (s : State) (f : Flags) : State := s.modCtx fun c => { c with flags := c.flags ||| f }

/-- Do something as another thread: the thread at hand is put back afterwards. -/
def asThread (s : State) (p tid : Nat) (shadow : Bool) (f : State → State) : State :=
  let old := s.cur
  let s := f { s with cur := { part := p, core := coreOf tid, ctx := ctxOf tid, shadow := shadow } }
  { s with cur := old }

/-- A synchronous instruction of general registers (R120): its sources and its destination, the value and the flags it
writes, and its length. -/
def alu (s : State) (len : Nat) (d : Reg) (srcs : List Reg) (v : Word64) (f : Flags) : Step := do
  s.ready srcs
  s.free d
  pure ((((s.consume srcs).write d v).mergeFlags f).advance len)

end State

/-! ## Segments (R139 to R141) -/

def rightR : BitVec 7 := 1
def rightW : BitVec 7 := 2
def rightX : BitVec 7 := 4
def rightA : BitVec 7 := 8
def rightT : BitVec 7 := 16
def rightB : BitVec 7 := 32
def rightK : BitVec 7 := 64

def Segment.isK (g : Segment) : Bool := g.rights &&& rightK ≠ 0

/-- The address of an offset in a segment, modulo 2^52. -/
def Segment.addr (g : Segment) (off : Int) : Nat := (((g.base.toNat : Int) + off) % (2 ^ 52 : Nat)).toNat

/-- The segment check of an access (R139, R140, R141): its address, or the segment trap. -/
def Segment.check (g : Segment) (off : Int) (size : Nat) (right : BitVec 7) : Except Stop Nat :=
  if off < 0 ∨ (g.limit.toNat : Int) < off + size ∨ (2 ^ 52 : Nat) < (g.base.toNat : Int) + off + size ∨
      g.rights &&& right ≠ right ∨
      (g.isK ∧ (right &&& (rightX ||| rightT ||| rightB) ≠ 0 ∨ (65536 : Nat) < (g.base.toNat : Int) + off + size)) then
    trapN causeSegment (g.addr off)
  else .ok (g.addr off)

/-- A number read as a signed 64-bit offset. -/
def sOff (v : Word64) : Int := v.toInt

/-- Alignment (R169). -/
def aligned (addr n : Nat) : Except Stop Unit := if addr % n = 0 then .ok () else trapN causeAlign addr

namespace State

def seg (s : State) (n : Seg) : Segment := s.ctx.segs.get n

/-- The live region of the thread at hand (R400). -/
def region? (s : State) : Option Region :=
  if s.ctx.rv then s.curPart.regions.find? s.ctx.handle.toNat else none

def asid (s : State) : Nat := s.ctx.asid

def quadNo (s : State) : Nat := quadOfCore s.cur.core

/-! ## The tour registry's ranges (R176, R265) -/

end State

/-- The first byte of `lo .. hi − 1` that a recorded tile holds. -/
def RegistryEntry.firstIn (e : RegistryEntry) (lo hi : Nat) : Option Nat :=
  let i := if lo < e.base + e.rowBytes then 0 else (lo - e.base - e.rowBytes) / e.pitch + 1
  let a := max lo (e.base + i * e.pitch)
  if i < e.rows ∧ a < hi then some a else none

namespace State

/-- The first byte of a range that a tile recorded for a region at a caldera's registry holds. -/
def firstToured (s : State) (p region k lo hi : Nat) : Option Nat :=
  ((s.caldera k).registry.filterMap fun e => if e.part = p ∧ e.region = region then e.firstIn lo hi else none).foldl
    (fun m a => match m with | none => some a | some b => some (min a b)) none

/-! ## Translation of a thread's parts (R152, R159, R169) -/

end State

/-- How a part of an access, the bytes in one page, stands. -/
inductive PartState3
  | clean
  | trap (cause : Nat) (value : Nat)
  | fault
  deriving DecidableEq, Repr

namespace State

/-- The failed walk of a part of the instruction at hand. -/
def failedWalk (s : State) (va : Nat) : Option Walk :=
  s.walks.find? fun w => decide (w.part = s.cur.part ∧ w.tid = s.curTid ∧ w.shadow = s.cur.shadow ∧ w.va = va ∧ w.asid = s.asid ∧
    w.engine = none)

/-- Whether a part still needs a walk: no cached translation, and no walk has failed for it. -/
def missing (s : State) (va : Nat) : Bool :=
  (s.cached s.quadNo s.asid va).isNone &&
    (match s.failedWalk va with | some w => w.result.isNone | none => true)

/-- Start the walks for the parts that miss, each once. -/
def startWalks (s : State) (acc : Nat) (vas : List Nat) : State :=
  vas.foldl (fun s va =>
    if s.missing va && (s.failedWalk va).isNone then s.startWalk s.cur.part s.quadNo s.curTid s.asid va acc s.cur.shadow none
    else s) s

/-- Whether loads of the thread at hand are checked against the registry (R176). -/
def strict (s : State) : Bool := match s.region? with | some r => r.strict | none => false

/-- How a part stands: a page fault, or a page that the pager has refused (R157), then the strict-reread check, the tenant check and the
poison leaf (R169). -/
def partState (s : State) (isLoad : Bool) (va len : Nat) : PartState3 :=
  let r := match s.cached s.quadNo s.asid va with
    | some _ => none
    | none => match s.failedWalk va with | some w => w.result | none => none
  match r with
  | some (.fault _) => .fault
  | some .denied => .trap causeAccess va
  | _ =>
    match (if isLoad && s.strict then s.firstToured s.cur.part s.ctx.handle.toNat (calderaOf s.quadNo) va (va + len) else none) with
    | some a => .trap causeStrict a
    | none =>
      match r with
      | some .refused => .trap causeAccess va
      | some .poison => .trap causePoison va
      | _ => .clean

/-- Translate through the quad's cache a part that is clean. -/
def usePart (s : State) (va : Nat) : State × Phys :=
  match s.cached s.quadNo s.asid va with
  | some e => s.useEntry s.quadNo e va true
  | none => (s, ⟨0, false⟩)

/-- Translate the parts of an access that is performed whole or not at all: the first part that is not clean decides. -/
def translateParts (s : State) (acc : Nat) (isLoad : Bool) (parts : List (Nat × Nat)) : Except Stop (State × List Phys) :=
  if parts.any fun x => s.missing x.1 then .error (.park (s.startWalks acc (parts.map Prod.fst)) .walks)
  else
    match parts.find? fun x => s.partState isLoad x.1 x.2 ≠ .clean with
    | some x =>
      match s.partState isLoad x.1 x.2 with
      | .trap c v => trapN c v
      | _ => .error (.drop s s.asid x.1)
    | none =>
      .ok (parts.foldl (fun (a : State × List Phys) x =>
        let (s, ph) := a.1.usePart x.1
        (s, a.2 ++ [ph])) (s, []))

/-- Translate one address of the thread at hand. -/
def translate (s : State) (acc : Nat) (isLoad : Bool) (va len : Nat) : Except Stop (State × Phys) := do
  let (s, l) ← s.translateParts acc isLoad [(va, len)]
  pure (s, l.headD ⟨0, false⟩)

/-! ## Guards (R142, R143) -/

/-- Log a guarded access against a context. -/
def logGuard (s : State) (p core ctx addr : Nat) (isStore : Bool) : State :=
  s.modCore p core fun C =>
    let g := C.guardLog
    let g := { g with pend := g.pend ||| BitVec.ofNat 16 (2 ^ ctx) }
    { C with guardLog :=
        if g.v then { g with more := true }
        else { g with v := true, wr := isStore, ctx := BitVec.ofNat 4 ctx, offset := BitVec.ofNat 16 addr } }

/-- The first byte of a scratchpad range that lies in a guarded granule: what R143's OFFSET, the first logged byte, names is the model's
choice (log 123). -/
def firstGuarded (s : State) (p core addr n : Nat) : Option Nat :=
  let C := s.core p core
  match C.guarded with
  | [] => none
  | _ => (List.range n).findSome? fun i => if C.guarded.contains ((addr + i) / 64) then some (addr + i) else none

/-- `GUARDLOG` as it reads (R143). -/
def guardWord (s : State) (p core : Nat) : Word64 :=
  let g := (s.core p core).guardLog
  (BitVec.ofBool g.v ++ BitVec.ofBool g.more ++ BitVec.ofBool g.wr ++ (0 : BitVec 13) ++ g.pend ++ (0 : BitVec 8) ++ g.ctx ++
    g.offset.extractLsb' 2 4 ++ g.offset)

/-! ## The scratchpad -/

/-- The banks, of 16, that a scratchpad range touches (R9, R170). -/
def banksOf (addr n : Nat) : List Nat := (List.range (min 16 ((addr % 4 + n + 3) / 4))).map fun k => (addr / 4 + k) % 16

def spadBytes (s : State) (p core addr n : Nat) : List Byte := Memory.readList (s.core p core).spad addr n

/-- The first poisoned line of a scratchpad range (R399). -/
def spadPoisoned (s : State) (p core addr n : Nat) : Option Nat :=
  let C := s.core p core
  (List.range ((addr + n + 63) / 64 - addr / 64)).findSome? fun i =>
    if C.spadPoison.contains (addr / 64 + i) then some ((addr / 64 + i) * 64) else none

/-- The first poisoned line of a scratchpad range as a command reads it: a line that was poisoned, or cleared of its poison, after the
command issued may be read as it was before (R311, R333). The first argument bounds the number of lines. -/
def spadPoisonFor (p core : Nat) (olds : List OldByte) : Nat → State → Nat → Nat → State × Option Nat
  | 0, s, _, _ => (s, none)
  | fuel + 1, s, a, n =>
    if n = 0 then (s, none)
    else
      let k := min n (64 - a % 64)
      let bad := (s.core p core).spadPoison.contains (a / 64)
      let was := if bad then OldMark.clean else .poisoned
      let (s, bad) := if olds.any fun o => decide (o.place = .spad ∧ o.addr / 64 = a / 64 ∧ o.mark = was) then
          let (s, j) := s.chooseFor p 2
          (s, bad != decide (j = 1))
        else (s, bad)
      if bad then (s, some (a / 64 * 64)) else spadPoisonFor p core olds fuel s (a + k) (n - k)

/-- Answer the local watches of a core on a word that a write has left different (R197). -/
def answerLocalWatches (s : State) (p core : Nat) : State :=
  s.accesses.foldl (fun s y =>
    match y.2.stage, y.2.kind with
    | .watch _, .waitw w e _ =>
      if y.2.spad && decide (y.2.part = p ∧ y.2.issuerCore = core) then
        let v := natOfBytes (s.spadBytes p core y.2.pa y.2.size)
        if v ≠ e.toNat % 2 ^ w.bits && (s.firstGuarded p core y.2.pa y.2.size).isNone then
          s.sendAnswer y.1 (.status (BitVec.ofNat 64 v) 0)
        else s
      else s
    | _, _ => s) s

end State

/-- The bytes of a write that change an operand range, or whose lines it poisons or clears, with what they were. -/
def overwritten (place : Place) (addr : Nat) (old new : List Byte) (mark : OldMark) (lo hi : Nat) : List OldByte :=
  (List.zip (List.range old.length) (List.zip old new)).filterMap fun x =>
    let a := addr + x.1
    if lo ≤ a ∧ a < hi ∧ (mark ≠ .value ∨ x.2.1 ≠ x.2.2) then some { place := place, addr := a, old := x.2.1, mark := mark } else none

/-- A range of an operand as a command reads it: for each byte the new value, or one that it had before a write since the command
issued (R311, R333). -/
def overlayOld (p : Nat) (olds : List OldByte) (place : Place) : Nat → State → List Byte → State × List Byte
  | _, s, [] => (s, [])
  | a, s, b :: t =>
    let l := olds.filter fun o => decide (o.place = place ∧ o.addr = a ∧ o.mark = .value)
    let (s, b) := match l with
      | [] => (s, b)
      | _ => let (s, k) := s.chooseFor p (l.length + 1); (s, ((b :: l.map OldByte.old)[k]?).getD b)
    let (s, r) := overlayOld p olds place (a + 1) s t
    (s, b :: r)

/-- Bytes of an element type in bits. -/
def elemBits : ElemType → Nat
  | .f32 => 32 | .f16 => 16 | .bf16 => 16 | .e4m3 => 8 | .e5m2 => 8
  | .i32 => 32 | .i16 => 16 | .i8 => 8 | .ui8 => 8 | .i4 => 4 | .cb4 => 4

/-- The operand ranges of a step in a place of its core: rows of A and of B (R303). -/
def MatStep.ranges (x : MatStep) (place : Place) : List (Nat × Nat) :=
  let ra := x.k * elemBits x.atype / 8
  let rb := x.n * elemBits x.btype / 8
  (if x.aplace = place then x.rows.map fun r => (x.aoff + r * x.apitch, x.aoff + r * x.apitch + ra) else []) ++
  (if !x.reuse && x.bplace = place then (List.range x.k).map fun r => (x.boff + r * x.bpitch, x.boff + r * x.bpitch + rb) else [])

/-- A step that sees a write to its operands remembers the old bytes (R311). -/
def MatStep.overwrite (x : MatStep) (place : Place) (addr : Nat) (old new : List Byte) (mark : OldMark) : MatStep :=
  { x with olds := x.olds ++ (x.ranges place).flatMap fun r => overwritten place addr old new mark r.1 r.2 }

def Queued.overwrite (core : Nat) (place : Place) (addr : Nat) (old new : List Byte) (mark : OldMark) (q : Queued) : Queued :=
  if coreOf q.tid = core then
    match q.cmd with
    | .step x => { q with cmd := .step (x.overwrite place addr old new mark) }
    | _ => q
  else q

/-- The activation and codebook bytes of a vent command (R327, R328). -/
def VentCmd.ranges (x : VentCmd) : List (Nat × Nat) :=
  let ab := if x.wtype = .i8 then 1 else 2
  let vb := 64 * ((x.c * ab + 63) / 64)
  (x.act, x.act + x.v * vb) :: (if x.wtype = .cb4 then [(x.cboff, x.cboff + 32)] else [])

def VentCmd.overwrite (core : Nat) (addr : Nat) (old new : List Byte) (mark : OldMark) (x : VentCmd) : VentCmd :=
  if coreOf x.tid = core ∧ x.state ≠ .streaming then
    { x with olds := x.olds ++ x.ranges.flatMap fun r => overwritten .spad addr old new mark r.1 r.2 }
  else x

def Queued.oldCount (q : Queued) : Nat := match q.cmd with | .step x => x.olds.length | _ => 0

/-- How many old bytes a quad's commands remember. -/
def Quad.oldCount (Q : Quad) : Nat :=
  Q.cores.foldl (fun n c => c.2.dispatch.foldl (fun n q => n + q.oldCount) n) 0 +
    Q.matrix.foldl (fun n q => n + q.oldCount) 0 + Q.vents.foldl (fun n v => n + v.2.olds.length) 0

namespace State

/-- A write changes bytes of a core's scratchpad or slot, or poisons a line or clears it: commands whose operands they are may still
read what stood there before, and in deterministic mode that is recorded (R311, R333). -/
def noteOperands (s : State) (p core : Nat) (place : Place) (addr : Nat) (old new : List Byte) (pc : BitVec 50)
    (mark : OldMark := .value) : State :=
  let Q := s.quad p (quadOfCore core)
  let Q' := { Q with
    cores := Q.cores.mapVal fun _ C => { C with dispatch := C.dispatch.map (Queued.overwrite core place addr old new mark) }
    matrix := Q.matrix.map (Queued.overwrite core place addr old new mark)
    vents := if place = .spad then Q.vents.mapVal fun _ v => v.overwrite core addr old new mark else Q.vents }
  let s := s.setQuad p (quadOfCore core) Q'
  if Q.oldCount < Q'.oldCount then s.recordDet p 4 pc else s

/-- Put bytes into a scratchpad; `mark`: what the commands whose operands they are may still read. -/
def putSpad (s : State) (p core addr : Nat) (bytes : List Byte) (pc : BitVec 50) (mark : OldMark := .value) : State :=
  let s := s.noteOperands p core .spad addr (s.spadBytes p core addr bytes.length) bytes pc mark
  (s.modCore p core fun C => { C with spad := Memory.writeList C.spad addr bytes }).answerLocalWatches p core

/-- A write of part of one scratchpad line, by a thread or an engine: a guarded granule is logged and not written (R142);
a partial write to a poisoned line is discarded, a whole-line write clears the mark (R399). -/
def spadStoreLine (s : State) (p core ctx addr : Nat) (bytes : List Byte) (pc : BitVec 50) : State :=
  let l := addr / 64
  if (s.core p core).guarded.contains l then s.logGuard p core ctx addr true
  else if (s.core p core).spadPoison.contains l then
    if bytes.length < 64 then s
    else (s.modCore p core fun C => { C with spadPoison := C.spadPoison.del l }).putSpad p core addr bytes pc .poisoned
  else s.putSpad p core addr bytes pc

/-- A thread uses the banks of a scratchpad range in this cycle, so that an engine's access to one of them waits (R170). -/
def useBanks (s : State) (p core addr n : Nat) : State :=
  let now := (s.part p).cycle + 1
  s.modCore p core fun C =>
    { C with banked := (now, (banksOf addr n).foldl NSet.add (if C.banked.1 = now then C.banked.2 else [])) }

/-- Whether an engine's access to a scratchpad range waits, since a thread has used one of its banks in this cycle (R170; log 149). -/
def bankTaken (s : State) (p core addr n : Nat) : Bool :=
  let b := (s.core p core).banked
  s.live p && decide (b.1 = (s.part p).cycle + 1) && (banksOf addr n).any fun k => b.2.contains k

/-- A store through a K segment (R141, R142): an access that touches a guarded granule writes nothing. -/
def spadStore (s : State) (p core ctx addr : Nat) (bytes : List Byte) (pc : BitVec 50) : State :=
  let s := s.useBanks p core addr bytes.length
  match s.firstGuarded p core addr bytes.length with
  | some a => s.logGuard p core ctx a true
  | none =>
    let n := 64 - addr % 64
    let s := s.spadStoreLine p core ctx addr (bytes.take n) pc
    if bytes.length ≤ n then s else s.spadStoreLine p core ctx (addr + n) (bytes.drop n) pc

/-- A read of a scratchpad range: zeros where it touches a guarded granule, which is logged; otherwise the bytes and the
first poisoned line. -/
def spadRead (s : State) (p core ctx addr n : Nat) : State × List Byte × Option Nat :=
  match s.firstGuarded p core addr n with
  | some a => (s.logGuard p core ctx a false, List.replicate n 0, none)
  | none => (s, s.spadBytes p core addr n, s.spadPoisoned p core addr n)

/-- A load through a K segment (R141, R170). -/
def spadLoad (s : State) (p core ctx addr n : Nat) : State × List Byte × Option Nat :=
  (s.useBanks p core addr n).spadRead p core ctx addr n

/-- Read an operand range of a command in the scratchpad (R142, R311, R333, R399): zeros where it touches a guarded granule, which is
logged; otherwise its bytes and its first poisoned line, as they are or as they were before a write since the command issued. -/
def operandSpad (s : State) (p core ctx : Nat) (olds : List OldByte) (a n : Nat) : State × List Byte × Option Nat :=
  match s.firstGuarded p core a n with
  | some g => (s.logGuard p core ctx g false, List.replicate n 0, none)
  | none =>
    match spadPoisonFor p core olds (n / 64 + 2) s a n with
    | (s, some l) => (s, s.spadBytes p core a n, some l)
    | (s, none) => let (s, b) := overlayOld p olds .spad a s (s.spadBytes p core a n); (s, b, none)

/-! ## Results at a fixed cycle (R170) -/

/-- Put a result on its way to the thread at hand, due some cycles from now. -/
def answerAfter (s : State) (cycles : Nat) (k : LocalKind) : State :=
  s.modCurQuad fun Q => { Q with locals := Q.locals ++
    [{ tid := s.curTid, shadow := s.cur.shadow, gen := s.ctx.gen, due := s.now + cycles, kind := k }] }

/-- The answer to an access to a local home (R87, R170; log 93 for atomics and `waitw`), which is outstanding until then. -/
def answerAccess (s : State) (cycles : Nat) (k : LocalKind) : State :=
  ({ s with nextAccess := s.nextAccess + 1 } : State).modCurQuad fun Q => { Q with locals := Q.locals ++
    [{ access := some s.nextAccess, tid := s.curTid, shadow := s.cur.shadow, gen := s.ctx.gen, due := s.now + cycles, kind := k }] }

/-! ## Accesses of the thread at hand -/

/-- An access of the thread at hand to a placed address. -/
def access (s : State) (k : AccKind) (ph : Phys) (va size : Nat) (rel : Option Scope) : Access :=
  { part := s.cur.part, issuer := s.issuer, tid := s.curTid, order := (s.nextAccess, 0), gen := s.ctx.gen, uid := s.ctx.uid, kind := k,
    pa := ph.pa, size := size, asid := s.asid, va := va, src := s.quadNo, dst := homeOf ph.pa,
    rel := rel, stage := .home, issuedAt := s.now, pc := s.ctx.pc.toNat }

/-- Issue an access; with ACQ the thread's later accesses wait for it (R94). -/
def issueAccess (s : State) (x : Access) (acq : Bool) : State :=
  let id := s.nextAccess
  let s := s.sendAccess x
  if acq then s.modCtx fun c => { c with acquiring := NSet.add c.acquiring id } else s

/-- An acquire that has not been answered holds the thread's next access (R94). -/
def acquired (s : State) : Except Stop Unit :=
  match s.ctx.acquiring with
  | [] => .ok ()
  | id :: _ => .error (.park s (.access id))

/-- The pieces of a range by 64-byte line. -/
def linePieces : Nat → Nat → Nat → List (Nat × Nat)
  | 0, _, _ => []
  | fuel + 1, a, n =>
    if n = 0 then [] else
      let k := min n (64 - a % 64)
      (a, k) :: linePieces fuel (a + k) (n - k)

end State
end Sys2Proof.Machine
end

