-- ==== Sys2Proof/Machine/Batch.lean ====
section
/-!
DEFINITION. Batches of asynchronous operations (R312 to R316), the merges of their flags (R46), the reports delivered at
named instructions (R144, R316), a caldera's copy of device time (R352), and vector windows (R285).
-/
namespace Sys2Proof.Machine

/-! ## Batches (R312 to R315) -/

/-- The error record's 64 bits, without MORE (R315). -/
def errorBits (member : Nat) (e : MemberError) : Nat := e.kind * 2 ^ 60 + member * 2 ^ 52 + e.detail % 2 ^ 52

/-- The first failed member of a batch, with its number. -/
def firstFailed : List Member → Nat → Option Nat
  | [], _ => none
  | m :: t, n => match m.error with
    | some e => some (errorBits n e)
    | none => firstFailed t (n + 1)

/-- A batch that retires sets the error record, or MORE in a pending one (R315). -/
def reportError (old : Word64) (batch : List Member) : Word64 :=
  match firstFailed batch 0 with
  | none => old
  | some b => if old = 0 then BitVec.ofNat 64 b else old ||| BitVec.ofNat 64 (2 ^ 59)

/-- Batches retire in commit order, each when its members are done (R313). -/
def retireBatches : List (List Member) → Word64 → List (List Member) × Word64
  | [], e => ([], e)
  | b :: t, e => if b.all Member.done then retireBatches t (reportError e b) else (b :: t, e)

/-- Retire what can retire. -/
def Ctx.retire (c : Ctx) : Ctx :=
  let (l, e) := retireBatches c.committed c.errorRec
  { c with committed := l, errorRec := e }

/-- Commit the open batch, if it has members. -/
def Ctx.commit (c : Ctx) : Ctx :=
  if c.openBatch.isEmpty then c
  else { c with committed := c.committed ++ [c.openBatch], openBatch := [] }.retire

/-- Mark a member done, with the error it failed with. -/
def markDone (id : Nat) (e : Option MemberError) (b : List Member) : List Member :=
  b.map fun m => if m.id = id then { m with done := true, error := e } else m

namespace State

/-- A context of the thread that issued a command, while it is still that thread's. -/
def modIssuer (s : State) (p tid gen : Nat) (f : Ctx → Ctx) : State :=
  if (s.threadCtx p tid).gen = gen then s.modThread p tid f else s

/-- A command completes: its flags are merged (R46), its batch member is done, and batches retire (R313). -/
def completeMember (s : State) (p tid gen id : Nat) (flags : Flags) (e : Option MemberError) : State :=
  s.modIssuer p tid gen fun c =>
    { c with
      flags := c.flags ||| flags
      openBatch := markDone id e c.openBatch
      committed := c.committed.map (markDone id e) }.retire

/-- An asynchronous operation joins the open batch (R312): the 128th first commits it, waiting while eight batches are
outstanding. It answers the member's own number. -/
def joinBatch (s : State) : Except Stop (State × Nat) :=
  let id := s.nextSeq
  let s := { s with nextSeq := id + 1 }
  let join (s : State) : State := s.modCtx fun c => { c with openBatch := c.openBatch ++ [{ id := id }] }
  if s.ctx.openBatch.length < 127 then .ok (join s, id)
  else if s.ctx.committed.length = 8 then .error (.park s (.batches 7))
  else .ok (join (s.modCtx Ctx.commit), id)

/-! ## Operations that have not merged (R46) -/

/-- Whether a command in the array is a thread's: a vector instruction, or a step. -/
def isVecCmd (q : Queued) : Bool := match q.cmd with | .vec _ => true | _ => false
def isStepCmd (q : Queued) : Bool := match q.cmd with | .step _ => true | _ => false

/-- Whether a vector instruction of a thread has not written its result (R287). -/
def vectorPending (s : State) (p tid gen : Nat) : Bool :=
  let Q := s.quad p (quadOfCore (coreOf tid))
  ((s.core p (coreOf tid)).dispatch.any fun q => isVecCmd q && decide (q.tid = tid ∧ q.gen = gen)) ||
    Q.results.any fun r => decide (r.tid = tid ∧ r.gen = gen)

/-- Whether a matrix step of a thread is not complete. -/
def stepPending (s : State) (p tid gen : Nat) : Bool :=
  let Q := s.quad p (quadOfCore (coreOf tid))
  ((s.core p (coreOf tid)).dispatch.any fun q => isStepCmd q && decide (q.tid = tid ∧ q.gen = gen)) ||
    Q.matrix.any fun q => isStepCmd q && decide (q.tid = tid ∧ q.gen = gen)

/-- Whether a vent command of a thread is not complete. -/
def ventPending (s : State) (p tid gen : Nat) : Bool :=
  (s.quad p (quadOfCore (coreOf tid))).vents.any fun v => decide (v.2.tid = tid ∧ v.2.gen = gen)

def copyPending (s : State) (p tid gen : Nat) : Bool :=
  (s.quad p (quadOfCore (coreOf tid))).copies.any fun c => decide (c.2.tid = tid ∧ c.2.gen = gen)

def programPending (s : State) (p tid gen : Nat) : Bool :=
  s.fumaroles.any fun f => match f.2.program with
    | some g => decide (g.part = p ∧ g.tid = tid ∧ g.gen = gen ∧ g.uid = (s.threadCtx p tid).uid) && !g.orphan
    | none => false

/-- Whether the answer of a tour, of a `tabort` or of a `qprobe` of a thread is still to come. -/
def answerDue (s : State) (p tid gen : Nat) : Bool :=
  let mine (w : Waiter) : Bool := decide (w.tid = tid ∧ w.gen = gen)
  ((s.quad p (quadOfCore (coreOf tid))).tours.any fun t => decide (t.2.tid = tid ∧ t.2.gen = gen ∧ t.2.state = .reserving)) ||
    ((s.part p).quads.any fun q => q.2.tours.any fun t => t.2.aborts.any fun a => mine a.2.2) ||
    (s.part p).probes.any fun x => decide (x.tid = tid ∧ x.gen = gen)

/-- Whether some operation of a thread has not merged its flags (R46, R287). -/
def mergePending (s : State) (p tid gen : Nat) : Bool :=
  s.vectorPending p tid gen || s.stepPending p tid gen || s.ventPending p tid gen || s.programPending p tid gen

/-- Whether an access of a thread is outstanding, at a home or at its scratchpad. -/
def accessPending (s : State) (p tid : Nat) : Bool :=
  s.pendingBefore p (.thread tid) (coreOf tid) s.nextAccess none ||
    (s.quad p (quadOfCore (coreOf tid))).locals.any fun l => decide (l.tid = tid) && !l.shadow

/-- The wait of `exit` (R118) and, with the copies and the answers to come, of a migration (R214): the open batch is committed first (R313). -/
def quiesce (s : State) (copies : Bool) : Except Stop State :=
  if !s.ctx.openBatch.isEmpty then
    if s.ctx.committed.length = 8 then .error (.park s (.batches 7)) else .error (.park (s.modCtx Ctx.commit) (.quiet copies))
  else
    let p := s.cur.part
    let tid := s.curTid
    let gen := s.ctx.gen
    if s.accessPending p tid || s.mergePending p tid gen || (copies && (s.copyPending p tid gen || s.answerDue p tid gen)) then
      .error (.park s (.quiet copies))
    else .ok s

/-! ## Imprecise reports (R144, R316) -/

/-- Deliver a guard report that is pending for the thread at hand. -/
def guardReport (s : State) : Except Stop Unit :=
  if (s.curCore.guardLog.pend >>> s.cur.ctx) &&& 1 = 1 then .error (.trap causeGuard (s.guardWord s.cur.part s.cur.core))
  else .ok ()

/-- Deliver an error record that is pending. -/
def errorReport (s : State) : Except Stop Unit :=
  if s.ctx.errorRec ≠ 0 then .error (.trap causeAsync s.ctx.errorRec) else .ok ()

end State

/-! ## Device time (R352) -/

/-- Units of 2^-16 ns in a second. -/
def dtimeSecond : Nat := 10 ^ 9 * 2 ^ 16
/-- The widest distance of a caldera's copy from the hub's time: 2 ns. -/
def dtimeSkewMax : Nat := 2 * 2 ^ 16
/-- SEC[31:0] and NSEC as `crd DTIME` returns them (R110). -/
def dtimeWord (t : Nat) : Word64 := BitVec.ofNat 64 (t / dtimeSecond % 2 ^ 32 * 2 ^ 32 + t % dtimeSecond / 2 ^ 16)

namespace State

/-- Read a caldera's copy of `DTIME`: within 2 ns of the hub's, never decreasing, and at least a time that its reader has read before (R352,
R363). -/
def readDtime (s : State) (k floor : Nat) : State × Nat :=
  let n := s.choices
  let near := s.windows.dtime + Config.dtimeSkew n % (2 * dtimeSkewMax + 1) - dtimeSkewMax
  let t := max (max (s.windows.copies.getD k 0) near) floor
  (({ s with choices := n + 1 } : State).modWindows fun w => { w with copies := w.copies.put k t }, t)

end State

/-! ## Vector windows (R284, R285) -/

/-- A register whose value does not come any more by itself: full, or left by an `ldv` that a trap has ended (R160). -/
def VecReg.settled (x : VecReg) : Bool := x.full || (x.more && decide (x.waiting = 0))

namespace State

def vreg (s : State) (p core v : Nat) : VecReg := (s.core p core).vregs.getD v {}
def setVreg (s : State) (p core v : Nat) (x : VecReg) : State := s.modCore p core fun C => { C with vregs := C.vregs.put v x }

/-- Whether a physical vector register lies in the window of a context of the core, other than context `n`. -/
def windowHeld (s : State) (p core n v : Nat) : Bool :=
  (s.core p core).ctxs.any fun c => decide (c.1 ≠ n ∧ c.2.vwinBase.toNat ≤ v ∧ v < c.2.vwinBase.toNat + c.2.vwinSize.toNat)

/-- The first register of the thread's window to which a result is still to come. -/
def windowPending (s : State) : Option Nat :=
  ((List.range s.ctx.vwinSize.toNat).map fun i => s.ctx.vwinBase.toNat + i).find? fun v => !(s.vreg s.cur.part s.cur.core v).settled

/-- Grant a window of `n` registers, at the lowest start where they are all free (R285). -/
def grantWindow (s : State) (n : Nat) : State :=
  let p := s.cur.part
  let core := s.cur.core
  let base := if n = 0 ∨ 32 < n then none
    else leastBelow (fun b => decide (b + n ≤ 32) && (List.range n).all fun i => !s.windowHeld p core s.cur.ctx (b + i)) 32
  match base with
  | none => s.modCtx fun c => { c with partialBytes := 0, vwinSize := 0, vwinBase := 0 }
  | some b =>
    let s := s.modCtx fun c => { c with partialBytes := 0, vwinSize := BitVec.ofNat 6 n, vwinBase := BitVec.ofNat 5 b }
    (List.range n).foldl (fun s i => s.setVreg p core (b + i) {}) s

end State

end Sys2Proof.Machine
end

