-- ==== Sys2Proof/Machine/Fill.lean ====
section
/-!
DEFINITION. The image of a context (R104), filling a context from an image (R117, R237, R244), and contexts that become
FREE (R218, R222).
-/
namespace Sys2Proof.Machine

/-! ## The image (R104) -/

/-- The bits of a segment register in an image and in a descriptor (R104, R177). -/
def Segment.bits (g : Segment) : Nat := g.base.toNat + g.limit.toNat * 2 ^ 52 + g.rights.toNat * 2 ^ 92

/-- A segment register from the bits of an image or a descriptor; reserved bits are ignored. -/
def segmentOf (v : Nat) : Segment :=
  { base := BitVec.ofNat 52 v, limit := BitVec.ofNat 40 (v / 2 ^ 52), rights := BitVec.ofNat 7 (v / 2 ^ 92) }

/-- Sum of fields at a stride. -/
def packed (stride : Nat) : List Nat → Nat
  | [] => 0
  | v :: t => v + 2 ^ stride * packed stride t

/-- The open bit and the count of `BATCH` (R104). -/
def Ctx.batchBits (c : Ctx) : Nat := (if c.openBatch.isEmpty then 0 else 16) + c.committed.length

/-- The image of a context, as a number. -/
def Ctx.image (c : Ctx) : Nat :=
  packed 64 (c.regs.toList.map fun g => g.val.toNat) +
  2 ^ 1024 * packed 100 (c.segs.toList.map Segment.bits) +
  2 ^ 1824 * c.pc.toNat + 2 ^ 1874 * c.tvec.toNat + 2 ^ 1924 * c.tepc.toNat + 2 ^ 1974 * c.tval.toNat +
  2 ^ 2038 * (c.posX.toNat + 2 ^ 32 * c.posY.toNat + 2 ^ 64 * c.posZ.toNat) +
  2 ^ 2134 * (c.wuX.toNat + 2 ^ 24 * c.wuY.toNat + 2 ^ 48 * c.wuZ.toNat) +
  2 ^ 2206 * packed 1 (c.regs.toList.map fun g => if g.full then 1 else 0) +
  2 ^ 2222 * packed 1 (c.regs.toList.map fun g => if g.armed then 1 else 0) +
  2 ^ 2238 * (c.vwinBase.toNat + 32 * c.vwinSize.toNat) + 2 ^ 2249 * c.flags.toNat + 2 ^ 2255 * c.tcause.toNat +
  2 ^ 2260 * c.inh.toNat + 2 ^ 2261 * c.wake.toNat + 2 ^ 2262 * c.batchBits + 2 ^ 2267 * c.partialBytes.toNat +
  2 ^ 2273 * (c.handle.toNat + 1024 * c.rv.toNat)

/-- A general register of an image. -/
def imageReg (v i : Nat) : GReg :=
  { val := BitVec.ofNat 64 (v / 2 ^ (64 * i)), full := v.testBit (2206 + i), armed := v.testBit (2222 + i) }

/-- The eight segment registers that stand at bit `at_` of a number, `stride` bits apart. -/
def segmentsOf (v at_ stride : Nat) : Vector Segment 8 := Vector.ofFn fun i => segmentOf (v / 2 ^ (at_ + stride * i.val))

/-- The fields that `start` takes from an image (R117): g, s, PC, TVEC and POS; the others have their initial values. -/
def startedCtx (v : Nat) : Ctx :=
  { regs := Vector.ofFn fun i => { val := BitVec.ofNat 64 (v / 2 ^ (64 * i.val)) }
    segs := segmentsOf v 1024 100
    pc := BitVec.ofNat 50 (v / 2 ^ 1824), tvec := BitVec.ofNat 50 (v / 2 ^ 1874)
    posX := BitVec.ofNat 32 (v / 2 ^ 2038), posY := BitVec.ofNat 32 (v / 2 ^ 2070), posZ := BitVec.ofNat 32 (v / 2 ^ 2102) }

/-- A context from its whole image (R219), reserved bits ignored. A thread that travels has no batches. -/
def ctxOfImage (v : Nat) : Ctx :=
  { startedCtx v with
    regs := Vector.ofFn fun i => imageReg v i.val
    tepc := BitVec.ofNat 50 (v / 2 ^ 1924), tval := BitVec.ofNat 64 (v / 2 ^ 1974)
    wuX := BitVec.ofNat 24 (v / 2 ^ 2134), wuY := BitVec.ofNat 24 (v / 2 ^ 2158), wuZ := BitVec.ofNat 24 (v / 2 ^ 2182)
    vwinBase := BitVec.ofNat 5 (v / 2 ^ 2238), vwinSize := BitVec.ofNat 6 (v / 2 ^ 2243)
    flags := BitVec.ofNat 6 (v / 2 ^ 2249), tcause := BitVec.ofNat 5 (v / 2 ^ 2255)
    inh := v.testBit 2260, wake := v.testBit 2261, partialBytes := BitVec.ofNat 6 (v / 2 ^ 2267)
    handle := BitVec.ofNat 10 (v / 2 ^ 2273), rv := v.testBit 2283 }

/-- Bytes of an image. -/
def imageBytes : Nat := 288

/-! ## Filling a context (R117, R237) -/

/-- The parts of a fill: offsets of the image's lines, and 1,024 + offset for those of a segment table. -/
def fillParts (segt : Option Nat) : List Nat :=
  [0, 64, 128, 192, 256] ++ (match segt with | some _ => [1024, 1088] | none => [])

namespace State

def modFill (s : State) (p core n : Nat) (g : Fill → Fill) : State :=
  s.modContext p core n fun c => { c with fill := c.fill.map g }

/-- Send one part of the fill of context `n`, an access of context zero under the number that its `start` has reserved for it; a part whose
page is not resident waits for the pager, and a refused one fails the fill. It is read in the address space of context zero (log 144). -/
def sendFillPart (s : State) (p core n o : Nat) (f : Fill) : State :=
  let (va, len) := f.part o
  let q := quadOfCore core
  let z := s.context p core 0
  match s.translateNow (.fill core n) p q (core * 16) z.asid va with
  | (s, .ok ph) =>
    let s := s.sendAs (f.number o)
      { part := p, issuer := .thread (core * 16), tid := core * 16, order := (f.number o, 0), gen := z.gen, uid := z.uid,
        kind := .load (if o < 1024 then .fill n o else .fillSegs n (o - 1024)), pa := ph.pa, size := len, asid := z.asid, va := va,
        src := q, dst := homeOf ph.pa, stage := .home, issuedAt := (s.part p).cycle, pc := z.pc.toNat }
    s.modFill p core n fun f => { f with sent := f.sent + 1 }
  | (s, .error .held) => s.modFill p core n fun f => { f with later := f.later ++ [o] }
  | (s, .error (.fault k)) =>
    let s := s.enterFault p (calderaOf q) { kind := k, acc := 7, thread := core * 16 + n, asid := z.asid, va := va }
    s.modFill p core n fun f => { f with todo := f.todo ++ [o] }
  | (s, .error .poison) => s.modFill p core n fun f => { f with refused := some (causePoison, va) }
  | (s, .error _) => s.modFill p core n fun f => { f with refused := some (causeAccess, va) }

/-- Send the parts of a fill that are still to be sent. -/
def sendFill (s : State) (p core n : Nat) : State :=
  match (s.context p core n).fill with
  | none => s
  | some f => f.todo.foldl (fun s o => s.sendFillPart p core n o f) (s.modFill p core n fun f => { f with todo := [] })

/-- Send the parts of a fill whose walks had to wait. -/
def sendLater (s : State) (p core n : Nat) : State :=
  match (s.context p core n).fill with
  | none => s
  | some f => f.later.foldl (fun s o => s.sendFillPart p core n o f) (s.modFill p core n fun f => { f with later := [] })

/-- Make a context LOADING and fill it from an image, with the segment registers from a table if there is one: a number for the `start`, and
one for each of the seven parts that there can be. -/
def fillContext (s : State) (p core n img : Nat) (segt : Option Nat) (region : Option Nat) (asid : Nat)
    (unit : BitVec 24 × BitVec 24 × BitVec 24) : State :=
  let order := s.nextAccess
  let s := { s with nextAccess := order + 8, nextSeq := s.nextSeq + 1 }
  let s := s.modContext p core n fun c =>
    { state := .loading, gen := c.gen + 1, uid := s.nextSeq, lastIssue := c.lastIssue, asid := asid, rv := region.isSome,
      handle := BitVec.ofNat 10 (region.getD 0), wuX := unit.1, wuY := unit.2.1, wuZ := unit.2.2,
      fill := some { order := order, addr := img, todo := fillParts segt, segt := segt } }
  s.sendFill p core n

/-! ## Contexts that become FREE (R218, R220, R222) -/

/-- Put a thread that has travelled into a context, which becomes LOADING; of a crossing, its entry takes the thread's new
identifier (R342). -/
def loadTraveller (s : State) (p core n : Nat) (t : Traveller) : State :=
  let s := s.modContext p core n fun c => { t.ctx with
    state := .loading, gen := c.gen + 1, fill := none, lastIssue := c.lastIssue,
    crossing := match t.crossing with | some k => some k | none => t.ctx.crossing }
  match t.crossing with
  | none => s
  | some k =>
    let s := s.modPart p fun P => match P.crossings.find? k with
      | none => P
      | some x => { P with crossings := P.crossings.put k { x with newTid := some (core * 16 + n) } }
    s.settleTransit p core k (core * 16 + n)

/-- Put a thread whose spill slot cannot be written or read into a context and halt it there (R117, R220). -/
def haltTraveller (s : State) (p core n : Nat) (t : Traveller) (cause va : Nat) : State :=
  (s.loadTraveller p core n t).haltThread p core n .fillref cause va

/-- A thread's last flit is accepted: it leaves the network, and a crossing has had its last flit (R108, R344). -/
def flitsTaken (s : State) (p core k : Nat) (t : Traveller) : State :=
  let s := (s.leaveNet p (quadOfCore core)).modPart p fun P => { P with travellers := P.travellers.del k }
  match t.crossing with
  | none => s
  | some x => s.modPart p fun P => match P.crossings.find? x with
    | none => P
    | some y => { P with crossings := P.crossings.put x { y with last := true } }

/-- A context becomes FREE: a thread whose spill was refused takes it first and is halted there, which frees the context that it left, if
no crossing keeps it (R108, R220, R344); then the head of the arrival queue. The first argument bounds the contexts that so become FREE in
turn. -/
def freeChain : Nat → State → Nat → Nat → Nat → State
  | 0, s, p, core, n => s.modContext p core n fun c => { state := .free, gen := c.gen + 1, lastIssue := c.lastIssue }
  | fuel + 1, s, p, core, n =>
    let s := s.modContext p core n fun c => { state := .free, gen := c.gen + 1, lastIssue := c.lastIssue }
    let C := s.core p core
    match C.spillRefused with
    | (why, who) :: rest =>
      if n = 0 then s
      else
        let s := s.modCore p core fun C => { C with spillRefused := rest }
        match who with
        | .inr t => (s.leaveNet p (quadOfCore core)).haltTraveller p core n t why.1 why.2
        | .inl k =>
          match (s.part p).travellers.find? k with
          | none => s
          | some t =>
            let s := (s.flitsTaken p core k t).haltTraveller p core n t why.1 why.2
            if t.crossing.isSome then s else freeChain fuel s p (coreOf t.origin) (ctxOf t.origin)
    | [] =>
      match C.queue with
      | [] => s
      | t :: rest => if n = 0 then s else (s.modCore p core fun C => { C with queue := rest }).loadTraveller p core n t

/-- A context becomes FREE. -/
def freeContext (s : State) (p core n : Nat) : State := freeChain ((s.part p).travellers.length + 1) s p core n

/-- The lowest FREE context among 1 to 15 of a core. -/
def lowestFree (s : State) (p core : Nat) : Option Nat :=
  (List.range' 1 15).find? fun n => decide ((s.context p core n).state = .free)

end State
end Sys2Proof.Machine
end

