-- ==== Sys2Proof/Machine/System.lean ====
section
/-!
DEFINITION. The system instructions (R110, R115, R116): `nop`, `trap`, `brk`, `rett`, control registers, and the trap of a
word that is no instruction (R63).
-/
namespace Sys2Proof.Machine

/-! ## Control registers (R110) -/

/-- The value that `crd` returns, with the state after a reading of `DTIME`, which a deterministic partition records (R119; log 113). In the shadow set a register that the set does not hold
reads as the missed thread's (log 91). -/
def State.crValue (s : State) (cr : Nat) : State × Word64 :=
  let c := s.ctx
  match cr with
  | 0x00 => (s, c.pc.setWidth 64 <<< 2)
  | 0x01 => (s, c.flags.setWidth 64)
  | 0x02 => (s, c.tvec.setWidth 64 <<< 2)
  | 0x03 => (s, c.tepc.setWidth 64 <<< 2)
  | 0x04 => (s, c.tcause.setWidth 64)
  | 0x05 => (s, c.tval)
  | 0x06 => (s, (c.vwinSize ++ c.vwinBase).setWidth 64)
  | 0x07 => (s, c.posY ++ c.posX)
  | 0x08 => (s, c.posZ.signExtend 64)
  | 0x09 => (s, (c.wuY ++ c.wuX).setWidth 64)
  | 0x0A => (s, c.wuZ.setWidth 64)
  | 0x0B => (s, BitVec.ofNat 64 s.curTid)
  | 0x0C => (s, BitVec.ofNat 64 c.batchBits)
  | 0x0D => let (s, t) := s.readDtime (calderaOf s.quadNo) 0; (s.recordDet s.cur.part 6 c.pc, dtimeWord t)
  | 0x0E => (s, s.curPart.dcause)
  | 0x0F => (s, s.curPart.conflict)
  | 0x10 => (s, s.guardWord s.cur.part s.cur.core)
  | 0x11 => (s, (c.partialBytes ++ BitVec.ofBool (decide (s.cur.ctx = 0)) ++ BitVec.ofBool c.wake ++ BitVec.ofBool c.inh).setWidth 64)
  | 0x12 => (s, s.curCore.hmask.setWidth 64)
  | _ => (s, 0)

/-- A write of `GUARDLOG` (R143): CLR, then SETG over a range of granules. -/
def Core.guardCommand (C : Core) (v : Word64) : Core :=
  let C := if v.getLsbD 63 then { C with guardLog := { pend := C.guardLog.pend } } else C
  if v.getLsbD 62 then
    let first := bitsOf v.toNat 9 0
    let last := bitsOf v.toNat 19 10
    { C with guarded := (List.range (last + 1 - first)).foldl (fun g i =>
        if v.getLsbD 61 then NSet.add g (first + i) else NSet.del g (first + i)) C.guarded }
  else C

namespace State

/-- `crd` (R116): `FLAGS` waits for the thread's vector results (R287). -/
def readControl (s : State) (d : Reg) (cr : BitVec 6) : Step := do
  s.free d
  if cr = 1 ∧ s.vectorPending s.cur.part s.curTid s.ctx.gen then throw (.park s .array)
  let (t, v) := s.crValue cr.toNat
  pure ((t.write d v).advance 4)

/-- `cwr` of `VWIN` (R285): it waits for the results of the thread's vector instructions, loads among them (log 39). -/
def writeWindow (s : State) (v : Word64) : Step :=
  if s.vectorPending s.cur.part s.curTid s.ctx.gen then .error (.park s .array)
  else match s.windowPending with
    | some r => .error (.park s (.vsettled r))
    | none => .ok (s.grantWindow (bitsOf v.toNat 10 5))

/-- `cwr` (R116): the write in the bits that R110 names. -/
def writeControl (s : State) (cr : BitVec 6) (a : Reg) (word : Word64) : Step := do
  if cr = 0x10 ∧ (s.cur.ctx ≠ 0 ∨ s.cur.shadow) then throw (.trap causePrivilege word)
  s.ready [a]
  let v := s.val a
  if cr = 2 ∧ v.toNat % 4 ≠ 0 then throw (.trap causeAlign v)
  let s ← match cr.toNat with
    | 0x01 => pure (s.modCtx fun c => { c with flags := v.setWidth 6 })
    | 0x02 => pure (s.modCtx fun c => { c with tvec := v.extractLsb' 2 50 })
    | 0x03 => pure (s.modCtx fun c => { c with tepc := v.extractLsb' 2 50, partialBytes := 0, index := none })
    | 0x04 => pure (s.modCtx fun c => { c with tcause := v.setWidth 5 })
    | 0x05 => pure (s.modCtx fun c => { c with tval := v })
    | 0x06 => s.writeWindow v
    | 0x10 => pure (s.modCurCore fun C => C.guardCommand v)
    | _ => pure s
  pure ((s.consume [a]).advance 4)

end State

/-- The first word of an instruction, as a trap's value. -/
def firstWord (i : Instr) : Word64 := ((encode i).headD 0).setWidth 64

/-! ## The instructions -/

def execNop (s : State) : Out := .next (s.settle (.ok (s.advance 4)))
/-- R115: TEPC is the instruction after the `trap` (R111). -/
def execTrap (code : BitVec 6) (s : State) : Out :=
  .next (s.takeTrap causeTrap (code.setWidth 64) (s.ctx.pc + 1)).endWalks
/-- R115: with debug halt set for the partition, the thread halts and no trap is delivered; in the shadow set a `brk` is a trap of
the handler all the same (R105; log 92). -/
def execBrk (code : BitVec 6) (s : State) : Out :=
  if (s.func s.cur.part).debug && !s.cur.shadow then
    .next ((s.modCtx fun c => { c with tepc := c.pc, tval := code.setWidth 64 }).haltThread s.cur.part s.cur.core s.cur.ctx
      .brk causeBrk code.toNat).endWalks
  else .next (s.settle (.error (.trap causeBrk (code.setWidth 64))))
/-- R115: outside a handler `rett` is illegal; the shadow set has no INH. -/
def execRett (s : State) : Out :=
  if s.ctx.inh && !s.cur.shadow then .next s.returnTrap.endWalks
  else .next (s.settle (.error (.trap causeIllegal (firstWord .rett))))
def execCrd (d : Reg) (cr : BitVec 6) (s : State) : Out := .next (s.settle (s.readControl d cr))
def execCwr (cr : BitVec 6) (a : Reg) (s : State) : Out :=
  .next (s.settle (s.writeControl cr a (firstWord (.cwr cr a))))
/-- A word that is no instruction (R63). -/
def execIllegalInstruction (word : Word32) (s : State) : Out :=
  .next (s.settle (.error (.trap causeIllegal (word.setWidth 64))))

end Sys2Proof.Machine
end

