-- ==== Sys2Proof/Machine/Context.lean ====
section
/-!
DEFINITION. The context instructions (R113, R117, R118): `start`, `reap`, `exit`, `park`, `wake`, `yield`, `arm` and `put`.
-/
namespace Sys2Proof.Machine

/-- All ones: nothing was started, or nothing to reap. -/
def allOnes : Word64 := BitVec.allOnes 64

/-- The reap record (R117). -/
def Ctx.reapRecord (c : Ctx) : Word64 :=
  BitVec.ofNat 64 (c.haltCause.toNat * 2 ^ 36 + c.haltReason.code * 2 ^ 32 + c.haltValue.toNat)

namespace State

/-- Whether the thread at hand is context zero; the shadow set has no context number (R105). -/
def isZero (s : State) : Bool := decide (s.cur.ctx = 0) && !s.cur.shadow

/-- Whether a context of the core of the thread at hand is FREE. -/
def isFree (s : State) (n : Nat) : Bool := decide ((s.context s.cur.part s.cur.core n).state = .free)

/-- The context that `start` takes: the one named, or for 0 the lowest FREE one of 1 to 15 (R117). -/
def startTarget (s : State) (n : Nat) : Option Nat :=
  if n = 0 then (List.range' 1 15).find? s.isFree else if s.isFree n then some n else none

/-- `start` (R117): the image is the one that gB names, or the current region's (R237, R244). -/
def startBody (s : State) (d a b : Reg) (word : Word64) : Step := do
  if !s.isZero then throw (.trap causePrivilege word)
  s.ready [a, b]
  s.free d
  s.acquired
  if 16 ≤ (s.val a).toNat then throw (.trap causeOperand (s.val a))
  let C := s.curCore
  let own := s.val b = 0
  let img := if own then BitVec.ofNat 64 C.curImage else s.val b
  if img.toNat % 64 ≠ 0 ∨ 2 ^ 52 ≤ img.toNat then throw (.trap causeAlign img)
  let n? := s.startTarget (s.val a).toNat
  let s := s.consume [a, b]
  match n? with
  | none => pure ((s.write d allOnes).advance 4)
  | some n =>
    let region := if (s.curPart.regions.find? C.curRegion).isSome then some C.curRegion else none
    let segt := if own ∧ C.curSegt ≠ 0 then some C.curSegt else none
    let s := s.fillContext s.cur.part s.cur.core n img.toNat segt region C.curAsid (C.curX, C.curY, C.curZ)
    pure ((s.write d (BitVec.ofNat 64 n)).advance 4)

/-- `reap` (R117): it parks until the context has halted and its operations have merged their flags. -/
def reapBody (s : State) (d a : Reg) (word : Word64) : Step := do
  if !s.isZero then throw (.trap causePrivilege word)
  s.ready [a]
  s.free d
  let n := (s.val a).toNat
  if n < 1 ∨ 15 < n then throw (.trap causeOperand (s.val a))
  let c := s.context s.cur.part s.cur.core n
  if c.state = .free then pure (((s.consume [a]).write d allOnes).advance 4)
  else if c.state ≠ .halted ∨ s.mergePending s.cur.part (s.cur.core * 16 + n) c.gen then throw (.park s (.halted n))
  else
    let s := ((s.consume [a]).write d c.reapRecord).advance 4
    let s := s.modCurCore fun C => { C with hmask := C.hmask &&& ~~~ BitVec.ofNat 16 (2 ^ n) }
    pure (s.freeContext s.cur.part s.cur.core n)

/-- An instruction by which a thread leaves its context has no place in the shadow set, which has none (R105). -/
def ownContext (s : State) (word : Word64) : Except Stop Unit :=
  if s.cur.shadow then .error (.trap causeIllegal word) else .ok ()

/-- `exit` (R118): reports are delivered first (R144) and after the wait (R316). -/
def exitBody (s : State) (a : Reg) (word : Word64) : Step := do
  s.ownContext word
  if s.isZero then throw (.trap causePrivilege word)
  s.guardReport
  s.ready [a]
  let s ← s.quiesce false
  s.errorReport
  let v := (s.val a).toNat
  pure (s.haltThread s.cur.part s.cur.core s.cur.ctx .exit 0 v)

/-- `put` (R118, R102, R224): the register and the thread that gA names. -/
def putBody (s : State) (a b : Reg) : Step := do
  s.ready [a, b]
  let v := (s.val a).toNat
  if 2 ^ 23 ≤ v ∨ !s.curPart.hasCore (coreOf (v % 2 ^ 19)) then throw (.trap causeOperand (s.val a))
  s.acquired
  if 8 ≤ s.portUsed s.cur.part s.cur.core then throw (.park s .portRoom)
  pure (((s.consume [a, b]).sendDeposit (v % 2 ^ 19) (Fin.ofNat 16 (v / 2 ^ 19)) (s.val b) none).advance 4)

end State

def execStart (d a b : Reg) (s : State) : Out := .next (s.settle (s.startBody d a b (firstWord (.start d a b))))
def execReap (d a : Reg) (s : State) : Out := .next (s.settle (s.reapBody d a (firstWord (.reap d a))))
def execExit (a : Reg) (s : State) : Out := .next (s.settle (s.exitBody a (firstWord (.exit a))))
/-- R118: a pending wake is taken; otherwise the thread parks past the instruction. -/
def execPark (s : State) : Out :=
  let t := (s.advance 4).endWalks
  .next (if s.ctx.wake then t.modCtx fun c => { c with wake := false } else t.park .byPark)
/-- R118: the target is one of the core's own contexts. -/
def execWake (a : Reg) (s : State) : Out :=
  .next (s.settle (do
    s.ready [a]
    pure (((s.consume [a]).advance 4).wakeContext s.cur.part s.cur.core ((s.val a).toNat % 16))))
/-- R118: in deterministic mode `yield` is a `nop`. -/
def execYield (s : State) : Out :=
  .next (s.settle (.ok ((if s.curPart.det then s else s.modCtx fun c => { c with yielded := true }).advance 4)))
/-- R118: a pending result is awaited first. -/
def execArm (d : Reg) (s : State) : Out :=
  .next (s.settle (
    if (s.reg d).pending then .error (.park s (.settled d))
    else .ok ((s.setReg d { val := s.val d, full := false, armed := true, poison := none }).advance 4)))
def execPut (a b : Reg) (s : State) : Out := .next (s.settle (s.putBody a b))

end Sys2Proof.Machine
end

