-- ==== Sys2Proof/Machine/Access.lean ====
section
/-!
DEFINITION. The scalar memory instructions (R168 to R172, R176, R179): `ld`, `st` and their ordered and literal forms,
`segld`, `segst` and `segset`.
-/
namespace Sys2Proof.Machine

/-- The bytes of a size code (R60). -/
def sizeBytes (size : Fin 4) : Nat := 2 ^ size.val

/-- Loaded bytes as a register's value (R171). -/
def extendBytes (ext : Ext) (bytes : List Byte) : Word64 :=
  let n := natOfBytes bytes
  match ext with
  | .zero => BitVec.ofNat 64 n
  | .sign => BitVec.ofInt 64 (signedOf (8 * bytes.length) n)

namespace State

/-- An access to the scratchpad is a release's own: it waits for the earlier accesses in its scope at its issue (R87, R93). -/
def localRelease (s : State) (rel : Option Scope) : Except Stop Unit :=
  match rel with
  | none => .ok ()
  | some sc =>
    if s.pendingBefore s.cur.part s.issuer s.cur.core s.nextAccess (some sc) then .error (.park s (.earlier (some sc))) else .ok ()

/-- Whether a physical address lies in the sink area of an open stream (R357, R367), each page as its bytes are placed (R325). -/
def inSink (s : State) (pa : Nat) : Bool :=
  s.windows.streams.any fun x => match x.2.opened with
    | some o => o.pages.any fun b => decide (b.1 / blockBytes = pa / blockBytes) &&
        (List.range 64).any fun i => decide ((s.placed b.2 (b.1 + 64 * i)).2 / 64 = pa / 64)
    | none => false

/-- A load of a sink page is recorded in deterministic mode (R367); a `cas` that fails, at its home (R99). -/
def noteSinkLoad (s : State) (pa : Nat) : State :=
  if s.inSink pa then s.recordDet s.cur.part 7 s.ctx.pc else s

/-- A load (R172) at a signed offset. -/
def loadBody (s : State) (len : Nat) (size : Fin 4) (sx : Bool) (seg : Seg) (d a : Reg) (disp : Int) (acq : Bool) : Step := do
  let n := sizeBytes size
  let ext := if sx then Ext.sign else Ext.zero
  s.ready [a]
  s.free d
  s.acquired
  let g := s.seg seg
  let addr ← g.check (sOff (s.val a) + disp) n rightR
  aligned addr n
  if g.isK then
    let (t, bytes, poison) := s.spadLoad s.cur.part s.cur.core s.cur.ctx addr n
    let k := match poison with
      | some l => LocalKind.regPoison d l
      | none => .reg d (extendBytes ext bytes)
    pure ((((t.consume [a]).writePending d).answerAccess 4 k).advance len)
  else
    let (t, ph) ← s.translate 1 true addr n
    let t := t.noteSinkLoad ph.pa
    pure ((((t.consume [a]).writePending d).issueAccess (t.access (.load (.reg d ext)) ph addr n none) acq).advance len)

/-- A store (R172): the data are read at issue. -/
def storeBody (s : State) (len : Nat) (size : Fin 4) (seg : Seg) (d a : Reg) (disp : Int) (rel : Option Scope) : Step := do
  let n := sizeBytes size
  s.ready [a, d]
  s.acquired
  let g := s.seg seg
  let addr ← g.check (sOff (s.val a) + disp) n rightW
  aligned addr n
  let bytes := bytesOfNat n (s.val d).toNat
  if g.isK then
    s.localRelease rel
    pure (((s.spadStore s.cur.part s.cur.core s.cur.ctx addr bytes s.ctx.pc).consume [a, d]).advance len)
  else
    let (t, ph) ← s.translate 2 false addr n
    pure (((t.consume [a, d]).issueAccess (t.access (.store bytes false) ph addr n rel) false).advance len)

/-- `segld` (R179): the thread parks until the descriptor has come; a poisoned one traps and leaves sD unchanged. -/
def segldBody (s : State) (d : Seg) (a : Reg) (seg : Seg) : Step :=
  let finish (t : State) (v : Nat) : State :=
    (t.modCtx fun c => { c with segs := c.segs.set d (segmentOf v), code := if d = 7 then none else c.code }).advance 4
  match s.ctx.phase, s.ctx.reply with
  | .asked _, some r =>
    match r.poison with
    | some l => trapN causePoison l
    | none => .ok (finish (s.consume [a]) (natOfBytes r.bytes))
  | .asked _, none => .error (.park s .reply)
  | _, _ => do
    s.ready [a]
    s.acquired
    let g := s.seg seg
    let addr ← g.check (sOff (s.val a)) 16 rightR
    aligned addr 16
    if g.isK then
      let (t, bytes, poison) := s.spadLoad s.cur.part s.cur.core s.cur.ctx addr 16
      match poison with
      | some l => trapN causePoison l
      | none => pure (finish (t.consume [a]) (natOfBytes bytes))
    else
      let (t, ph) ← s.translate 1 true addr 16
      let t := t.noteSinkLoad ph.pa
      let t := t.issueAccess (t.access (.load (.reply 0)) ph addr 16 none) false
      .error (.park (t.modCtx fun c => { c with phase := .asked 1 }) .reply)

/-- `segst` (R179). -/
def segstBody (s : State) (d : Seg) (a : Reg) (seg : Seg) : Step := do
  s.ready [a]
  s.acquired
  let g := s.seg seg
  let addr ← g.check (sOff (s.val a)) 16 rightW
  aligned addr 16
  let bytes := bytesOfNat 16 (s.seg d).bits
  if g.isK then
    pure (((s.spadStore s.cur.part s.cur.core s.cur.ctx addr bytes s.ctx.pc).consume [a]).advance 4)
  else
    let (t, ph) ← s.translate 2 false addr 16
    pure (((t.consume [a]).issueAccess { t.access (.store bytes false) ph addr 16 none with plain := false } false).advance 4)

/-- `segset` (R179). -/
def segsetBody (s : State) (d : Seg) (a b c : Reg) : Step := do
  s.ready [a, b, c]
  if 2 ^ 52 ≤ (s.val a).toNat then throw (.trap causeOperand (s.val a))
  if 2 ^ 40 ≤ (s.val b).toNat then throw (.trap causeOperand (s.val b))
  if 2 ^ 7 ≤ (s.val c).toNat then throw (.trap causeOperand (s.val c))
  let g : Segment := { base := (s.val a).setWidth 52, limit := (s.val b).setWidth 40, rights := (s.val c).setWidth 7 }
  pure (((s.consume [a, b, c]).modCtx fun x => { x with segs := x.segs.set d g, code := if d = 7 then none else x.code }).advance 4)

end State

/-- An unordered offset (R168). -/
def scaledOff (size : Fin 4) (off : BitVec 8) : Int := off.toInt * sizeBytes size

def execLd (size : Fin 4) (sx : Bool) (seg : Seg) (d a : Reg) (off : BitVec 8) (s : State) : Out :=
  .next (s.settle (s.loadBody 4 size sx seg d a (scaledOff size off) false))
def execLdLit (size : Fin 4) (sx : Bool) (seg : Seg) (d a : Reg) (lit : Word64) (s : State) : Out :=
  .next (s.settle (s.loadBody 12 size sx seg d a lit.toInt false))
/-- The scope of an acquire limits no later access (R94). -/
def execLdAcq (_ : Scope) (size : Fin 4) (sx : Bool) (seg : Seg) (d a : Reg) (off : BitVec 8) (s : State) : Out :=
  .next (s.settle (s.loadBody 12 size sx seg d a (scaledOff size off) true))
def execLdAcqLit (_ : Scope) (size : Fin 4) (sx : Bool) (seg : Seg) (d a : Reg) (lit : Word64) (s : State) : Out :=
  .next (s.settle (s.loadBody 20 size sx seg d a lit.toInt true))
def execSt (size : Fin 4) (seg : Seg) (d a : Reg) (off : BitVec 8) (s : State) : Out :=
  .next (s.settle (s.storeBody 4 size seg d a (scaledOff size off) none))
def execStLit (size : Fin 4) (seg : Seg) (d a : Reg) (lit : Word64) (s : State) : Out :=
  .next (s.settle (s.storeBody 12 size seg d a lit.toInt none))
def execStRel (scope : Scope) (size : Fin 4) (seg : Seg) (d a : Reg) (off : BitVec 8) (s : State) : Out :=
  .next (s.settle (s.storeBody 12 size seg d a (scaledOff size off) (some scope)))
def execStRelLit (scope : Scope) (size : Fin 4) (seg : Seg) (d a : Reg) (lit : Word64) (s : State) : Out :=
  .next (s.settle (s.storeBody 20 size seg d a lit.toInt (some scope)))
def execSegld (d : Seg) (a : Reg) (seg : Seg) (s : State) : Out := .next (s.settle (s.segldBody d a seg))
def execSegst (d : Seg) (a : Reg) (seg : Seg) (s : State) : Out := .next (s.settle (s.segstBody d a seg))
def execSegset (d : Seg) (a b c : Reg) (s : State) : Out := .next (s.settle (s.segsetBody d a b c))

end Sys2Proof.Machine
end

