-- ==== Sys2Proof/Machine/Atomics.lean ====
section
/-!
DEFINITION. Atomics, reductions and waits on a word (R191 to R197), fences (R95, R96, R198, R199), and the steps that end a
watch or write lines back.
-/
namespace Sys2Proof.Machine

/-- What an `amo` or `cas` returns of the old word (R192, R193). -/
def oldWord (float : Bool) (w : Width) (old : Nat) : Word64 :=
  if float then BitVec.ofNat 64 old else BitVec.ofInt 64 (signedOf w.bits old)

/-- The cycles that a watch is held at most (R196). -/
def watchCycles : Nat := 1048576

namespace State

/-- The checks of an atomic access (R191): its address. -/
def atomicAddr (s : State) (seg : Seg) (a : Reg) (n : Nat) (right : BitVec 7) : Except Stop Nat := do
  let addr ← (s.seg seg).check (sOff (s.val a)) n right
  aligned addr n
  pure addr

/-- An atomic on a scratchpad word (R141, R142, R399): the word's new value from its old one, none when it is not written;
the old value, or the poisoned line that discards the operation. -/
def localAtomic (s : State) (addr n : Nat) (f : Nat → Option Nat) : State × Nat × Option Nat :=
  let p := s.cur.part
  let core := s.cur.core
  let s := s.useBanks p core addr n
  match s.firstGuarded p core addr n with
  | some g => (s.logGuard p core s.cur.ctx g true, 0, none)
  | none =>
    match s.spadPoisoned p core addr n with
    | some l => (s, 0, some l)
    | none =>
      let old := natOfBytes (s.spadBytes p core addr n)
      match f old with
      | some v => (s.putSpad p core addr (bytesOfNat n v) s.ctx.pc, old, none)
      | none => (s, old, none)

/-- An atomic that returns the old word, at its home or in the scratchpad. -/
def atomicBody (s : State) (len : Nat) (h : Header) (w : Width) (seg : Seg) (d a : Reg) (srcs : List Reg) (kind : AccKind)
    (float : Bool) (f : Nat → Option Nat) : Step := do
  s.ready srcs
  s.free d
  s.acquired
  let n := w.bits / 8
  let addr ← s.atomicAddr seg a n rightA
  let rel := if h.rel then some h.scope else none
  if (s.seg seg).isK then
    s.localRelease rel
    let (t, old, poison) := s.localAtomic addr n f
    let k := match poison with
      | some l => LocalKind.regPoison d l
      | none => .reg d (oldWord float w old)
    pure ((((t.consume srcs).writePending d).answerAccess 4 k).advance len)
  else
    let (t, ph) ← s.translate 3 false addr n
    pure ((((t.consume srcs).writePending d).issueAccess (t.access kind ph addr n rel) h.acq).advance len)

/-- `amo` (R192). -/
def amoBody (s : State) (len : Nat) (h : Header) (op : AmoOp) (w : Width) (seg : Seg) (d a b : Reg) : Step :=
  s.atomicBody len h w seg d a [a, b] (.amo op w (s.val b) d) (decide (op = .fadd)) fun old =>
    some (atomicOp op w.bits old ((s.val b).toNat % 2 ^ w.bits))

/-- `cas` (R193): the expected value is read from gD. -/
def casBody (s : State) (len : Nat) (h : Header) (w : Width) (seg : Seg) (d a b : Reg) : Step :=
  s.atomicBody len h w seg d a [a, b, d] (.cas w (s.val d) (s.val b) d) false fun old =>
    if old = (s.val d).toNat % 2 ^ w.bits then some ((s.val b).toNat % 2 ^ w.bits) else none

/-- `red` (R194). -/
def redBody (s : State) (len : Nat) (rel : Option Scope) (op : AmoOp) (w : Width) (seg : Seg) (a b : Reg) : Step := do
  s.ready [a, b]
  s.acquired
  let n := w.bits / 8
  let addr ← s.atomicAddr seg a n rightA
  if (s.seg seg).isK then
    s.localRelease rel
    let (t, _, _) := s.localAtomic addr n fun old => some (atomicOp op w.bits old ((s.val b).toNat % 2 ^ w.bits))
    pure ((t.consume [a, b]).advance len)
  else
    let (t, ph) ← s.translate 3 false addr n
    pure (((t.consume [a, b]).issueAccess (t.access (.red op w (s.val b)) ph addr n rel) false).advance len)

/-- The local watch of the thread at hand (R197), if it holds one. -/
def localWatch (s : State) : Option Nat :=
  (s.accesses.first? fun _ x =>
    x.spad && decide (x.part = s.cur.part ∧ x.issuer = s.issuer) && (match x.stage with | .watch _ => true | _ => false)).map Prod.fst

/-- `waitw` (R196, R197): the answer goes to gD and gD+1. A context holds one local watch: that a second one, whose word is equal too,
waits until the first is answered is the model's choice (log 124). -/
def waitwBody (s : State) (len : Nat) (acq : Bool) (w : Width) (seg : Seg) (d a b : Reg) : Step := do
  let d1 : Reg := Fin.ofNat 16 (d.val + 1)
  s.ready [a, b]
  s.free d
  s.free d1
  s.acquired
  let n := w.bits / 8
  let addr ← s.atomicAddr seg a n rightR
  let e := (s.val b).toNat % 2 ^ w.bits
  let kind := AccKind.waitw w (s.val b) d
  if (s.seg seg).isK then
    let (t, bytes, poison) := s.spadLoad s.cur.part s.cur.core s.cur.ctx addr n
    let v := natOfBytes bytes
    let t := ((t.consume [a, b]).writePending d).writePending d1
    match poison with
    | some l => pure (((t.answerAccess 4 (.regPoison d l)).answerAccess 4 (.regPoison d1 l)).advance len)
    | none =>
      if v ≠ e then pure (((t.answerAccess 4 (.reg d (BitVec.ofNat 64 v))).answerAccess 4 (.reg d1 0)).advance len)
      else
        if let some id := s.localWatch then throw (.park s (.access id))
        let id := t.nextAccess
        let x := { t.access kind ⟨addr, false⟩ addr n none with spad := true, dst := t.quadNo, bound := id, stage := .watch t.now }
        let t := ({ t with nextAccess := id + 1 } : State).setAccess id x
        let t := if acq then t.modCtx fun c => { c with acquiring := NSet.add c.acquiring id } else t
        pure (t.advance len)
  else
    let (t, ph) ← s.translate 1 false addr n
    pure (((((t.consume [a, b]).writePending d).writePending d1).issueAccess (t.access kind ph addr n none) acq).advance len)

/-- The watch of a `waitw` runs out (R196): the answer is TIMEOUT with the current word, recorded in deterministic mode. Of a line that has
become poisoned meanwhile the word is that of its bytes (log 138). -/
def watchTimeout (s : State) (id : Nat) : State :=
  match s.accesses.find? id with
  | none => s
  | some x =>
    match x.kind, x.stage with
    | .waitw .., .watch since =>
      if !s.live x.part || decide ((s.part x.part).cycle < since + watchCycles) then s
      else
        let v := if x.spad then
            (if (s.firstGuarded x.part x.issuerCore x.pa x.size).isSome then 0 else natOfBytes (s.spadBytes x.part x.issuerCore x.pa x.size))
          else natOfBytes (s.readMem x.pa x.size)
        (s.recordDet x.part 1 (BitVec.ofNat 50 x.pc)).sendAnswer id (.status (BitVec.ofNat 64 v) 2)
    | _, _ => s

/-! ## Fences -/

/-- `fence` (R95): it waits for the earlier accesses in its scope; the stored words that it covers are fetched new (R66). -/
def fenceBody (s : State) (sc : Scope) : Step :=
  if s.pendingBefore s.cur.part s.issuer s.cur.core s.nextAccess (some sc) then .error (.park s (.earlier (some sc)))
  else .ok ((s.fenceStale s.cur.part s.ctx.uid s.cur.core sc).advance 4)

/-- Whether an `mvb` of a thread is not complete, or a sum of one is not answered (R96), be it one that the thread issued under an
identifier that it has left (R332). -/
def sumsPending (s : State) (p tid : Nat) : Bool :=
  let u := (s.threadCtx p tid).uid
  ((s.quad p (quadOfCore (coreOf tid))).vents.any fun v => decide (v.2.uid = u)) ||
    s.accesses.any fun x => decide (x.2.part = p ∧ x.2.uid = u) && (match x.2.issuer with | .vent _ _ => true | _ => false)

/-- Whether a write-back request of a thread is not answered. -/
def writeBacksPending (s : State) (p tid : Nat) : Bool :=
  s.accesses.any fun x => decide (x.2.part = p ∧ x.2.tid = tid) && (match x.2.kind with | .writeback => true | _ => false)

/-- Every home slice inside a scope (R91, R96), whichever partition holds its quad (log 132). -/
def homesIn (s : State) (sc : Scope) (core : Nat) : List Nat :=
  (List.range 8192).filter fun q => quadInScope s.firmware.hops1 s.firmware.hops2 sc core q

/-- `bfence` (R96, R199): the fence, the sums of earlier `mvb` commands, and then the write-backs. -/
def bfenceBody (s : State) (sc : Scope) : Step :=
  let finish (t : State) : State := (t.fenceStale s.cur.part s.ctx.uid s.cur.core sc).advance 4
  if s.ctx.phase = .bank then
    if s.writeBacksPending s.cur.part s.curTid then .error (.park s .writeBacks) else .ok (finish s)
  else if s.pendingBefore s.cur.part s.issuer s.cur.core s.nextAccess (some sc) then .error (.park s (.earlier (some sc)))
  else if s.sumsPending s.cur.part s.curTid then .error (.park s .bankSums)
  else
    match s.homesIn sc s.cur.core with
    | [] => .ok (finish s)
    | homes =>
      let t := homes.foldl (fun t q =>
        t.sendAccess { t.access .writeback ⟨q * vaultBytes, true⟩ 0 0 none with dst := q }) s
      .error (.park (t.modCtx fun c => { c with phase := .bank }) .writeBacks)

/-- A home applies a write-back request (R96): its dirty lines enter the banks and are clean, those of `ROWBLOCK` pages and, as a slice
cache may write back any line at any time (R97), the others with them (log 34); but those of another partition that is deterministic it
leaves to that one's vents (R16; log 150). The request does not contend at the slice's input (R212,
R213; log 127). -/
def writeBack (s : State) (id : Nat) : State :=
  match s.accesses.find? id with
  | none => s
  | some x =>
    match x.kind, x.stage with
    | .writeback, .home => (s.cleanLines fun l => decide (homeOf (l * 64) = x.dst) && (decide (s.lineOwner l = x.part) || !s.detLine l)).sendAnswer id .ack
    | _, _ => s

end State

def execAmo (op : AmoOp) (w : Width) (seg : Seg) (d a b : Reg) (s : State) : Out :=
  .next (s.settle (s.amoBody 4 .none op w seg d a b))
def execAmoOrdered (h : Header) (op : AmoOp) (w : Width) (seg : Seg) (d a b : Reg) (s : State) : Out :=
  .next (s.settle (s.amoBody 12 h op w seg d a b))
def execCas (w : Width) (seg : Seg) (d a b : Reg) (s : State) : Out := .next (s.settle (s.casBody 4 .none w seg d a b))
def execCasOrdered (h : Header) (w : Width) (seg : Seg) (d a b : Reg) (s : State) : Out :=
  .next (s.settle (s.casBody 12 h w seg d a b))
def execRed (op : AmoOp) (w : Width) (seg : Seg) (a b : Reg) (s : State) : Out :=
  .next (s.settle (s.redBody 4 none op w seg a b))
def execRedRel (scope : Scope) (op : AmoOp) (w : Width) (seg : Seg) (a b : Reg) (s : State) : Out :=
  .next (s.settle (s.redBody 12 (some scope) op w seg a b))
def execWaitw (w : Width) (seg : Seg) (d a b : Reg) (s : State) : Out := .next (s.settle (s.waitwBody 4 false w seg d a b))
/-- The scope of an acquire limits no later access (R94). -/
def execWaitwAcq (_ : Scope) (w : Width) (seg : Seg) (d a b : Reg) (s : State) : Out :=
  .next (s.settle (s.waitwBody 12 true w seg d a b))
def execWaitwTimeout (id : Nat) (s : State) : Out := .next (s.watchTimeout id)
def execFence (scope : Scope) (s : State) : Out := .next (s.settle (s.fenceBody scope))
def execBfence (scope : Scope) (s : State) : Out := .next (s.settle (s.bfenceBody scope))
def execWritebackRequest (id : Nat) (s : State) : Out := .next (s.writeBack id)
/-- R97: a line that the slice cache evicts is written back. -/
def execSliceCacheEviction (line : Nat) (s : State) : Out := .next (s.cleanLines fun l => decide (l = line))

end Sys2Proof.Machine
end

