-- ==== Sys2Proof/Machine/Barrier.lean ====
section
/-!
DEFINITION. Barriers and the quiesce probe (R200 to R207): `bar`, `qprobe`, an arrival at an entry, and the end of a circuit.
-/
namespace Sys2Proof.Machine

namespace State

/-! ## Results that reach a register later -/

/-- Whether a result may be written: one for an output channel, which sends it as a deposit, waits for an acquire of the thread
other than `own` (R94) and for room in the port (R224). -/
def maySend (s : State) (p tid : Nat) (shadow : Bool) (d : Reg) (own : Option Nat) : Bool :=
  let c := s.threadCtx p tid
  shadow || match c.chans.find? d.val with
    | some ch => decide (ch.dir ≠ ChanDir.out) || ((c.acquiring.all fun id => some id == own) && decide (s.portUsed p (coreOf tid) < 8))
    | none => true

/-- A result reaches a register of a thread, while the context is still that thread's: the register is full, and a register
mapped to an output channel sends the value (R106, R225), once it may. -/
def deliver (s : State) (p tid gen : Nat) (shadow : Bool) (d : Reg) (v : Word64) : State :=
  if (s.threadCtx p tid).gen ≠ gen then s
  else if s.maySend p tid shadow d none then s.asThread p tid shadow fun s => s.write d v
  else s.modQuad p (quadOfCore (coreOf tid)) fun Q => { Q with locals := Q.locals ++
    [{ tid := tid, shadow := shadow, gen := gen, due := (s.part p).cycle, kind := .reg d v }] }

/-- A poisoned answer leaves the register empty; its reader traps (R161). -/
def deliverPoison (s : State) (p tid gen : Nat) (shadow : Bool) (d : Reg) (line : Nat) : State :=
  if (s.threadCtx p tid).gen = gen then
    s.asThread p tid shadow fun s => s.setReg d { val := s.val d, full := false, armed := false, poison := some line }
  else s

/-! ## Entries -/

/-- An entry of the table of a level: the quad's own, or the caldera's. -/
def barEntry (s : State) (p tid : Nat) (atCaldera : Bool) (i : Nat) : BarEntry :=
  if atCaldera then (s.part p).bars.getD (16 * calderaOf (quadOfCore (coreOf tid)) + i) {}
  else (s.quad p (quadOfCore (coreOf tid))).bars.getD i {}

def setBarEntry (s : State) (p q : Nat) (atCaldera : Bool) (i : Nat) (e : BarEntry) : State :=
  if atCaldera then s.modPart p fun P => { P with bars := P.bars.put (16 * calderaOf q + i) e }
  else s.modQuad p q fun Q => { Q with bars := Q.bars.put i e }

/-- Answer a participant: the status and a generation (R202). -/
def answerBar (s : State) (p : Nat) (w : Waiter) (status : Nat) (gen : BitVec 16) : State :=
  s.deliver p w.tid w.gen w.shadow w.d (BitVec.ofNat 64 (status * 2 ^ 32 + gen.toNat))

/-- An entry completes (R203): every participant is answered DONE, and the entry is idle under the next generation. A drained
completion first closes the epoch of the caldera, and refreshes its views, in deterministic mode. -/
def completeBar (s : State) (p q : Nat) (atCaldera : Bool) (i : Nat) (e : BarEntry) : State :=
  let k := calderaOf q
  let s := if e.drain && (s.part p).det then (s.closeEpoch p k).refreshViews p k else s
  let s := s.setBarEntry p q atCaldera i { gen := e.gen + 1, latest := e.latest }
  e.waiters.foldl (fun s w => s.answerBar p w 0 e.gen) s

/-- ARRIVED reaches COUNT, or not yet. -/
def gatherBar (s : State) (p q : Nat) (atCaldera : Bool) (i : Nat) (e : BarEntry) : State :=
  if e.arrived < e.count then s.setBarEntry p q atCaldera i { e with state := 1 }
  else if e.drain then s.setBarEntry p q atCaldera i { e with state := 2 }
  else s.completeBar p q atCaldera i e

/-- A barrier entry takes the arrival (R203). -/
def arriveBar (s : State) (p : Nat) (a : Arrival) : State :=
  let q := quadOfCore (coreOf a.tid)
  let e := { s.barEntry p a.tid a.atCaldera a.index with latest := (s.clock + 1, a.sent, a.tid) }
  let s := s.setBarEntry p q a.atCaldera a.index e
  let w : Waiter := { tid := a.tid, gen := a.gen, shadow := a.shadow, d := a.d }
  match e.state with
  | 0 => s.gatherBar p q a.atCaldera a.index { e with count := a.count, drain := a.drain, arrived := 1, waiters := [w] }
  | 1 =>
    if e.count = a.count ∧ e.drain = a.drain then
      s.gatherBar p q a.atCaldera a.index { e with arrived := e.arrived + 1, waiters := e.waiters ++ [w] }
    else s.answerBar p w 1 e.gen
  | _ => s.answerBar p w 2 e.gen

/-- Whether an arrival would reach its entry in this cycle behind a younger one (R203, R213). -/
def barOutOfTurn (s : State) (p : Nat) (a : Arrival) : Bool :=
  let (c, sent, tid) := (s.barEntry p a.tid a.atCaldera a.index).latest
  let now := (s.part p).cycle
  decide (c = s.clock + 1) && goesBefore (messageAge now a.sent, a.tid, 1) (messageAge now sent, tid, 1)

/-! ## The quiesce probe (R205 to R207) -/

/-- The interfaces that a circuit of a caldera visits: its quads', row by row and to and fro, and the bridge port's. -/
def circuitLength : Nat := 1025
def circuitIface (k n : Nat) : Nat :=
  if n < 1024 then quadAt k (n / 32) (if n / 32 % 2 = 0 then n % 32 else 31 - n % 32) else bridgeIface k

/-- DRAINING entries of a partition on a caldera: the quad (any, for a caldera's entry), the level and the index. -/
def drainingOn (P : Partition) (k : Nat) : List (Nat × Bool × Nat) :=
  (P.quads.flatMap fun q => if calderaOf q.1 = k then
    (q.2.bars.filter fun b => decide (b.2.state = 2)).map fun b => (q.1, false, b.1) else []) ++
  ((P.bars.filter fun b => decide (b.1 / 16 = k ∧ b.2.state = 2)).map fun b => (k * 1024, true, b.1 % 16))

/-- The waiters of a caldera take part in a circuit that begins (true), or in none. -/
def countWaiters (k : Nat) (which : Bool) (P : Partition) : Partition :=
  let mark (e : BarEntry) : BarEntry := { e with counted := which && decide (e.state = 2) }
  { P with
    probes := P.probes.map fun x => if x.caldera = k then { x with counted := which } else x
    bars := P.bars.mapVal fun i e => if i / 16 = k then mark e else e
    quads := P.quads.mapVal fun q Q => if calderaOf q = k then { Q with bars := Q.bars.mapVal fun _ e => mark e } else Q }

/-- A token begins a circuit of a caldera, or visits the next interface on it (R205). -/
def moveToken (s : State) (p k : Nat) : State :=
  let P := s.part p
  if !s.live p then s
  else match P.tokens.find? k with
    | none =>
      if (P.probes.any fun x => decide (x.caldera = k)) || !(drainingOn P k).isEmpty then
        s.modPart p fun P => { countWaiters k true P with tokens := P.tokens.put k {} }
      else s
    | some t =>
      if circuitLength ≤ t.visited then s
      else
        let i := circuitIface k t.visited
        let x := P.interfaces.getD i {}
        s.modPart p fun P =>
          { P with
            tokens := P.tokens.put k { visited := t.visited + 1, sum := t.sum + x.count, black := t.black || x.black }
            interfaces := if x.black then P.interfaces.put i { x with black := false } else P.interfaces }

/-- The token of a caldera has come home (R205): every waiter that asked before the circuit began takes its result. -/
def endCircuit (s : State) (p k : Nat) : State :=
  let P := s.part p
  match P.tokens.find? k with
  | none => s
  | some t =>
    if !s.live p || decide (t.visited < circuitLength) then s
    else
      let isEntry (P : Partition) (x : Nat × Bool × Nat) : BarEntry :=
        if x.2.1 then P.bars.getD (16 * k + x.2.2) {} else (P.quads.getD x.1 {}).bars.getD x.2.2 {}
      let probes := P.probes.filter fun x => decide (x.caldera = k) && x.counted
      let entries := (drainingOn P k).filter fun x => (isEntry P x).counted
      let s := s.modPart p fun P =>
        countWaiters k false { P with tokens := P.tokens.del k, probes := P.probes.filter fun x => !(decide (x.caldera = k) && x.counted) }
      let v := BitVec.ofNat 64 ((if t.black then 2 ^ 32 else 0) + t.sum.toNat)
      let s := probes.foldl (fun s x => s.deliver p x.tid x.gen x.shadow x.d v) s
      if t.sum = 0 ∧ !t.black then
        entries.foldl (fun s x => s.completeBar p x.1 x.2.1 x.2.2 (isEntry (s.part p) x)) s
      else s

/-- `bar` (R202): the guard report, the count, the fence, and the arrival; the thread parks past the instruction. -/
def barBody (s : State) (d : Reg) (drain level : Bool) (index : Fin 16) : Step := do
  s.guardReport
  s.ready [d]
  let c := (s.val d).toNat
  if c < 1 ∨ (if level then 65536 else 64) < c then throw (.trap causeOperand (s.val d))
  let sc := if level then Scope.cd else .qd
  if s.pendingBefore s.cur.part s.issuer s.cur.core s.nextAccess (some sc) then throw (.park s (.earlier (some sc)))
  let s := s.fenceStale s.cur.part s.ctx.uid s.cur.core sc
  let a : Arrival :=
    { tid := s.curTid, gen := s.ctx.gen, shadow := s.cur.shadow, d := d, atCaldera := level, index := index.val, count := c, drain := drain,
      sent := s.now }
  let t := (s.writePending d).modCurPart fun P => { P with arrivals := P.arrivals ++ [a] }
  pure ((t.advance 4).park (.full d))

end State

def execBar (d : Reg) (drain level : Bool) (index : Fin 16) (s : State) : Out :=
  .next (s.settle (s.barBody d drain level index))
/-- R203; any arrival that has been sent may be the next to reach its entry, but none in the same cycle behind a younger one. -/
def execBarrierArrival (p k : Nat) (s : State) : Out :=
  .next (match (s.part p).arrivals[k]? with
    | none => s
    | some a =>
      if (s.part p).run ≠ .frozen ∧ !s.barOutOfTurn p a then (s.modPart p fun P => { P with arrivals := P.arrivals.eraseIdx k }).arriveBar p a else s)
/-- R207: the thread continues. -/
def execQprobe (d : Reg) (s : State) : Out :=
  .next (s.settle (do
    s.free d
    let x : Probe := { tid := s.curTid, gen := s.ctx.gen, shadow := s.cur.shadow, d := d, caldera := calderaOf s.quadNo }
    pure (((s.writePending d).modCurPart fun P => { P with probes := P.probes ++ [x] }).advance 4)))
def execQuiesceCircuitEnd (p caldera : Nat) (s : State) : Out := .next (s.endCircuit p caldera)

end Sys2Proof.Machine
end

