-- ==== Sys2Proof/Machine/Group.lean ====
section
/-!
DEFINITION. Roles and load-levelling (R252 to R256): `rcast`, its step on a role table, and `LOAD_LEVEL`.
-/
namespace Sys2Proof.Machine

/-! ## Role tables (R252) -/

/-- CNT, MIN and MAX of a role in a table; role 0 has none. -/
def roleCount (t role : Nat) : Nat := if role = 0 then 0 else bitsOf t (16 * role - 1) (16 * role - 16)
def roleMin (t role : Nat) : Nat := bitsOf t (144 + 32 * (role - 1) + 15) (144 + 32 * (role - 1))
def roleMax (t role : Nat) : Nat := bitsOf t (160 + 32 * (role - 1) + 15) (160 + 32 * (role - 1))

/-- A malformed table (R252). -/
def roleMalformed (t : Nat) : Bool :=
  decide (bitsOf t 511 320 ≠ 0 ∨ bitsOf t 287 271 ≠ 0 ∨ bitsOf t 255 255 ≠ 0 ∨ bitsOf t 143 48 ≠ 0 ∨
    bitsOf t 270 256 < bitsOf t 254 240 ∨ roleMax t 1 < roleMin t 1 ∨ roleMax t 2 < roleMin t 2 ∨ roleMax t 3 < roleMin t 3)

/-- The status of a step of `rcast` (R254): the first that holds. -/
def roleStatus (t core frm new : Nat) (sameTable : Bool) (dry : Nat) : Nat :=
  if roleMalformed t then 6
  else if core < bitsOf t 254 240 ∨ bitsOf t 270 256 < core then 4
  else if frm ≠ 0 ∧ !sameTable then 5
  else if new = frm then 0
  else if !(bitsOf t 319 304).testBit (4 * frm + new) then 1
  else if frm ≠ 0 ∧ dry < 64 * bitsOf t 303 288 then 3
  else if (frm ≠ 0 ∧ roleCount t frm < roleMin t frm + 1) ∨ (new ≠ 0 ∧ roleMax t new < roleCount t new + 1) then 2
  else 0

/-- The table after a step that changes the role. -/
def roleMoved (t frm new : Nat) : Nat :=
  t - (if frm ≠ 0 then 2 ^ (16 * frm - 16) else 0) + (if new ≠ 0 then 2 ^ (16 * new - 16) else 0)

namespace State

/-- The step of `rcast` at the table's home (R254, R255): the status and the counts after it. -/
def applyRcast (s : State) (x : Access) (new frm : Nat) (sameTable : Bool) (dry : Nat) : State × Answer :=
  if s.isPoisoned x.pa then (s, .poisoned (x.va / 64 * 64))
  else
    let t := natOfBytes (s.readMem x.pa 64)
    let st := roleStatus t (coreOf x.tid) frm new sameTable dry
    if st = 0 ∧ new ≠ frm then
      let t' := roleMoved t frm new
      ((s.staleWords x.part x.uid x.pa 8 false (BitVec.ofNat 50 x.pc)).storeLine x.pa (bytesOfNat 64 t'), .roles st (BitVec.ofNat 48 t'))
    else (s, .roles st (BitVec.ofNat 48 t))

/-- The answer of `rcast` reaches the core (R254). -/
def answerRcast (s : State) (x : Access) (d : Reg) (new frm tbl status : Nat) (counts : BitVec 48) : State :=
  let core := coreOf x.tid
  let s := s.modCore x.part core fun C =>
    if status = 0 ∧ new ≠ frm then { C with rcasting := none, role := new, roleTable := tbl, dryFrom := (s.part x.part).cycle }
    else { C with rcasting := none }
  let role := (s.core x.part core).role
  s.deliver x.part x.tid x.gen (x.issuer = .shadow core) d
    (BitVec.ofNat 64 (status * 2 ^ 60 + frm * 2 ^ 58 + role * 2 ^ 56 + counts.toNat))

/-- `rcast` (R254, R255): a release and an acquire; the thread parks until the answer arrives. An input channel is consumed only
then, since on a poisoned line nothing takes effect (R5); one that is the destination too holds the answer (R225). -/
def rcastBody (s : State) (d a : Reg) : Step :=
  match s.ctx.phase, s.ctx.reply with
  | .asked _, some r =>
    match r.poison with
    | some l => trapN causePoison l
    | none => .ok ((s.consume (if a = d then [] else [a])).advance 4)
  | .asked _, none => .error (.park s .reply)
  | _, _ => do
    s.ready [a]
    s.free d
    s.acquired
    let v := (s.val a).toNat
    if 2 ^ 52 ≤ v ∨ bitsOf v 5 2 ≠ 0 then throw (.trap causeOperand (s.val a))
    if s.curCore.rcasting.isSome then throw (.park s .rcastFree)
    let tbl := v / 64 * 64
    let C := s.curCore
    let (t, ph) ← s.translate 3 false tbl 64
    let id := t.nextAccess
    let kind := AccKind.rcast d (v % 4) C.role (decide (C.roleTable = tbl)) (s.dryOf s.cur.part s.cur.core) (s.reg d)
    let t := (t.writePending d).issueAccess (t.access kind ph tbl 64 (some .md)) true
    let t := t.modCurCore fun C => { C with rcasting := some id }
    .error (.park (t.modCtx fun c => { c with phase := .asked 1 }) .reply)

/-! ## Load-levelling (R256) -/

/-- Untaken units of a task entry. -/
def untaken (e : TaskEntry) : Nat := e.last + 1 - e.next

/-- The mesh neighbours of a core, north, east, south, west. -/
def meshNeighbours (core : Nat) : List Nat :=
  let q := quadOfCore core
  let k := calderaOf q
  let r := rowOf q
  let c := colOf q
  ((if 0 < r then [quadAt k (r - 1) c] else []) ++ (if c < 31 then [quadAt k r (c + 1)] else []) ++
    (if r < 31 then [quadAt k (r + 1) c] else []) ++ (if 0 < c then [quadAt k r (c - 1)] else [])).map fun q => q * 4 + coreInQuad core

/-- What one core ships: from its entry, how many units, and to which core. -/
structure Shipment where
  core : Nat
  key : Nat
  count : Nat
  target : Nat
  deriving DecidableEq, Repr

/-- Untaken units of a region on a core, in a snapshot. -/
def unitsOf (P : Partition) (core handle : Nat) : Nat :=
  match (P.quads.find? (quadOfCore core)).bind fun Q => Q.cores.find? (coreInQuad core) with
  | none => 0
  | some C => C.tasks.foldl (fun n t => if t.2.handle = handle then n + untaken t.2 else n) 0

/-- The shipment of a core, from the snapshot (R256). -/
def shipmentOf (P : Partition) (core : Nat) (C : Core) : Option Shipment :=
  let best := C.tasks.foldl (fun (b : Option (Nat × TaskEntry)) t =>
    match b with
    | none => some t
    | some u => if untaken u.2 < untaken t.2 then some t else some u) none
  match best with
  | none => none
  | some (key, e) =>
    match P.regions.find? e.handle with
    | none => none
    | some r =>
      let ns := (meshNeighbours core).filter fun c => r.cores.contains c
      let pick := ns.foldl (fun (b : Option (Nat × Nat)) c =>
        let n := unitsOf P c e.handle
        match b with
        | none => some (c, n)
        | some (c', m) => if n < m then some (c, n) else some (c', m)) none
      match pick with
      | none => none
      | some (c, n) =>
        let u := untaken e
        if 2 ≤ u ∧ 1 ≤ (u - n) / 2 then some { core := core, key := key, count := (u - n) / 2, target := c } else none

/-- Make a shipment: the units leave the highest indices of the entry and arrive as a new entry, which wakes context zero; a
neighbour with no free task entry receives nothing. The message passes the network within the step (R205, R256; log 27). -/
def ship (s : State) (p : Nat) (x : Shipment) : State :=
  let T := s.core p x.target
  match freeKey T.tasks 16, (s.core p x.core).tasks.find? x.key with
  | some k, some e =>
    let s := s.modCore p x.core fun C => { C with tasks := C.tasks.put x.key { e with last := e.last - x.count } }
    let s := s.modCore p x.target fun C =>
      { C with tasks := C.tasks.put k { e with next := e.last + 1 - x.count, since := (s.part p).cycle } }
    (s.wakeContext p x.target 0).passLegs p (quadOfCore x.core) (quadOfCore x.target)
  | _, _ => s

/-- Whether a levelling epoch is due: the partition cycle is a multiple of 4,096 and has not been levelled. -/
def levelDue (s : State) (p : Nat) : Bool :=
  let P := s.part p
  !P.det && s.live p && decide ((P.cycle - P.launchedAt) % 4096 = 0 ∧ P.levelled ≠ P.cycle + 1)

/-- One epoch of levelling: every core uses its snapshot at once. Where more cores ship to one neighbour than it has free task entries,
R256 does not say whose units it takes: it takes those of the lower source cores (log 112). -/
def levelLoad (s : State) (p : Nat) : State :=
  let P := s.part p
  if !s.levelDue p then s
  else
    let s := s.modPart p fun P => { P with levelled := P.cycle + 1 }
    let all := P.quads.flatMap fun q => q.2.cores.filterMap fun c => shipmentOf P (q.1 * 4 + c.1) c.2
    all.foldl (fun s x => s.ship p x) s

end State

def execRcast (d a : Reg) (s : State) : Out := .next (s.settle (s.rcastBody d a))
/-- R256: in a deterministic partition nothing is levelled. -/
def execLoadLevel (p : Nat) (s : State) : Out := .next (s.levelLoad p)

end Sys2Proof.Machine
end

