-- ==== Sys2Proof/Machine/Delivery.lean ====
section
/-!
DEFINITION. The life of an access after its issue (R84 to R90, R99 to R102): a message moves, a home applies an access, an answer
reaches its core, a scratchpad result is written, a refused deposit is sent again.
-/
namespace Sys2Proof.Machine

/-- Whether an access stands in the queue before an atomic unit. -/
def Stage.isQueued : Stage → Bool
  | .queued _ => true
  | _ => false

/-- Whether the bytes of a load leave on a link, so that its line is checked (R393). -/
def LoadDst.leaves : LoadDst → Bool
  | .engine _ leaving => leaving
  | _ => false

namespace State

/-! ## Application (R85, R90) -/

/-- Whether the access is a thread's or a shadow set's own. -/
def ofThread (x : Access) : Bool :=
  match x.issuer with
  | .thread _ => true
  | .shadow _ => true
  | _ => false

/-- A write of an access is applied: conflicts (R396), fetch (R66), and the line; a poisoned line discards a partial one, which writes
nothing (R161). -/
def applyStore (s : State) (x : Access) (bytes : List Byte) (plain : Bool) : State :=
  if s.isPoisoned x.pa && decide (bytes.length < 64) then s
  else
    let s := s.noteWrite x.part x.uid x.pa plain (x.counted && x.rel.isNone) (BitVec.ofNat 50 x.pc)
    (s.staleWords x.part x.uid x.pa bytes.length plain (BitVec.ofNat 50 x.pc)).storeLine x.pa bytes

/-- Watch entries in use at a home (R101). -/
def watchesAt (s : State) (q : Nat) : Nat :=
  s.accesses.countP fun _ y => !y.spad && decide (y.dst = q) &&
    (match y.stage, y.kind with | .watch _, .waitw .. => true | _, _ => false)

/-- A `red` is applied at once, or held until the epoch closes (R100, R231). -/
def applyReduction (s : State) (x : Access) (op : AmoOp) (w : Width) (b : Word64) : State :=
  let h : HeldRed := { part := x.part, pa := x.pa, src := x.tid, uid := x.uid, pc := x.pc, order := x.order, op := op, w := w, b := b }
  if !(s.part x.part).det then (s.staleWords x.part x.uid x.pa x.size false (BitVec.ofNat 50 x.pc)).applyRed x.pa op w b
  else if (s.home x.dst).held.length < 4096 then s.modHome x.dst fun m => { m with held := m.held ++ [h] }
  else
    let s := s.releaseHeld x.dst fun y => decide (y.part = x.part ∧ y.pa / 64 = x.pa / 64)
    ((s.staleWords x.part x.uid x.pa x.size false (BitVec.ofNat 50 x.pc)).applyRed x.pa op w b).recordDet x.part 2 (BitVec.ofNat 50 x.pc)

/-- A deposit meets its register (R102, R224, R225). -/
def applyDeposit (s : State) (x : Access) (target : Nat) (r : Reg) (v : Word64) : State × Answer :=
  let c := s.threadCtx x.part target
  let g := c.regs.get r
  let chan := c.chans.find? r.val
  let foreign := match chan with
    | some ch => decide (ch.dir = ChanDir.inn ∧ ch.peer % 2 ^ 19 ≠ x.tid)
    | none => false
  if c.state = .free ∨ c.state = .halted ∨ foreign = true then (s, .refused true)
  else if g.armed && !g.full then
    let inn := match chan with | some ch => decide (ch.dir = ChanDir.inn) | none => false
    let s := s.modThread x.part target fun c =>
      { c with regs := c.regs.set r { val := v, full := true, armed := inn, poison := none } }
    let s := if inn then s.modCore x.part (coreOf target) fun C => { C with dryFrom := (s.part x.part).cycle } else s
    (s, .ack)
  else (s, .refused false)

/-- Whether a part of a fill that is still to be sent reads the line of an access: the line of its address, or the line that the port's
cache gives for it. -/
def fillOnLine (s : State) (x : Access) (f : Fill) (o : Nat) : Bool :=
  let va := (f.part o).1
  decide (x.asid = (s.context x.part (coreOf x.tid) 0).asid ∧ x.va / 64 = va / 64) || (match s.cached x.src x.asid va with
    | some e => decide ((s.placed e.bl (e.translate va)).2 / 64 = x.pa / 64)
    | none => false)

/-- Whether a fill that context zero of a core began before an access of its own has still to send its read of the access's line (R88,
R117). -/
def behindFill (s : State) (id : Nat) (x : Access) : Bool :=
  match x.issuer with
  | .thread tid => decide (ctxOf tid = 0) && !x.spad && x.kind.toLine && (s.core x.part (coreOf tid)).ctxs.any fun c =>
      match c.2.fill with
      | some f => (f.todo ++ f.later).any fun o => decide (f.number o < id) && s.fillOnLine x f o
      | none => false
  | _ => false

/-- Whether nothing at its home keeps an access back: no earlier access of the issuer to the line is unapplied (R88), and no held
reductions keep a load, an atomic or a `waitw` back (R100, R195), or the step of an `rcast` or of a split's reserve (log 146). -/
def unblocked (s : State) (id : Nat) (x : Access) : Bool :=
  !s.earlierOnLine id x && !s.behindFill id x &&
    (match x.kind with
     | .load _ | .amo .. | .cas .. | .waitw .. | .rcast .. | .reserve .. => !s.heldOnLine x.part x.pa
     | .store .. | .red .. | .deposit .. | .writeback | .window .. | .take .. => true)

/-- Where a message that has reached its home contends (R213): at a slice's input, or at the deposit port of a partition's core. -/
def inputOf (x : Access) : Option (Nat × Option Nat) :=
  match x.kind with
  | .deposit target .. => some (x.part, some (coreOf target))
  | .window .. | .take .. => none
  | _ => some (x.dst, none)

/-- The place of a message in the order of R213: age, source thread, class. -/
def Access.contends (s : State) (x : Access) : Nat × Nat × Nat := (messageAge (s.part x.part).cycle x.entered, x.tid, 1)

/-- Whether an access goes through the queue before the atomic unit (R231): a `red` or an atomic of a throughput partition. -/
def queues (s : State) (x : Access) : Bool :=
  !(s.part x.part).det && (match x.kind with | .red .. | .amo .. | .cas .. => true | _ => false)

/-- Accesses in the queue before a slice's atomic unit. -/
def queuedAt (s : State) (q : Nat) : Nat :=
  s.accesses.countP fun _ y => decide (y.dst = q) && (match y.stage with | .queued _ => true | _ => false)

/-- Whether another message at the same input goes before this one. At a deposit port it is one that came earlier (R84), or in the same
cycle and is older; at a slice's input one that is older, if nothing keeps it back (R90, R213), nor the queue before the atomic unit,
which then keeps back this one too or is not for it (R231). -/
def behindOther (s : State) (id : Nat) (x : Access) : Bool :=
  s.accesses.any fun y =>
    decide (y.1 ≠ id ∧ y.2.stage = .home ∧ inputOf y.2 = inputOf x) && s.sharesNet x.part y.2.part &&
      (match x.kind with
       | .deposit .. => decide (y.2.reached < x.reached ∨
           (y.2.reached = x.reached ∧ goesBefore (Access.contends s y.2) (Access.contends s x) = true))
       | _ => goesBefore (Access.contends s y.2) (Access.contends s x) && s.unblocked y.1 y.2 &&
           (!s.queues y.2 || s.queues x || decide (s.queuedAt x.dst < 64)))

/-- Whether a home may apply an access now, or take it into its queue: from its input in the order of R213, a cycle after it came,
so that what came in the same cycle is there, a deposit port one in a cycle (R84); from the queue in order (R231). -/
def mayApply (s : State) (id : Nat) (x : Access) : Bool :=
  s.unblocked id x &&
    match x.stage with
    | .queued n => s.accesses.all fun y => decide (y.2.dst ≠ x.dst) || (match y.2.stage with | .queued m => decide (n ≤ m) | _ => true)
    | _ =>
      decide (x.reached < s.clock) && !s.behindOther id x &&
        (match x.kind with
         | .deposit target .. => decide ((s.core x.part (coreOf target)).deposited ≠ s.clock + 1)
         | _ => !s.queues x || decide (s.queuedAt x.dst < 64))

/-- A home applies an access (R85): the state after it, and the answer. -/
def applyAccess (s : State) (x : Access) : State × Answer :=
  let line := x.va / 64 * 64
  match x.kind with
  | .load dst =>
    let s := if dst.leaves then s.leaveBlock x.pa else s
    (s, if s.isPoisoned x.pa then .poisoned line else .data (s.readMem x.pa x.size))
  | .store bytes poison =>
    (if poison then (s.noteWrite x.part x.uid x.pa false x.counted (BitVec.ofNat 50 x.pc)).writePoison x.pa
     else s.applyStore x bytes (ofThread x && x.rel.isNone && x.plain), .ack)
  | .amo op w b _ =>
    if s.isPoisoned x.pa then (s, .poisoned line)
    else
      let old := s.readMem x.pa x.size
      let new := atomicOp op w.bits (natOfBytes old) (b.toNat % 2 ^ w.bits)
      (s.applyStore x (bytesOfNat x.size new) false, .data old)
  | .cas w e b _ =>
    if s.isPoisoned x.pa then (s, .poisoned line)
    else
      let old := s.readMem x.pa x.size
      if natOfBytes old = e.toNat % 2 ^ w.bits then
        (s.applyStore x (bytesOfNat x.size (b.toNat % 2 ^ w.bits)) false, .data old)
      else (if s.inSink x.pa then s.recordDet x.part 7 (BitVec.ofNat 50 x.pc) else s, .data old)
  | .red op w b => (s.applyReduction x op w b, .ack)
  | .waitw w e _ =>
    if s.isPoisoned x.pa then (s, .poisoned line)
    else
      let v := natOfBytes (s.readMem x.pa x.size)
      if v ≠ e.toNat % 2 ^ w.bits then (s, .status (BitVec.ofNat 64 v) 0)
      else if 64 ≤ s.watchesAt x.dst then (s.recordDet x.part 1 (BitVec.ofNat 50 x.pc), .status (BitVec.ofNat 64 v) 1)
      else (s, .none)
  | .deposit target r v _ => s.applyDeposit x target r v
  | .rcast _ new frm same dry _ => s.applyRcast x new frm same dry
  | .reserve _ _ nres =>
    if s.isPoisoned x.pa then (s, .poisoned line)
    else
      let v := natOfBytes (s.readMem x.pa 2)
      if v % 2 ^ 11 < nres then (s.storeLine x.pa (bytesOfNat 2 (v + 1)), .status (BitVec.ofNat 64 (v % 2 ^ 11)) 1)
      else (s, .status 0 0)
  | .writeback | .window .. | .take .. => (s, .none)

/-- What the home's taking of an access does beside its effect: a `red` leaves the network (R100, R231), a deposit port has had its
deposit of the cycle (R84). -/
def takeAccess (s : State) (x : Access) : State :=
  match x.kind with
  | .red .. => s.leaveLeg x.part x.src x.dst (legCount x.src x.dst - 1)
  | .deposit target .. => s.modCore x.part (coreOf target) fun C => { C with deposited := s.clock + 1 }
  | _ => s

/-- One application: the answer goes on its way; a `waitw` that is not answered takes its watch. An access that goes through the
queue before the atomic unit enters it first. -/
def applyStep (s : State) (id : Nat) (x : Access) : State :=
  if !s.mayApply id x then s
  else if s.queues x && decide (x.stage = .home) then
    ({ s with nextSeq := s.nextSeq + 1 } : State).setAccess id { x with stage := .queued s.nextSeq }
  else
    match (s.takeAccess x).applyAccess x with
    | (t, .none) =>
      match x.kind with
      | .waitw .. => t.setAccess id { x with stage := .watch (s.part x.part).cycle }
      | _ => t
    | (t, a) => t.sendAnswer id a

/-! ## Answers -/

/-- The shadow set issued the access. -/
def byShadow (x : Access) : Bool := match x.issuer with | .shadow _ => true | _ => false

/-- An access is answered: it leaves the record (R85), its invalidation (R153), and frees the accesses that an acquire held
(R94). -/
def finishAccess (s : State) (id : Nat) (x : Access) : State :=
  let s := s.dropAccess id
  let s := { s with invalidations := s.invalidations.map fun v => { v with accesses := NSet.del v.accesses id } }
  if ofThread x && decide ((s.threadCtx x.part x.tid).gen = x.gen) then
    s.asThread x.part x.tid (byShadow x) fun s =>
      s.modCtx fun c => { c with acquiring := NSet.del c.acquiring id }
  else s

/-- Bytes put into a list at an offset, zeros before it. -/
def putAt (l : List Byte) (off : Nat) (b : List Byte) : List Byte :=
  (l ++ List.replicate (off - l.length) 0).take off ++ b ++ l.drop (off + b.length)

/-- A part of a thread's own read arrives. Of several poisoned lines the one whose answer comes first is kept, which is the model's choice
(R263; log 130). -/
def replyWith (s : State) (x : Access) (off : Nat) (b : List Byte) (poison : Option Nat) : State :=
  if (s.threadCtx x.part x.tid).gen = x.gen then
    s.asThread x.part x.tid (byShadow x) fun s =>
      s.modCtx fun c =>
        let r := c.reply.getD {}
        { c with reply := some { bytes := putAt r.bytes off b, poison := match r.poison with | some l => some l | none => poison } }
  else s

/-- Lanes of a vector load arrive (R173, R284). A poisoned answer marks the register, and the lanes that it brings are filled all the
same: those that were read, and those of a poisoned line, which no instruction can see, as its bytes stand (log 133). -/
def lanesArrive (s : State) (p tid gen v off : Nat) (b : List Byte) (poison : Option Nat) : State :=
  if (s.threadCtx p tid).gen = gen then
    let core := coreOf tid
    let r := s.vreg p core v
    let r := { r with val := BitVec.ofNat 512 (natOfBytes (putAt (bytesOfNat 64 r.val.toNat) off b)) }
    let r := match poison with
      | some l => if r.poison.isNone ∨ off < r.poisonOff then { r with poison := some l, poisonOff := off } else r
      | none => r
    let w := r.waiting - 1
    s.setVreg p core v { r with waiting := w, full := decide (w = 0) && !r.more }
  else s

/-- A part of a context's fill arrives (R117). -/
def fillArrives (s : State) (x : Access) (n off : Nat) (b : List Byte) (poison : Option Nat) : State :=
  s.modFill x.part (coreOf x.tid) n fun f =>
    { f with
      sent := f.sent - 1
      bytes := (List.zip (List.range b.length) b).foldl (fun m y => SMap.put m (off + y.1) y.2) f.bytes
      poison := match f.poison with | some l => some l | none => poison }

/-- The reply that a queued codebook load awaits (R310); one that has its bytes awaits none. -/
def Queued.codebookReply (id : Nat) (r : Reply) (q : Queued) : Queued :=
  match q.cmd with
  | .cbld a none => if a = id then { q with cmd := .cbld a (some r) } else q
  | _ => q

def codebookArrives (s : State) (id : Nat) (x : Access) (r : Reply) : State :=
  let s := s.modCore x.part (coreOf x.tid) fun C => { C with dispatch := C.dispatch.map (Queued.codebookReply id r) }
  s.modQuad x.part (quadOfCore (coreOf x.tid)) fun Q => { Q with matrix := Q.matrix.map (Queued.codebookReply id r) }

/-- What a load's answer brings, to where it goes. -/
def loadArrives (s : State) (id : Nat) (x : Access) (dst : LoadDst) (b : List Byte) (poison : Option Nat) : State :=
  match dst with
  | .reg d ext =>
    match poison with
    | some l => s.deliverPoison x.part x.tid x.gen (byShadow x) d l
    | none => s.deliver x.part x.tid x.gen (byShadow x) d (extendBytes ext b)
  | .vec v off => s.lanesArrive x.part x.tid x.gen v off b poison
  | .reply off => s.replyWith x off b poison
  | .fill n off => s.fillArrives x n off b poison
  | .fillSegs n off => s.fillArrives x n (1024 + off) b poison
  | .codebook _ => s.codebookArrives id x { bytes := b, poison := poison }
  | .engine tag _ => s.addFetched x.part { issuer := x.issuer, tag := tag, va := x.va, bytes := b, poison := poison }
  | .dropped => s

/-- A deposit's answer (R224, R226): applied or abandoned, an output channel is idle again, its RETRY as the last message left it (R228;
log 115); refused, the entry stays, and the cycles until it is sent again count from here (log 140). -/
def depositAnswered (s : State) (id : Nat) (x : Access) (out : Option Reg) (a : Answer) : State :=
  let mine := decide ((s.threadCtx x.part x.tid).gen = x.gen)
  let idle (s : State) : State :=
    match out with
    | none => s
    | some r =>
      if !mine then s
      else s.modThread x.part x.tid fun c =>
        match c.chans.find? r.val with
        | none => c
        | some ch =>
          { c with chans := c.chans.put r.val { ch with busy := false }, regs := c.regs.set r { (c.regs.get r) with full := true } }
  match a with
  | .refused true =>
    (((idle s).modCore x.part x.issuerCore fun C =>
      { C with deadDeposits := if C.deadDeposits = BitVec.allOnes 32 then C.deadDeposits else C.deadDeposits + 1 })).finishAccess id x
  | .refused false =>
    let s := match out with
      | none => s
      | some r =>
        if !mine then s
        else s.modThread x.part x.tid fun c =>
          match c.chans.find? r.val with
          | none => c
          | some ch => { c with chans := c.chans.put r.val { ch with retry := min 65535 (ch.retry + 1) } }
    s.setAccess id { x with stage := .refusedAt (s.part x.part).cycle, answer := .none }
  | _ => (idle s).finishAccess id x

/-- The result of an answered access that would be sent through an output channel waits until it may be (R94, R224). -/
def portHolds (s : State) (id : Nat) (x : Access) : Bool :=
  let d? := match x.kind with
    | .load (.reg d _) => some d
    | .amo _ _ _ d => some d
    | .cas _ _ _ d => some d
    | .waitw _ _ d => some d
    | .window _ d _ _ => some d
    | .take d _ _ _ => some d
    | .rcast d _ _ _ _ _ => some d
    | _ => none
  match d? with
  | none => false
  | some d => decide ((s.threadCtx x.part x.tid).gen = x.gen) && !s.maySend x.part x.tid (byShadow x) d (some id)

/-- The answer of an access reaches its issuer (R85): it leaves the record, and its result is written. -/
def answerStep (s : State) (id : Nat) (x : Access) : State :=
  let s := s.finishAccess id x
  let p := x.part
  let sh := byShadow x
  let give (s : State) (d : Reg) (v : Word64) : State := s.deliver p x.tid x.gen sh d v
  let bad (s : State) (d : Reg) (l : Nat) : State := s.deliverPoison p x.tid x.gen sh d l
  match x.kind, x.answer with
  | .load dst, .data b => s.loadArrives id x dst b none
  | .load dst, .poisoned l => s.loadArrives id x dst (List.replicate x.size 0) (some l)
  | .amo op w _ d, .data b => give s d (oldWord (decide (op = .fadd)) w (natOfBytes b))
  | .amo _ _ _ d, .poisoned l => bad s d l
  | .cas w _ _ d, .data b => give s d (oldWord false w (natOfBytes b))
  | .cas _ _ _ d, .poisoned l => bad s d l
  | .waitw _ _ d, .status v code => give (give s d v) (Fin.ofNat 16 (d.val + 1)) code
  | .waitw _ _ d, .poisoned l => bad (bad s d l) (Fin.ofNat 16 (d.val + 1)) l
  | .rcast d new frm _ _ _, .roles st counts => (s.answerRcast x d new frm (x.va / 64 * 64) st counts).replyWith x 0 [] none
  | .rcast d _ _ _ _ old, .poisoned l =>
    let s := s.modCore p (coreOf x.tid) fun C => { C with rcasting := none }
    let s := if (s.threadCtx p x.tid).gen = x.gen then s.asThread p x.tid sh fun s => s.setReg d old else s
    s.replyWith x 0 [] (some l)
  | .window _ d _ _, .status v code => give (give s d v) (Fin.ofNat 16 (d.val + 1)) code
  | .take d _ _ _, .data b => give s d (BitVec.ofNat 64 (natOfBytes b))
  | .window _ d _ _, .data b => give s d (BitVec.ofNat 64 (natOfBytes b))
  | .reserve r i _, .status n taken => s.reserveAnswered p r i (if taken = 0 then none else some n.toNat)
  | .reserve r i _, .poisoned _ => s.reserveAnswered p r i none
  | _, _ => s

/-- An answer at its issuer: a deposit's, which may keep its access, or another's. -/
def answered (s : State) (id : Nat) (x : Access) : State :=
  match x.kind with
  | .deposit _ _ _ out => s.depositAnswered id x out x.answer
  | _ => s.answerStep id x

/-! ## Results at a fixed cycle (R170) -/

/-- Write a result to the thread that it is for. -/
def localArrives (s : State) (p tid gen : Nat) (shadow : Bool) : LocalKind → State
  | .reg d v => s.deliver p tid gen shadow d v
  | .regPoison d l => s.deliverPoison p tid gen shadow d l
  | .vec v val poison =>
    if (s.threadCtx p tid).gen = gen then s.setVreg p (coreOf tid) v { val := val, full := true, poison := poison } else s
  | .lanes v off b poison => s.lanesArrive p tid gen v off b poison

/-- Whether a result's cycle has come; a freeze brings forward what has been begun (R103, R287). -/
def resultDue (s : State) (p due : Nat) : Bool := decide (due ≤ (s.part p).cycle ∨ (s.part p).run = .freezing)

/-- Whether a result may be written: one for an output channel once it may be sent (R94, R224). -/
def mayWrite (s : State) (p tid gen : Nat) (shadow : Bool) : LocalKind → Bool
  | .reg d _ => decide ((s.threadCtx p tid).gen ≠ gen) || s.maySend p tid shadow d none
  | .regPoison .. | .vec .. | .lanes .. => true

/-- Whether a result has to be written now: it is due, and it may be. -/
def localDue (s : State) (p : Nat) (x : LocalAnswer) : Bool := s.resultDue p x.due && s.mayWrite p x.tid x.gen x.shadow x.kind

/-- Whether a vector instruction's result has to be written now (R287). -/
def vectorDue (s : State) (p : Nat) (x : VecResult) : Bool := s.resultDue p x.due && s.mayWrite p x.tid x.gen x.shadow x.kind

/-- A result that is due is written. -/
def localStep (s : State) (p q k : Nat) : State :=
  match (s.quad p q).locals[k]? with
  | none => s
  | some x =>
    if !s.localDue p x then s
    else (s.modQuad p q fun Q => { Q with locals := Q.locals.eraseIdx k }).localArrives p x.tid x.gen x.shadow x.kind

/-- A refused deposit is sent again 16 cycles after the refusal, an older one to the same register first (R224). -/
def retryDeposit (s : State) (id : Nat) : State :=
  match s.accesses.find? id with
  | none => s
  | some x =>
    match x.stage with
    | .refusedAt c => if (s.part x.part).cycle < c + 16 || s.behindRefused id x then s else s.launchAccess id x
    | _ => s

end State

/-- R85, R86: one leg of a message's way. -/
def execMessageDelivery (id : Nat) (s : State) : Out := .next (s.moveMessage id)
/-- R85; an address that is no memory (R145), which no translation yields, stops the machine. -/
def execAccessApplication (id : Nat) (s : State) : Out :=
  match s.accesses.find? id with
  | none => .next s
  | some x =>
    if x.stage = .home || x.stage.isQueued then
      (match x.kind with
       | .writeback | .window .. | .take .. => .next s
       | .deposit .. => .next (s.applyStep id x)
       | _ => if memBytes < x.pa + x.size then .fault (.physicalAddress x.pa) else .next (s.applyStep id x))
    else .next s
def execAnswerDelivery (id : Nat) (s : State) : Out :=
  .next (match s.accesses.find? id with
    | none => s
    | some x => if x.stage = .answered && !s.portHolds id x then s.answered id x else s)
def execLocalAnswer (p q k : Nat) (s : State) : Out := .next (s.localStep p q k)
def execDepositRetry (id : Nat) (s : State) : Out := .next (s.retryDeposit id)

end Sys2Proof.Machine
end

