-- ==== Sys2Proof/Machine/TileBase.lean ====
section
/-!
DEFINITION. Tile slots as operands (R268 to R272): the slot rule, the bytes and poison of a tile, and the array reads that hold a
slot (R271).
-/
namespace Sys2Proof.Machine

namespace State

/-- A tile slot of a core. -/
def slotOf (s : State) (p core t : Nat) : TileSlot := (s.core p core).slots.getD t {}

def modSlot (s : State) (p core t : Nat) (f : TileSlot → TileSlot) : State :=
  s.modCore p core fun C => { C with slots := C.slots.put t (f (C.slots.getD t {})) }

/-- A slot of the core of the thread at hand. -/
def slotHere (s : State) (t : Slot) : TileSlot := s.slotOf s.cur.part s.cur.core t.val

/-- The slot rule (R270): a READY slot proceeds, an EMPTY one with a mark traps, any other parks the thread. -/
def slotRule (s : State) (t : Slot) : Except Stop TileSlot :=
  let x := s.slotHere t
  if x.state = .ready then .ok x
  else if x.state = .empty ∧ x.mark ≠ .none then trapN causeTileslot t.val
  else .error (.park s (.slot t))

end State

/-! ## Pieces of rows -/

/-- Lines that `n` bytes at an address touch. -/
def lineCount (a n : Nat) : Nat := if n = 0 then 0 else (a + n - 1) / 64 + 1 - a / 64

/-- Where the part of `n` bytes at an address within their `j`-th line starts, and its length. -/
def linePiece (a n j : Nat) : Nat × Nat :=
  let lo := max a ((a / 64 + j) * 64)
  let hi := min (a + n) ((a / 64 + j + 1) * 64)
  (lo - a, hi - lo)

/-- Row and line of a piece, numbered by row. -/
def pieceOf (width m : Nat) : Nat × Nat := (m / (width / 64 + 2), m % (width / 64 + 2))

/-- Bytes of a tile. -/
def TileSlot.read (x : TileSlot) (a n : Nat) : List Byte := (List.range n).map fun i => x.bytes.getD (a + i) 0

/-- Write bytes of a tile. -/
def TileSlot.write (x : TileSlot) (a : Nat) (b : List Byte) : TileSlot :=
  { x with bytes := (List.zip (List.range b.length) b).foldl (fun m y => SMap.put m (a + y.1) y.2) x.bytes }

/-- The first poisoned granule of a range of a tile, as a tile byte offset (R272). -/
def TileSlot.poisoned (x : TileSlot) (a n : Nat) : Option Nat :=
  (List.range ((a + n + 63) / 64 - a / 64)).findSome? fun i =>
    if x.poison.contains (a / 64 + i) then some ((a / 64 + i) * 64) else none

/-- Whether a step has still to read from a slot (R271). -/
def MatStep.reads (x : MatStep) (t : Nat) : Bool :=
  let isT (pl : Place) : Bool := match pl with | .slot u => decide (u.val = t) | .spad => false
  let passes := if x.reuse then 1 else ((x.n + 15) / 16) * ((x.k + 15) / 16)
  x.error.isNone && decide (x.pass < passes) && (isT x.aplace || (!x.reuse && isT x.bplace))

namespace State

/-- Whether a command of the core that has issued has still to read a slot (R271). -/
def slotHeld (s : State) (p core t : Nat) : Bool :=
  let hit (q : Queued) : Bool := decide (coreOf q.tid = core) && (match q.cmd with | .step x => x.reads t | _ => false)
  (s.core p core).dispatch.any hit || (s.quad p (quadOfCore core)).matrix.any hit

end State
end Sys2Proof.Machine
end

