-- ==== Sys2Proof/Machine/ArrayQueue.lean ====
section
/-!
DEFINITION. The dispatch queues (R230, R258), acceptance by the array, and vector results (R287).
-/
namespace Sys2Proof.Machine

/-- Entries of a dispatch queue, and steps of the matrix section (R230, R300). -/
def queueRoom : Nat := 16

namespace State

/-- A full dispatch queue parks the thread (R230). -/
def dispatchRoom (s : State) : Except Stop Unit :=
  if queueRoom ≤ s.curCore.dispatch.length then .error (.park s .dispatchRoom) else .ok ()

/-- Put a command at the tail of the core's dispatch queue. -/
def dispatch (s : State) (cmd : ArrayCmd) (access : Option Nat := none) : State :=
  let q : Queued := { access := access, tid := s.curTid, gen := s.ctx.gen, shadow := s.cur.shadow, issued := s.now, cmd := cmd }
  s.modCurCore fun C => { C with dispatch := C.dispatch ++ [q] }

/-- Put an access to the accumulators, a local home (R87), at the tail of the core's dispatch queue; it is outstanding until its effect
or its result. -/
def dispatchAccess (s : State) (cmd : ArrayCmd) : State :=
  ({ s with nextAccess := s.nextAccess + 1 } : State).dispatch cmd (some s.nextAccess)

end State

/-- Steps that the matrix section holds. -/
def Quad.stepCount (Q : Quad) : Nat := (Q.matrix.filter State.isStepCmd).length

/-- Whether the head of a dispatch queue is eligible (R230): it issued in an earlier cycle, and the array can take it; a `cbld`
waits for its answer (R310). -/
def Quad.eligible (Q : Quad) (now i : Nat) : Bool :=
  match (Q.cores.getD i {}).dispatch with
  | [] => false
  | h :: _ =>
    decide (h.issued < now) &&
      (match h.cmd with
       | .step _ => decide (Q.stepCount < queueRoom)
       | .cbld _ r => r.isSome
       | .vec _ | .aclr .. | .acrd .. | .acwr .. => true)

/-- The core that the array grants in a cycle (R230): in deterministic mode core k mod 4, where k counts from the launch (R107),
otherwise the first eligible one after the core last granted. -/
def Quad.granted (Q : Quad) (det : Bool) (now launched : Nat) : Option Nat :=
  if det then (if Q.eligible now ((now - launched) % 4) then some ((now - launched) % 4) else none)
  else ((List.range 4).map fun i => (Q.lastGrant + 1 + i) % 4).find? fun i => Q.eligible now i

/-- The 16 entries of a codebook's 32 bytes (R28). -/
def codebookOf (b : List Byte) : List (BitVec 16) := (List.range 16).map fun i => BitVec.ofNat 16 (natOfBytes (b.drop (2 * i)))

/-- The codebook that a `cbld` leaves (R310). -/
def Codebook.loaded (r : Reply) : Codebook := { entries := codebookOf r.bytes, poison := r.poison }

/-- A quad after the array has accepted the head of a core's queue: a vector instruction's result is due at its latency (R287),
a step takes the core's codebook (R310), and steps and accumulator commands enter the matrix section in order (R300, R308). -/
def Quad.accept (Q : Quad) (now i : Nat) : Quad :=
  let C := Q.cores.getD i {}
  match C.dispatch with
  | [] => Q
  | h :: rest =>
    let C := { C with dispatch := rest }
    let Q := { Q with lastGrant := i, accepted := now + 1 }
    match h.cmd with
    | .vec j =>
      { Q with
        cores := Q.cores.put i C
        results := Q.results ++
          [{ tid := h.tid, gen := h.gen, shadow := h.shadow, due := now + j.latency, kind := j.kind, flags := j.flags }] }
    | .step x =>
      { Q with cores := Q.cores.put i C, matrix := Q.matrix ++ [{ h with cmd := .step { x with codebook := C.codebook } }] }
    | .cbld _ r =>
      { Q with cores := Q.cores.put i { C with codebook := .loaded (r.getD {}) }, matrix := Q.matrix ++ [h] }
    | .aclr .. | .acrd .. | .acwr .. => { Q with cores := Q.cores.put i C, matrix := Q.matrix ++ [h] }

namespace State

/-- Whether the array of a quad has a grant to make in this cycle. -/
def grantDue (s : State) (p q : Nat) : Bool :=
  let P := s.part p
  let Q := s.quad p q
  s.live p && decide (Q.accepted ≠ P.cycle + 1) && (Q.granted P.det P.cycle P.launchedAt).isSome

/-- The array accepts one head (R230). -/
def acceptStep (s : State) (p q : Nat) : State :=
  let P := s.part p
  if !s.grantDue p q then s
  else match (s.quad p q).granted P.det P.cycle P.launchedAt with
    | none => s
    | some i => s.modQuad p q fun Q => Q.accept P.cycle i

/-- A vector result that is due is written, and its flags are merged (R287); one for an output channel waits until it may be sent (R94,
R224). -/
def resultStep (s : State) (p q k : Nat) : State :=
  match (s.quad p q).results[k]? with
  | none => s
  | some x =>
    if !s.vectorDue p x then s
    else
      ((s.modQuad p q fun Q => { Q with results := Q.results.eraseIdx k }).localArrives p x.tid x.gen x.shadow x.kind).modIssuer p x.tid x.gen fun c => { c with flags := c.flags ||| x.flags }

end State

def execArrayAccept (p q : Nat) (s : State) : Out := .next (s.acceptStep p q)
def execVectorResult (p q k : Nat) (s : State) : Out := .next (s.resultStep p q k)

end Sys2Proof.Machine
end

