-- ==== Sys2Proof/Machine/Engine.lean ====
section
/-!
DEFINITION. What the engines of a quad share: reading and writing ranges that a captured segment names, at 64-byte lines
(R98, R142, R155, R161, R183), and waiting for an acquire or a release.
-/
namespace Sys2Proof.Machine

/-- Read scratchpad line by line: a guarded line reads zeros and is logged (R142), a poisoned one is told of (R399). The first
argument bounds the number of lines. -/
def engineReadSpad (p core ctx : Nat) : Nat → State → Nat → Nat → State × EngineRead
  | 0, s, _, _ => (s, .bytes [] none)
  | fuel + 1, s, a, n =>
    if n = 0 then (s, .bytes [] none)
    else
      let k := min n (64 - a % 64)
      let (s, b, po) := s.spadRead p core ctx a k
      let (s, r) := engineReadSpad p core ctx fuel s (a + k) (n - k)
      (s, r.before b po)

namespace State

/-- Read a range that a captured segment names, as an engine for a thread; of scratchpad it waits for its banks (R170). -/
def engineRead (s : State) (r : Reader) (g : Captured) (off : Int) (n : Nat) : State × EngineRead :=
  let a := g.addr off
  if g.isK && s.bankTaken r.part (coreOf r.tid) a n then (s, .held)
  else if g.isK then engineReadSpad r.part (coreOf r.tid) (ctxOf r.tid) (n / 64 + 2) s a n
  else engineReadMem r (n / 64 + 2) s a n

/-- An engine's write of bytes that lie in one line of memory, sent as an access of its own; `counted`: R396 counts it as an earlier write. -/
def engineWrite (s : State) (i : Issuer) (p q tid uid asid : Nat) (pc : BitVec 50) (x : Phys) (va : Nat) (b : List Byte)
    (poison counted : Bool) : State :=
  s.sendAccess
    { part := p, issuer := i, tid := tid, uid := uid, order := (s.nextAccess, 0), kind := .store b poison, pa := x.pa, size := b.length,
      asid := asid, va := va, counted := counted, src := q, dst := homeOf x.pa, stage := .home,
      issuedAt := (s.part p).cycle, pc := pc.toNat }

/-- An engine's write of bytes that lie in one scratchpad line (R142, R161, R399); poison changes nothing of a poisoned line. -/
def engineSpad (s : State) (p tid a : Nat) (b : List Byte) (poison : Bool) (pc : BitVec 50) : State :=
  if poison then
    if (s.core p (coreOf tid)).guarded.contains (a / 64) then s.logGuard p (coreOf tid) (ctxOf tid) a true
    else if (s.core p (coreOf tid)).spadPoison.contains (a / 64) then s
    else
      let old := s.spadBytes p (coreOf tid) (a / 64 * 64) 64
      (s.noteOperands p (coreOf tid) .spad (a / 64 * 64) old old pc .clean).modCore p (coreOf tid) fun C =>
        { C with spadPoison := NSet.add C.spadPoison (a / 64) }
  else s.spadStoreLine p (coreOf tid) (ctxOf tid) a b pc

/-- Whether an engine may begin (R98): with ACQ, the accesses that its thread, or the shadow set, issued before its command in scope
are answered. -/
def acquireDone (s : State) (p tid bound : Nat) (shadow : Bool) (h : Header) : Bool :=
  !h.acq || !s.pendingBefore p (if shadow then .shadow (coreOf tid) else .thread tid) (coreOf tid) bound (some h.scope)

/-- Whether a transfer of a link's program has not been acknowledged. -/
def unacknowledged (s : State) (l : Nat) : Bool := s.fumaroles.any fun x => x.2.awaiting.contains (l, (s.fum l).seq.toNat)

/-- Whether an engine has written to another module what has not been acknowledged: a fumarole, whose writes there lie in scope `.sy`
alone (R91). -/
def writesAbroad (s : State) (i : Issuer) : Bool := match i with | .fumarole l => s.unacknowledged l | _ => false

/-- Whether an engine may report completion (R98): with REL, its writes in scope are answered. -/
def releaseDone (s : State) (p tid : Nat) (i : Issuer) (h : Header) : Bool :=
  !h.rel || (!s.pendingBefore p i (coreOf tid) s.nextAccess (some h.scope) && !(decide (h.scope = .sy) && s.writesAbroad i))

end State
end Sys2Proof.Machine
end

