-- ==== Sys2Proof/Machine/Tour.lean ====
section
/-!
DEFINITION. Tours (R259 to R269): itineraries, `tour`, the registry step with reservation, reading, handing on, overruns,
write-back, and how a tour ends.
-/
namespace Sys2Proof.Machine

/-! ## Itineraries (R260 to R262) -/

/-- An itinerary's header (R260). -/
structure Itinerary where
  nstop : Nat
  cap : Nat
  sseg : Seg
  soff : Nat
  rowBytes : Nat
  rows : Nat
  pitch : Nat
  wb : Bool
  wseg : Seg
  woff : Nat
  deriving DecidableEq, Repr

def itineraryOf (h : Nat) : Itinerary :=
  { nstop := bitsOf h 4 0, cap := bitsOf h 31 8, sseg := Fin.ofNat 8 (bitsOf h 34 32), soff := bitsOf h 79 40,
    rowBytes := bitsOf h 96 80, rows := bitsOf h 113 97, pitch := bitsOf h 159 128, wb := h.testBit 160,
    wseg := Fin.ofNat 8 (bitsOf h 163 161), woff := bitsOf h 207 168 }

/-- A reserved bit of a header or of a stop entry is set. -/
def headerReserved (h : Nat) : Bool :=
  decide (bitsOf h 511 208 ≠ 0 ∨ bitsOf h 167 164 ≠ 0 ∨ bitsOf h 127 114 ≠ 0 ∨ bitsOf h 39 35 ≠ 0 ∨ bitsOf h 7 5 ≠ 0)
def stopReserved (v : Nat) : Bool := decide (bitsOf v 127 79 ≠ 0 ∨ bitsOf v 47 47 ≠ 0 ∨ bitsOf v 31 30 ≠ 0)

/-- A stop entry (R261). -/
def stopOf (v : Nat) : TourStop :=
  { core := bitsOf v 46 32, slot := bitsOf v 26 24, hold := bitsOf v 23 0, policy := bitsOf v 29 28, copy := v.testBit 27,
    coff := bitsOf v 63 48, alt := bitsOf v 78 64 }

/-- A place of a tour: core, slot, stop index, and whether it is the stop's alternate. -/
structure TourPlace where
  core : Nat
  slot : Nat
  stop : Nat
  alternate : Bool
  deriving DecidableEq, Repr

/-- The places of stops in ascending order, each stop's alternate after it. -/
def placesFrom : List TourStop → Nat → List TourPlace
  | [], _ => []
  | x :: t, k =>
    let rest := placesFrom t (k + 1)
    ⟨x.core, x.slot, k, false⟩ :: (if x.policy = 2 then ⟨x.alt, x.slot, k, true⟩ :: rest else rest)

def Tour.places (t : Tour) : List TourPlace := placesFrom t.stops 0
def Tour.bytes (t : Tour) : Nat := t.rows * t.rowBytes

/-- Addresses of a row in the source and in the write-back, and the pieces of all rows. -/
def Tour.srcRow (t : Tour) (i : Nat) : Nat := (t.sseg.base.toNat + t.soff + i * t.pitch) % 2 ^ 52
def Tour.dstRow (t : Tour) (i : Nat) : Nat := (t.wseg.base.toNat + t.woff + i * t.pitch) % 2 ^ 52
def Tour.pieces (t : Tour) (row : Nat → Nat) : Nat := (List.range t.rows).foldl (fun n i => n + lineCount (row i) t.rowBytes) 0

/-- Whether a stop breaks R262. -/
def stopMalformed (P : Partition) (cap size : Nat) (x : TourStop) : Bool :=
  decide (cap < x.hold ∨ x.policy = 3 ∨ (x.alt ≠ 0 ∧ x.policy ≠ 2) ∨ (x.coff ≠ 0 ∧ !x.copy) ∨ x.coff % 64 ≠ 0 ∨
    (x.copy ∧ 65536 < x.coff + size)) ||
    !P.hasCore x.core || (decide (x.policy = 2) && !P.hasCore x.alt)

/-- Whether two places name the same core and slot. -/
def placesClash : List TourPlace → Bool
  | [] => false
  | x :: t => (t.any fun y => decide (x.core = y.core ∧ x.slot = y.slot)) || placesClash t

/-- A malformed itinerary (R262). -/
def itineraryMalformed (P : Partition) (h : Nat) (stops : List Nat) : Bool :=
  let x := itineraryOf h
  let l := stops.map stopOf
  headerReserved h || stops.any stopReserved ||
    decide (x.rowBytes = 0 ∨ x.rows = 0 ∨ 65536 < x.rowBytes * x.rows ∨ (1 < x.rows ∧ x.pitch < x.rowBytes)) ||
    l.any (stopMalformed P x.cap (x.rowBytes * x.rows)) || placesClash (placesFrom l 0)

/-! ## `tour` (R263) -/

namespace State

/-- Whether a part of the thread's own read is still to come. -/
def replyPending (s : State) : Bool :=
  s.accesses.any fun x => decide (x.2.part = s.cur.part ∧ x.2.issuer = s.issuer) &&
    (match x.2.kind with | .load (.reply _) => true | _ => false)

/-- Send the reads of a range of the thread's own, one a line, and park for phase `n`; `off` is where they go in the reply. They are no
loads of R176. A page that is not resident makes the whole instruction start again. -/
def readRange (s : State) (va n off phase : Nat) : Step :=
  match s.translateParts 1 false ((linePieces 8 va n).map fun x => (x.1 % 2 ^ 52, x.2)) with
  | .error (.drop t asid a) => .error (.drop (t.modCtx fun c => { c with phase := .fresh, reply := none }) asid a)
  | .error e => .error e
  | .ok (t, phs) =>
    let t := (List.zip (linePieces 8 va n) phs).foldl (fun t x =>
      (t.noteSinkLoad x.2.pa).issueAccess (t.access (.load (.reply (off + (x.1.1 - va)))) x.2 (x.1.1 % 2 ^ 52) x.1.2 none) false) t
    .error (.park (t.modCtx fun c => { c with phase := .asked phase }) .reply)

/-- The answer of a malformed itinerary (R263, R264; log 97). -/
def badItinerary (s : State) : Word64 := BitVec.ofNat 64 (4 * 2 ^ 60 + (if Config.baditinIssuer then s.cur.core * 2 ^ 5 else 0))

/-- The last part of `tour`: the record has been read. It takes the lowest free entry of the tour table (log 147). -/
def tourStart (s : State) (len : Nat) (h : Header) (d a : Reg) (hdr : Nat) (stops : List Nat) : Step := do
  s.free d
  let x := itineraryOf hdr
  if itineraryMalformed s.curPart hdr stops then
    return ((s.consume [a]).write d s.badItinerary).advance len
  let sg := s.seg x.sseg
  let wg := s.seg x.wseg
  let last := (x.rows - 1) * x.pitch
  let _ ← sg.check x.soff x.rowBytes rightT
  let _ ← sg.check (x.soff + last : Nat) x.rowBytes rightT
  if x.wb then
    let _ ← wg.check x.woff x.rowBytes rightW
    let _ ← wg.check (x.woff + last : Nat) x.rowBytes rightW
  let some k := freeKey s.curQuad.tours 32 | throw (.park s .tourRoom)
  let seq := s.nextSeq
  let y : Tour :=
    { part := s.cur.part, tid := s.curTid, gen := s.ctx.gen, pc := s.ctx.pc, seq := seq, shadow := s.cur.shadow, uid := s.ctx.uid, issued := s.now,
      region := match s.region? with | some _ => s.ctx.handle.toNat | none => 1024, d := d, asid := s.asid, h := h,
      bound := s.nextAccess, sseg := sg, soff := x.soff, rows := x.rows, rowBytes := x.rowBytes, pitch := x.pitch, cap := x.cap,
      wb := x.wb, wseg := wg, woff := x.woff, stops := stops.map stopOf }
  let t := (({ s with nextSeq := seq + 1 } : State).consume [a]).writePending d
  pure ((t.modCurQuad fun Q => { Q with tours := Q.tours.put k y }).advance len)

/-- The second part: the header has been read, and the stops are. That the stops of a record in a K segment are read at the issue as
one access of the scratchpad, guard and poison for the whole range at once, is the model's choice (log 129). -/
def tourStops (s : State) (len : Nat) (h : Header) (seg : Seg) (d a : Reg) (hdr : Nat) : Step := do
  let n := bitsOf hdr 4 0
  if n = 0 ∨ 16 < n then
    s.free d
    return ((s.consume [a]).write d s.badItinerary).advance len
  let g := s.seg seg
  let addr ← g.check (sOff (s.val a) + 64) (16 * n) rightR
  if g.isK then
    let (t, b, po) := s.spadLoad s.cur.part s.cur.core s.cur.ctx addr (16 * n)
    match po with
    | some l => trapN causePoison l
    | none => t.tourStart len h d a hdr ((List.range n).map fun i => natOfBytes ((b.drop (16 * i)).take 16))
  else s.readRange addr (16 * n) 64 2

/-- `tour` (R263): the checks of the record, and its two reads. -/
def tourBody (s : State) (len : Nat) (h : Header) (seg : Seg) (d a : Reg) : Step :=
  match s.ctx.phase, s.ctx.reply with
  | .asked n, some r =>
    if s.replyPending then .error (.park s .reply)
    else match r.poison with
      | some l => trapN causePoison l
      | none =>
        let hdr := natOfBytes (r.bytes.take 64)
        if n = 1 then s.tourStops len h seg d a hdr
        else s.tourStart len h d a hdr ((List.range (bitsOf hdr 4 0)).map fun i => natOfBytes ((r.bytes.drop (64 + 16 * i)).take 16))
  | .asked _, none => .error (.park s .reply)
  | _, _ => do
    s.ready [a]
    s.free d
    s.acquired
    let g := s.seg seg
    let addr ← g.check (sOff (s.val a)) 64 rightR
    aligned addr 64
    if (freeKey s.curQuad.tours 32).isNone then throw (.park s .tourRoom)
    if g.isK then
      let (t, b, po) := s.spadLoad s.cur.part s.cur.core s.cur.ctx addr 64
      match po with
      | some l => trapN causePoison l
      | none => t.tourStops len h seg d a (natOfBytes b)
    else s.readRange addr 64 0 1

/-! ## Tours and their slots -/

def tourOf (s : State) (p q k : Nat) : Option Tour := (s.quad p q).tours.find? k

def modTour (s : State) (p q k : Nat) (f : Tour → Tour) : State :=
  s.modQuad p q fun Q => { Q with tours := match Q.tours.find? k with | some t => Q.tours.put k (f t) | none => Q.tours }

/-- Whether a slot is the tour's. -/
def holds (s : State) (p q k : Nat) (x : TourPlace) : Bool := decide ((s.slotOf p x.core x.slot).tour = some (q, k))

/-- A slot becomes EMPTY with a mark; its units return (R259). -/
def emptySlot (s : State) (p : Nat) (x : TourPlace) (mark : SlotMark) : State :=
  s.modSlot p x.core x.slot fun _ => { mark := mark }

/-- A tile on its way leaves the network with the tour that ends. -/
def leaveHop (s : State) (p : Nat) (h : Hop) : State := s.leaveLeg p h.src h.dst h.leg

/-- A tour ends (R267): each slot that it still holds becomes EMPTY with the mark that `mark` gives it, and its entry frees. -/
def endTour (s : State) (p q k : Nat) (t : Tour) (mark : TourPlace → SlotMark) : State :=
  let s := match (s.tourOf p q k).bind Tour.hop with | some h => s.leaveHop p h | none => s
  let s := t.places.foldl (fun s x => if s.holds p q k x then s.emptySlot p x (mark x) else s) s
  (s.endReads p (.tour q k)).modQuad p q fun Q => { Q with tours := Q.tours.del k }

/-- An aborted tour ends: its slots are EMPTY with mark ABORTED, those that a `tabort` named without one, and every `tabort` is answered
(R278). -/
def endAborted (s : State) (p q k : Nat) (t : Tour) : State :=
  let s := s.endTour p q k t fun x => if t.aborts.any fun a => decide (a.1 = x.core ∧ a.2.1 = x.slot) then .none else .aborted
  t.aborts.foldl (fun s a => s.deliver p a.2.2.tid a.2.2.gen a.2.2.shadow a.2.2.d 0) s

/-- FAILED (R267), unless it has been ABORTED before. -/
def failTour (s : State) (p q k : Nat) (t : Tour) : State :=
  if t.aborts.isEmpty then s.endTour p q k t fun _ => .error else s.endAborted p q k t

/-- The answer of a tour (R264). -/
def answerTour (s : State) (p k : Nat) (t : Tour) (status : Nat) : State :=
  s.deliver p t.tid t.gen t.shadow t.d
    (BitVec.ofNat 64 (status * 2 ^ 60 + coreOf t.tid * 2 ^ 5 + (if status = 0 then k else 0)))

/-! ## Reservation (R265, R266) -/

/-- Units that slots of a quad hold, all of them or a region's. -/
def unitsHeld (Q : Quad) (region : Option Nat) : Nat :=
  Q.cores.foldl (fun n c => c.2.slots.foldl (fun n x =>
    if region.isNone || region == some x.2.region then n + x.2.units else n) n) 0

/-- A quad grants one place, or refuses it (R266). A tour of a thread in no live region (R400) stands under region number 1024, and that
only the quad's 64 units limit it is the model's choice (log 128). -/
def grantPlace (s : State) (p q k : Nat) (t : Tour) (x : TourPlace) : Option State :=
  let tsb := ((s.part p).regions.find? t.region).map Region.tsb
  let y := s.slotOf p x.core x.slot
  let Q := s.quad p (quadOfCore x.core)
  let u := (t.bytes + 4095) / 4096
  let fits := match tsb with | some m => decide (unitsHeld Q (some t.region) + u ≤ m) | none => true
  if y.state = .empty ∧ y.mark = .none ∧ y.tour = none ∧ unitsHeld Q none + u ≤ 64 ∧ fits = true then
    let hold := match t.stops[x.stop]? with | some st => st.hold | none => 0
    some (s.modSlot p x.core x.slot fun _ =>
      { state := .filling, tour := some (q, k), stop := x.stop, alternate := x.alternate, size := t.bytes, limit := hold,
        region := t.region, units := u })
  else none

/-- Whether any byte that a tour would read has been toured (R265). -/
def toured (s : State) (p q : Nat) (t : Tour) : Bool :=
  let a := t.sseg.base.toNat + t.soff
  (List.range t.rows).any fun i => (s.firstToured p t.region (calderaOf q) (a + i * t.pitch) (a + i * t.pitch + t.rowBytes)).isSome

/-- Whether a tour uses the registry (R265). -/
def usesRegistry (s : State) (p : Nat) (t : Tour) : Bool :=
  match (s.part p).regions.find? t.region with
  | some r => r.ronce || r.strict
  | none => false

/-- The registry entry of a tour. -/
def registryEntry (p : Nat) (t : Tour) : RegistryEntry :=
  { part := p, region := t.region, base := t.sseg.base.toNat + t.soff, rowBytes := t.rowBytes, rows := t.rows, pitch := t.pitch }

/-- The place of a tour's request in the order of R213. -/
def requestAge (s : State) (p : Nat) (t : Tour) : Nat × Nat × Nat := (messageAge (s.part p).cycle t.issued, t.tid, 0)

/-- Whether another request at the registry of a quad's caldera goes before a tour's (R265). -/
def registryTaken (s : State) (p q : Nat) (t : Tour) : Bool :=
  s.parts.any fun P => decide (P.2.run = .live) && P.2.quads.any fun Q => decide (calderaOf Q.1 = calderaOf q) &&
    Q.2.tours.any fun y => decide (y.2.state = .reserving) && !y.2.registered && s.usesRegistry P.1 y.2 &&
      goesBefore (s.requestAge P.1 y.2) (s.requestAge p t)

/-- A tour that is not accepted is answered; it has reserved and recorded nothing (R264, R265), and an abort of it has nothing left
to end (R278; log 98). -/
def refuseTour (s : State) (p q k : Nat) (t : Tour) (status : Nat) : State :=
  let s := s.endTour p q k t fun _ => .none
  let s := if t.registered && s.usesRegistry p t then
      s.modCaldera (calderaOf q) fun c => { c with registry := c.registry.erase (registryEntry p t) }
    else s
  t.aborts.foldl (fun s a => s.deliver p a.2.2.tid a.2.2.gen a.2.2.shadow a.2.2.d 0) (s.answerTour p k t status)

/-- The registry step (R265): requests are taken one at a time, in the order of R213. -/
def registerTour (s : State) (p q k : Nat) (t : Tour) : State :=
  let ronce := match (s.part p).regions.find? t.region with | some r => r.ronce | none => false
  if !s.usesRegistry p t then s.modTour p q k fun t => { t with registered := true }
  else if s.registryTaken p q t then s
  else if ronce && s.toured p q t then s.refuseTour p q k t 2
  else if 1024 ≤ (s.caldera (calderaOf q)).registry.length then s.refuseTour p q k t 3
  else
    (s.modCaldera (calderaOf q) fun c => { c with registry := c.registry ++ [registryEntry p t] }).modTour p q k
      fun t => { t with registered := true }

/-- The next place is asked (R266), or when all have been, the tour is accepted, or its grants are cancelled. That neither the requests
to places on other quads nor the cancels enter an interface, and no quiesce probe counts them (R205, R212), is the model's choice
(log 27). -/
def askPlace (s : State) (p q k : Nat) (t : Tour) : State :=
  match t.places[t.asked]? with
  | some x =>
    match s.grantPlace p q k t x with
    | some s => s.modTour p q k fun t => { t with asked := t.asked + 1 }
    | none => s.modTour p q k fun t => { t with asked := t.asked + 1, refused := true }
  | none =>
    if t.refused then s.refuseTour p q k t 1
    else (s.modTour p q k fun t => { t with state := .reading }).answerTour p k t 0

/-- A step of a tour that is RESERVING: the registry step, a place that is asked, or the answer. One thread's tours are taken in issue
order (R98). -/
def reserveStep (s : State) (p q k : Nat) : State :=
  match s.tourOf p q k with
  | none => s
  | some t =>
    let older := (s.quad p q).tours.any fun y =>
      decide (y.2.tid = t.tid ∧ y.2.shadow = t.shadow ∧ y.2.state = .reserving ∧ y.2.seq < t.seq)
    if !s.live p || decide (t.state ≠ .reserving) || older then s
    else if !t.registered then s.registerTour p q k t
    else s.askPlace p q k t

/-! ## A tile at a place (R266 to R268) -/

/-- A COPY (R266, R272): the tile goes into the core's scratchpad, poisoned granules as zeros; a guarded granule is logged
against context zero. -/
def copyTile (s : State) (p core coff : Nat) (x : TileSlot) (pc : BitVec 50) : State :=
  (List.range ((x.size + 63) / 64)).foldl (fun s g =>
    let n := min 64 (x.size - 64 * g)
    let b := if x.poison.contains g then List.replicate n 0 else x.read (64 * g) n
    s.spadStoreLine p core 0 (coff + 64 * g) b pc) s

/-- Whether the COPY of a tile at a place waits for the banks of the core's scratchpad (R170). -/
def copyWaits (s : State) (p : Nat) (t : Tour) (x : TourPlace) : Bool :=
  match t.stops[x.stop]? with
  | some st => st.copy && s.bankTaken p x.core st.coff (t.rows * t.rowBytes)
  | none => false

/-- A tile is complete at a place: its COPY is made, and the slot is READY. -/
def tileArrives (s : State) (p q k : Nat) (t : Tour) (x : TourPlace) : State :=
  let y := s.slotOf p x.core x.slot
  let s := match t.stops[x.stop]? with
    | some st => if st.copy then s.copyTile p x.core st.coff y t.pc else s
    | none => s
  let s := s.modSlot p x.core x.slot fun y => { y with state := .ready, readyAt := (s.part p).cycle }
  s.modTour p q k fun t => { t with state := .atStop x.stop x.alternate }

/-- The place at which a tour's tile is. -/
def placeNow (s : State) (p q k : Nat) (t : Tour) : Option TourPlace :=
  match t.state with
  | .reserving => none
  | .reading => t.places.head?
  | .atStop i alt => t.places.find? fun x => decide (x.stop = i ∧ x.alternate = alt)
  | .writingBack => t.places.find? fun x => s.holds p q k x && decide ((s.slotOf p x.core x.slot).state = .draining)

/-- Where the tile goes from a place: its alternate when it has been diverted, else the next stop. -/
def nextPlace (t : Tour) (x : TourPlace) (diverted : Bool) : Option TourPlace :=
  if diverted then t.places.find? fun y => decide (y.stop = x.stop ∧ y.alternate = true)
  else t.places.find? fun y => decide (y.stop = x.stop + 1 ∧ y.alternate = false)

/-- Whether a tile that leaves a place by an overrun is diverted (R269). -/
def diverts (t : Tour) (x : TourPlace) (overrun : Bool) : Bool :=
  overrun && !x.alternate && (match t.stops[x.stop]? with | some st => decide (st.policy = 2) | none => false)

/-- The tile leaves a place (R267, R268): the slot drains, and an alternate that is not needed is released. After the last place the
write-back begins, or the tour is DONE; one that is ABORTED and has waited for array reads of the slot ends so (R278). -/
def drainSlot (s : State) (p q k : Nat) (t : Tour) (x : TourPlace) (overrun : Bool) : State :=
  let s := s.modSlot p x.core x.slot fun y => { y with state := .draining, bypassed := overrun }
  let div := diverts t x overrun
  let s := if div || !t.aborts.isEmpty then s
    else match t.places.find? fun y => decide (y.stop = x.stop ∧ y.alternate = true ∧ y ≠ x) with
      | some y => if s.holds p q k y then s.emptySlot p y .none else s
      | none => s
  if (nextPlace t x div).isSome then s
  else if t.wb then s.modTour p q k fun t => { t with state := .writingBack }
  else if !t.aborts.isEmpty then s.endAborted p q k t
  else s.endTour p q k t fun z => if z = x ∧ overrun then .overrun else .none

/-! ## Reading (R266, R267) -/

/-- Granules of a tile that a range touches. -/
def granules (a n : Nat) : List Nat := (List.range ((a + n + 63) / 64 - a / 64)).map fun i => a / 64 + i

/-- A tour stalls on a page (R155). -/
def stallTour (s : State) (p q k : Nat) (t : Tour) (acc kind va : Nat) : State :=
  (s.enterFault p (calderaOf q) { kind := kind, acc := acc, thread := t.tid, asid := t.asid, va := va }).modTour p q k
    fun t => { t with stalled := some va }

/-- Whether a tour may go on. -/
def tourRuns (s : State) (p : Nat) (t : Tour) : Bool := s.live p && t.aborts.isEmpty && t.stalled.isNone

/-- Read one piece into the first stop's slot; or, when all are read, the tile is complete there. -/
def tourRead (s : State) (p q k : Nat) (piece : Option Nat) : State :=
  match s.tourOf p q k with
  | none => s
  | some t =>
    match t.places with
    | [] => s
    | x :: _ =>
      if !s.tourRuns p t || decide (t.state ≠ .reading) || !s.acquireDone p t.tid t.bound t.shadow t.h then s
      else match piece with
        | none => if t.rowsRead.length = t.pieces t.srcRow && !s.copyWaits p t x then s.tileArrives p q k t x else s
        | some m =>
          let (i, j) := pieceOf t.rowBytes m
          if t.rows ≤ i ∨ lineCount (t.srcRow i) t.rowBytes ≤ j ∨ t.rowsRead.contains m then s
          else
            let (o, n) := linePiece (t.srcRow i) t.rowBytes j
            let r : Reader := { issuer := .tour q k, part := p, quad := q, tid := t.tid, tag := m, asid := t.asid }
            match s.engineRead r t.sseg (t.soff + i * t.pitch + o : Nat) n with
            | (s, .held) => s
            | (s, .fault kind va) => s.stallTour p q k t 4 kind va
            | (s, .refused _) => s.failTour p q k t
            | (s, .bytes b po) =>
              let at_ := i * t.rowBytes + o
              let s := s.modSlot p x.core x.slot fun y =>
                let y := y.write at_ b
                if po.isSome then { y with poison := (granules at_ n).foldl NSet.add y.poison } else y
              (s.useFetched p (.tour q k) m).modTour p q k fun t => { t with rowsRead := NSet.add t.rowsRead m }

/-! ## Handing on (R267) -/

/-- An abort is carried out once the tour has been answered (log 98) and no slot of it is held by array reads (R278). -/
def abortStep (s : State) (p q k : Nat) (t : Tour) : State :=
  if t.aborts.isEmpty || decide (t.state = .reserving) || (t.places.any fun x => s.holds p q k x && s.slotHeld p x.core x.slot) then s
  else s.endAborted p q k t

/-- A tile enters a leg of its way to the next place (R86, R205). -/
def enterHop (s : State) (p q k : Nat) (h : Hop) : State :=
  (({ s with nextSeq := s.nextSeq + 1 } : State).modTour p q k fun t => { t with hop := some { h with seq := s.nextSeq } }).enterLeg
    p h.src h.dst h.leg

/-- The tile is in the next place, which becomes READY, and the draining slot EMPTY. -/
def passTile (s : State) (p q k : Nat) (t : Tour) (x z : TourPlace) (y : TileSlot) : State :=
  let s := (s.modTour p q k fun t => { t with hop := none }).modSlot p z.core z.slot fun w => { w with bytes := y.bytes, poison := y.poison }
  (s.tileArrives p q k t z).emptySlot p x (if y.bypassed then .overrun else .none)

/-- A draining tile is handed on: to another quad it travels leg by leg (16_tile.md, R86), within one it is copied. A freeze lets a
tile that travels arrive. -/
def handTile (s : State) (p q k : Nat) (t : Tour) (x z : TourPlace) (y : TileSlot) : State :=
  match t.hop with
  | none =>
    if !s.live p then s
    else if quadOfCore x.core = quadOfCore z.core then (if s.copyWaits p t z then s else s.passTile p q k t x z y)
    else s.enterHop p q k { src := quadOfCore x.core, dst := quadOfCore z.core, leg := 0, seq := 0 }
  | some h =>
    if !s.firstOf p (some h.channel) || (decide (legCount h.src h.dst ≤ h.leg + 1) && s.copyWaits p t z) then s
    else
      let s := s.leaveLeg p h.src h.dst h.leg
      if h.leg + 1 < legCount h.src h.dst then s.enterHop p q k { h with leg := h.leg + 1 } else s.passTile p q k t x z y

/-- What a tour's tile does at the place where it is: it is handed on once its slot drains. A tour that has been aborted ends here. -/
def handOver (s : State) (p q k : Nat) : State :=
  match s.tourOf p q k with
  | none => s
  | some t =>
    if (s.part p).run ≠ .live ∧ t.hop.isNone then s
    else if !t.aborts.isEmpty then s.abortStep p q k t
    else match t.state, s.placeNow p q k t with
      | .atStop _ _, some x =>
        let y := s.slotOf p x.core x.slot
        if y.state ≠ .draining then s
        else match nextPlace t x (diverts t x y.bypassed) with
          | some z => s.handTile p q k t x z y
          | none => s
      | _, _ => s

/-! ## Overruns (R269) -/

/-- The tour and the place of a READY slot. -/
def slotTour (s : State) (p core slot : Nat) : Option (Nat × Nat × Tour × TourPlace) :=
  let y := s.slotOf p core slot
  if y.state ≠ .ready then none
  else match y.tour with
    | none => none
    | some (q, k) => (s.tourOf p q k).map fun t => (q, k, t, ⟨core, slot, y.stop, y.alternate⟩)

/-- Whether a place is a stop under WAIT; an alternate has BYPASS. -/
def waitsFor (t : Tour) (x : TourPlace) : Bool :=
  !x.alternate && (match t.stops[x.stop]? with | some st => decide (st.policy = 0) | none => false)

/-- Whether an overrun takes the tile out of a place: not under WAIT, unless the core is dead. -/
def overrunLeaves (s : State) (p : Nat) (t : Tour) (x : TourPlace) : Bool := !waitsFor t x || (s.core p x.core).dead

/-- Whether a slot's stop overruns now: its clock has reached the limit, or its core has halted; a stop that is leaving for an
overrun has none more. -/
def overrunNow (s : State) (p : Nat) (t : Tour) (x : TourPlace) : Bool :=
  let y := s.slotOf p x.core x.slot
  if (s.core p x.core).dead then !y.died && (!y.overrun || waitsFor t x)
  else !y.overrun && decide (y.limit ≠ 0 ∧ y.readyAt + 64 * y.limit ≤ (s.part p).cycle)

/-- Whether a slot has an overrun to take, or one taken whose tile may now leave. -/
def overrunDue (s : State) (p core slot : Nat) : Bool :=
  match s.slotTour p core slot with
  | none => false
  | some (_, _, t, x) =>
    s.live p && t.aborts.isEmpty &&
      (s.overrunNow p t x || ((s.slotOf p core slot).overrun && s.overrunLeaves p t x && !s.slotHeld p core slot))

/-- A stop overruns: it is counted, and the policy acts once the array reads of the slot are done (R271). A stop that has
overrun under WAIT overruns again when its core dies. -/
def overrunStep (s : State) (p core slot : Nat) : State :=
  if !s.overrunDue p core slot then s
  else match s.slotTour p core slot with
    | none => s
    | some (q, k, t, x) =>
      let s := if s.overrunNow p t x then
          (s.modSlot p core slot fun y => { y with overrun := true, died := (s.core p core).dead }).modTour p q k
            fun t => { t with overruns := t.overruns + 1 }
        else s
      if s.overrunLeaves p t x && !s.slotHeld p core slot then s.drainSlot p q k t x true else s

/-! ## Write-back (R267, R272) -/

/-- Write one piece back; or, when all are written, complete under R98. -/
def tourWrite (s : State) (p q k : Nat) (piece : Option Nat) : State :=
  match s.tourOf p q k with
  | none => s
  | some t =>
    match s.placeNow p q k t with
    | none => s
    | some x =>
      if !s.tourRuns p t || decide (t.state ≠ .writingBack) then s
      else
        let y := s.slotOf p x.core x.slot
        match piece with
        | none =>
          if t.written.length = t.pieces t.dstRow && s.releaseDone p t.tid (.tour q k) t.h then
            s.endTour p q k t fun z => if z = x ∧ y.bypassed then .overrun else .none
          else s
        | some m =>
          let (i, j) := pieceOf t.rowBytes m
          if t.rows ≤ i ∨ lineCount (t.dstRow i) t.rowBytes ≤ j ∨ t.written.contains m then s
          else
            let (o, n) := linePiece (t.dstRow i) t.rowBytes j
            let b := y.read (i * t.rowBytes + o) n
            let bad := (y.poisoned (i * t.rowBytes + o) n).isSome
            let va := (t.dstRow i + o) % 2 ^ 52
            let written (s : State) : State := s.modTour p q k fun t => { t with written := NSet.add t.written m }
            if t.wseg.isK && s.bankTaken p (coreOf t.tid) va n then s
            else if t.wseg.isK then written (s.engineSpad p t.tid va b bad t.pc)
            else match s.translateNow (.tour q k) p q t.tid t.asid va with
              | (s, .ok ph) => written (s.engineWrite (.tour q k) p q t.tid t.uid t.asid t.pc ph va b bad !t.h.rel)
              | (s, .error .held) => s
              | (s, .error (.fault kind)) => s.stallTour p q k t 5 kind va
              | (s, .error _) => s.failTour p q k t

end State

def execTour (seg : Seg) (d a : Reg) (s : State) : Out := .next (s.settle (s.tourBody 4 .none seg d a))
def execTourOrdered (h : Header) (seg : Seg) (d a : Reg) (s : State) : Out := .next (s.settle (s.tourBody 12 h seg d a))
def execTourReservation (p q k : Nat) (s : State) : Out := .next (s.reserveStep p q k)
def execTourReadDone (p q k : Nat) (piece : Option Nat) (s : State) : Out := .next (s.tourRead p q k piece)
def execTourHandover (p q k : Nat) (s : State) : Out := .next (s.handOver p q k)
def execHoldOverrun (p core slot : Nat) (s : State) : Out := .next (s.overrunStep p core slot)
def execTourWritebackDone (p q k : Nat) (piece : Option Nat) (s : State) : Out := .next (s.tourWrite p q k piece)

end Sys2Proof.Machine
end

