-- ==== Sys2Proof/Machine/Kernel.lean ====
section
/-!
DEFINITION. Regions, launch and the fold (R236 to R251): the region control block, launch packets and the completion word,
the decision of a launch, `launch`, `wunext`, `wudone`, and the fold with the start of context zero.
-/
namespace Sys2Proof.Machine

/-! ## The region control block (R236) -/

/-- An inherited field: its own value, or the parent's, or the root default, when it is zero. -/
def inherited (own : Nat) (parent : Option Nat) (root : Nat) : Nat := if own ≠ 0 then own else parent.getD root

/-- The region that an RCB describes, its fields inherited; `asid` is the address space it is launched in. -/
def regionOf (parent : Option Region) (asid va v : Nat) : Region :=
  let inh (hi lo : Nat) (f : Region → Nat) (root : Nat) : Nat := inherited (bitsOf v hi lo) (parent.map f) root
  let switch (b : Bool) : Nat := if b then 2 else 1
  { rcb := va, rcbAsid := asid
    asid := inh 729 720 (fun r => r.asid + 1) (asid + 1) - 1
    nx := bitsOf v 95 64, ny := bitsOf v 127 96, nz := bitsOf v 159 128
    root := (parent.map Region.root).getD 0
    cores := []
    image := inh 435 384 Region.image 0
    segt := inh 499 448 Region.segt 0
    cellmap := inh 563 512 Region.cellmap 0
    kvmiss := inh 627 576 Region.kvmiss 0
    spill := inh 691 640 Region.spill 0
    spilln := inh 719 704 Region.spilln 0
    quant := inh 319 300 Region.quant 0
    wctx := inh 283 280 Region.wctx 15
    tsb := inh 279 272 Region.tsb 64
    fdom := inh 255 248 Region.fdom 1
    prio := inh 247 244 (fun r => r.prio + 1) 1 - 1
    det := decide (inh 243 242 (fun r => switch r.det) 1 = 2)
    ronce := decide (inh 241 240 (fun r => switch r.ronce) 1 = 2)
    strict := decide (inh 239 238 (fun r => switch r.strict) 1 = 2) }

/-- A reserved bit of an RCB is set. -/
def rcbReserved (v : Nat) : Bool :=
  decide (bitsOf v 2047 836 ≠ 0 ∨ bitsOf v 831 820 ≠ 0 ∨ bitsOf v 767 730 ≠ 0 ∨ bitsOf v 703 692 ≠ 0 ∨
    bitsOf v 639 628 ≠ 0 ∨ bitsOf v 575 564 ≠ 0 ∨ bitsOf v 511 500 ≠ 0 ∨ bitsOf v 447 436 ≠ 0 ∨ bitsOf v 299 284 ≠ 0 ∨
    bitsOf v 271 256 ≠ 0 ∨ bitsOf v 237 160 ≠ 0)

/-- An own field of an RCB, or its dependence list, that R240's fourth row refuses. -/
def rcbMalformed (v : Nat) (deps : List Nat) : Bool :=
  let n := bitsOf v 835 832
  rcbReserved v ||
    decide (8 < bitsOf v 247 244 ∨ 64 < bitsOf v 279 272 ∨ bitsOf v 243 242 = 3 ∨ bitsOf v 241 240 = 3 ∨ bitsOf v 239 238 = 3 ∨
      8 < n ∨ (n ≠ 0 ∧ bitsOf v 819 768 % 8 ≠ 0)) ||
    deps.any fun d => decide (d % 256 ≠ 0 ∨ 2 ^ 52 ≤ d)

/-- Units of a region. -/
def Region.units (r : Region) : Nat := r.nx * r.ny * r.nz

/-- The launch status codes of R240. -/
def launchEmpty : Nat := 1
def launchRange : Nat := 2
def launchShape : Nat := 3
def launchFormat : Nat := 4
def launchLive : Nat := 5
def launchFull : Nat := 6
def launchRead : Nat := 7
def launchParent : Nat := 8

/-- Ranks `lo` and on, `n` of them, or all to the end when `n` is 0, of a list of cores. -/
def coreSet (cores : List Nat) (lo n : Nat) : List Nat := if n = 0 then cores.drop lo else (cores.drop lo).take n

/-- The cores of a partition in ascending identifier. -/
def Partition.cores (P : Partition) : List Nat := (List.range P.coreCount).map (coreAtRank P.shape)

/-- Whether R219 holds the spill rings fixed. -/
def Partition.ringsFixed (P : Partition) : Bool :=
  !P.regions.isEmpty || P.quads.any fun Q => Q.2.cores.any fun C => !C.2.ring.threads.isEmpty

/-- The CODE of a launch (R240): the first row that applies, from row 3 on; 0 is ACCEPTED. `n` is the size of the set that
the region's cores are taken from. -/
def launchCode (P : Partition) (child : Bool) (parent : Option Region) (r : Region) (v : Nat) (deps : List Nat) (n : Nat) : Nat :=
  let cbase := bitsOf v 383 352
  if child ∧ parent.isNone then launchParent
  else if rcbMalformed v deps || decide (r.image = 0 ∨ (!P.regions.isEmpty ∧ r.det ≠ P.det) ∨
      (P.ringsFixed ∧ (r.spill ≠ P.spill ∨ r.spilln ≠ P.spilln)) ∨ (!child ∧ bitsOf v 835 832 ≠ 0)) then launchFormat
  else if 2 ^ 24 < r.nx ∨ 2 ^ 24 < r.ny ∨ 2 ^ 24 < r.nz then launchRange
  else if n < cbase + bitsOf v 351 320 ∨ n ≤ cbase then launchShape
  else if P.regions.any fun x => decide (x.2.rcb = r.rcb ∧ x.2.rcbAsid = r.rcbAsid) then launchLive
  else if 1024 ≤ P.regions.length then launchFull
  else if r.units = 0 then launchEmpty
  else 0

namespace State

/-! ## Launching (R239 to R242, R250) -/

/-- What a partition takes from the root that it accepts while it holds no live region: its mode (R16), priority and quantum
(R250), and, from the launch on, its cycles (R107), its determinism registers (R395, R396), its calderas' barriers (R200),
its roles (R253), arrival numbers (R219) and vent counters (R336), all anew. Its quads are those that the driver has named (R15; log 87). -/
def launchPartition (s : State) (p : Nat) (r : Region) : State :=
  s.modPart p fun P =>
    { P with
      det := r.det, paused := false, prio := r.prio, quantum := r.quant, resumed := P.cycle, launchedAt := P.cycle
      detChoices := 0, rested := false, drainChoices := 0
      dcause := 0, dcrecs := [], conflict := 0, writers := [], bars := [], ventCounts := []
      quads := P.quads.mapVal fun _ Q => { Q with cores := Q.cores.mapVal fun _ C =>
        { C with role := 0, roleTable := 0, dryFrom := P.cycle, ring := { C.ring with seq := 0 } } } }

/-- A partition that does not run begins to wait for its quads (R250). -/
def awaitQuads (s : State) (p : Nat) : State :=
  let P := s.part p
  if P.run = .live ∨ P.run = .freezing ∨ P.waiting.isSome then s
  else ({ s with nextWait := s.nextWait + 1 } : State).modPart p fun P => { P with waiting := some s.nextWait }

/-- Note how a launch at an RCB ended: whether every unit of the region counts as taken (R242). A live region keeps its
note. A launch of a producer again makes a consumer that is PENDING still wait for it again (log 143). -/
def noteLaunch (s : State) (p asid va : Nat) (taken : Bool) : State :=
  s.modPart p fun P =>
    if P.regions.any fun x => decide (x.2.rcb = va ∧ x.2.rcbAsid = asid) then P
    else { P with launched := P.launched.put (rcbKey asid va) taken }

/-- An accepted region gets a free handle, whichever, and is PENDING (R240). -/
def acceptRegion (s : State) (p q : Nat) (r : Region) (parent : Option Region) : State × Nat :=
  let P := s.part p
  let s := if P.ringsFixed then s
    else s.modPart p fun P => { P with spillAsid := r.asid, spill := r.spill, spilln := r.spilln }
  let s := if P.regions.isEmpty && parent.isNone then s.launchPartition p r else s
  let free := (List.range 1024).filter fun h => (P.regions.find? h).isNone
  let (s, k) := s.chooseOwn p free.length
  let handle := free.getD k 0
  let s := s.noteLaunch p r.rcbAsid r.rcb false
  let s := s.modPart p fun P => { P with regions := P.regions.put handle r }
  let s := (s.writeRcb p q r.rcbAsid r.rcb (rcbWord 1 0 handle)).awaitQuads p
  (s.activateAll p, handle)

/-- Decide a launch (R240) from quad `q`: the state after it, the CODE, and the handle of an accepted region; of any other, EMPTY
among them, it is 0 (log 142). -/
def decideLaunch (s : State) (p q : Nat) (child : Bool) (parent : Option Region) (root asid va v : Nat) (deps : List Nat) :
    State × Nat × Nat :=
  let P := s.part p
  let r := regionOf parent asid va v
  let from_ := match parent with | some x => x.cores | none => P.cores
  let r := { r with
    root := if child then r.root else root
    cores := coreSet from_ (bitsOf v 383 352) (bitsOf v 351 320)
    deps := deps.map (rcbKey r.asid) }
  let code := launchCode P child parent r v deps from_.length
  if code = 0 then
    let (s, h) := s.acceptRegion p q r parent
    (s, 0, h)
  else
    let s := s.noteLaunch p asid va true
    let s := s.writeRcb p q asid va (rcbWord (if code = launchEmpty then 3 else 5) code 0)
    (s.activateAll p, code, 0)

/-! ## Launch packets (R238, R239) -/

/-- A packet that breaks its layout (R239). -/
def packetMalformed (s : State) (f v : Nat) : Bool :=
  let done := bitsOf v 127 64
  decide (bitsOf v 511 213 ≠ 0 ∨ bitsOf v 63 52 ≠ 0 ∨ bitsOf v 191 191 ≠ 0 ∨ bitsOf v 51 0 % 256 ≠ 0 ∨
    (done ≠ 0 ∧ (done % 8 ≠ 0 ∨ !s.ownsBlocks f (done / blockBytes) (done / blockBytes))))

/-- A root launch is recorded, so that its completion word is written; an address that names no word of the function's is
written to by nothing. -/
def addRoot (s : State) (f v : Nat) (refused : Option Nat) : State × Nat :=
  let done := bitsOf v 127 64
  let ok := decide (done % 8 = 0) && s.ownsBlocks f (done / blockBytes) (done / blockBytes)
  let k := (s.part f).nextRoot
  (s.modPart f fun P =>
    let r : RootLaunch :=
      { done := if ok then done else 0, doneVal := BitVec.ofNat 64 (bitsOf v 191 128), irq := v.testBit 201,
        vec := bitsOf v 212 202, refusedCode := refused }
    { P with nextRoot := k + 1, roots := P.roots.put k r }, k)

/-- The packet at the head has been dealt with. -/
def popPacket (s : State) (f : Nat) : State :=
  (s.endReads f .packet).modFunc f fun x => { x with packets := x.packets.drop 1, packetFault := none }

/-- The first quad of a partition: the hub's accesses for it are translated there. -/
def hubQuad (s : State) (p : Nat) : Nat := ((s.part p).shape.headD (0, 0)).1

/-- A root launch that is refused before its RCB is decided on. The word of the RCB is written but for a misaligned ROOT and for LAUNCH_READ
(R239, R240). -/
def refusePacket (s : State) (f v code : Nat) : State :=
  let asid := bitsOf v 200 192
  let va := bitsOf v 51 0
  let s := (s.popPacket f).noteLaunch f asid va true
  let s := if code = launchRead ∨ va % 256 ≠ 0 then s else s.writeRcb f (s.hubQuad f) asid va (rcbWord 5 code 0)
  ((s.addRoot f v (some code)).1).activateAll f

/-- Decide the launch of a packet whose RCB has been read. -/
def launchRoot (s : State) (f v rcb : Nat) : State :=
  let (s, k) := (s.popPacket f).addRoot f v none
  match s.decideLaunch f (s.hubQuad f) false none k (bitsOf v 200 192) (bitsOf v 51 0) rcb [] with
  | (s, code, _) =>
    if code = 0 ∨ code = launchEmpty then s
    else s.modPart f fun P => { P with roots := match P.roots.find? k with
      | some r => P.roots.put k { r with refusedCode := some code }
      | none => P.roots }

/-- Whether the hub serves a function: it runs, or a failed start has left it the physical function alone (R386). -/
def serves (s : State) (f : Nat) : Bool := decide (s.firmware.state = .run ∨ (s.firmware.state = .failed ∧ f = 0))

/-- Whether the hub serves a function's launch packets: the function is enabled and zeroed (R375, R391). -/
def servesLaunch (s : State) (f : Nat) : Bool :=
  s.serves f && (decide (f = 0) || ((s.func f).en && !(s.func f).scrubbing))

/-- The hub takes the packet at the head of a function's queue (R239). -/
def takePacket (s : State) (f : Nat) : State :=
  match (s.func f).packets with
  | [] => s
  | a :: _ =>
    if !s.servesLaunch f then s
    else match (s.func f).packetFault with
    | some (_, _, false) => s
    | held =>
      if s.isPoisoned a then s.popPacket f
      else
        let v := natOfBytes (s.readMem a 64)
        let asid := bitsOf v 200 192
        let va := bitsOf v 51 0
        if s.packetMalformed f v then s.refusePacket f v launchFormat
        else if held.isSome then s.refusePacket f v launchRead
        else
          let q := s.hubQuad f
          match engineReadMem { issuer := .packet, part := f, quad := q, tid := 0, asid := asid } 5 s va 256 with
          | (s, .bytes b none) => s.launchRoot f v (natOfBytes b)
          | (s, .fault kind at_) =>
            (s.enterFault f (calderaOf q) { kind := kind, acc := 4, thread := 0, asid := asid, va := at_ }).modFunc f fun x =>
              { x with packetFault := some (asid, at_, false) }
          | (s, .held) => s
          | (s, _) => s.refusePacket f v launchRead

/-- A write of the launch word (R238). -/
def writeLaunchWord (s : State) (f : Nat) (value : Word64) : State :=
  let v := value.toNat
  let b := v / blockBytes
  if v % 64 = 0 ∧ s.ownsBlocks f b b ∧ (s.func f).packets.length < 16 ∧ s.firmware.state ≠ .recovery then
    s.modFunc f fun x => { x with packets := x.packets ++ [v] }
  else s.modFunc f fun x => { x with ovf := true }

/-- A read of the launch word, where it responds (R386). -/
def readLaunchWord (s : State) (f : Nat) : State :=
  if !s.bar0Responds f 0 then { s with hostValue := some (bytesOfNat 8 0) }
  else
  let x := s.func f
  let v := x.packets.length + (if x.ovf then 32 else 0)
  ({ s with hostValue := some (bytesOfNat 8 v) } : State).modFunc f fun x => { x with ovf := false }

/-! ## The completion word (R239) -/

/-- Whether an access writes memory. -/
def writesMemory (x : Access) : Bool :=
  match x.kind with
  | .store .. | .amo .. | .cas .. | .red .. | .rcast .. | .reserve .. => !x.spad
  | _ => false

/-- Whether an engine of a partition has memory still to write: a copy, a write-back that has begun, a vent command, or a fumarole's
program. -/
def enginesWrite (s : State) (p : Nat) : Bool :=
  ((s.part p).quads.any fun Q =>
    (Q.2.copies.any fun c => !c.2.dseg.isK) || (Q.2.tours.any fun t => decide (t.2.state = .writingBack) && !t.2.wseg.isK) ||
      Q.2.vents.any fun v => !v.2.dseg.isK) ||
    s.fumaroles.any fun f => match f.2.program with | some g => decide (g.part = p) | none => false

/-- Whether a write of a partition's is still to be applied. -/
def writesPending (s : State) (p : Nat) : Bool :=
  s.enginesWrite p ||
  !(s.part p).rcbWrites.isEmpty || (s.accesses.any fun x => decide (x.2.part = p) && x.2.unapplied && writesMemory x.2) ||
    s.homes.any fun h => h.2.held.any fun x => decide (x.part = p)

/-- Write the completion word of a root launch that has ended, or was refused, once the partition's writes have been applied, and send its
message (R239). -/
def writeDone (s : State) (p k : Nat) : State :=
  match (s.part p).roots.find? k with
  | none => s
  | some r =>
    let value? : Option Word64 := if s.writesPending p then none else match r.refusedCode with
      | some c => some (BitVec.ofNat 64 (2 ^ 63 + c))
      | none => if (s.part p).regions.any fun x => decide (x.2.root = k) then none else some r.doneVal
    match value? with
    | none => s
    | some v =>
      let s := s.modPart p fun P => { P with roots := P.roots.del k }
      let s := if r.done = 0 then s else s.hubWrite r.done (bytesOfNat 8 v.toNat)
      if r.irq then { s with msix := s.msix ++ [(p, r.vec)] } else s

/-! ## `launch` (R248) -/

/-- Another address space laid over the thread at hand while a step translates. -/
def inSpace (s : State) (asid : Nat) (f : State → Step) : Step :=
  let own := s.ctx.asid
  let back (t : State) : State := t.modCtx fun c => { c with asid := own }
  match f (s.modCtx fun c => { c with asid := asid }) with
  | .ok t => .ok (back t)
  | .error (.park t w) => .error (.park (back t) w)
  | .error (.drop t a va) => .error (.drop (back t) a va)
  | .error e => .error e

/-- The last part of `launch`: everything has been read. -/
def launchEnd (s : State) (d a : Reg) (rcb : Nat) (deps : List Nat) : Step := do
  let parent := s.region?
  match (s.consume [a]).decideLaunch s.cur.part s.quadNo true parent 0 s.asid (s.val a).toNat rcb deps with
  | (t, code, handle) => pure ((t.write d (BitVec.ofNat 64 (code * 2 ^ 60 + handle))).advance 4)

/-- The second part: the RCB has been read; its dependence list is read in the region's address space (R236). -/
def launchList (s : State) (d a : Reg) (rcb : Nat) : Step :=
  let n := bitsOf rcb 835 832
  let at_ := bitsOf rcb 819 768
  if 1 ≤ n ∧ n ≤ 8 ∧ at_ % 8 = 0 then
    s.inSpace (regionOf s.region? s.asid (s.val a).toNat rcb).asid fun s => s.readRange at_ (8 * n) 256 2
  else s.launchEnd d a rcb []

def launchBody (s : State) (d a : Reg) : Step :=
  match s.ctx.phase, s.ctx.reply with
  | .asked n, some r =>
    if s.replyPending then .error (.park s .reply)
    else match r.poison with
      | some l => trapN causePoison l
      | none =>
        let rcb := natOfBytes (r.bytes.take 256)
        if n = 1 then s.launchList d a rcb
        else s.launchEnd d a rcb ((List.range (bitsOf rcb 835 832)).map fun i => natOfBytes ((r.bytes.drop (256 + 8 * i)).take 8))
  | .asked _, none => .error (.park s .reply)
  | _, _ => do
    s.ready [a]
    s.free d
    s.acquired
    let v := (s.val a).toNat
    if v % 256 ≠ 0 ∨ 2 ^ 52 ≤ v then throw (.trap causeAlign (s.val a))
    s.localRelease (some .md)
    s.readRange v 256 0 1

/-! ## `wunext` and `wudone` (R246, R247) -/

/-- The task entry that `wunext` takes from in a cycle, of those written before it: highest priority, then earliest fold, then lowest
index. -/
def nextEntry (C : Core) (now : Nat) : Option (Nat × TaskEntry) :=
  (C.tasks.keep fun _ t => decide (t.since ≠ now)).foldl (fun (b : Option (Nat × TaskEntry)) t =>
    match b with
    | none => some t
    | some u => if u.2.prio < t.2.prio ∨ (u.2.prio = t.2.prio ∧ t.2.fold < u.2.fold) then some t else some u) none

/-- A unit of a region is taken (R242, R246). -/
def unitTaken (s : State) (p handle : Nat) (r : Region) : State :=
  let r := { r with taken := r.taken + 1 }
  let s := s.modPart p fun P => { P with
    regions := P.regions.put handle r
    launched := if r.taken = r.units then P.launched.put (rcbKey r.rcbAsid r.rcb) true else P.launched }
  s.activateAll p

def wunextBody (s : State) (d : Reg) : Step := do
  s.free d
  match nextEntry s.curCore s.now with
  | none => pure ((s.write d (BitVec.ofNat 64 (2 ^ 60))).advance 4)
  | some (k, e) =>
    match s.curPart.regions.find? e.handle with
    | none => pure ((s.write d (BitVec.ofNat 64 (2 ^ 60))).advance 4)
    | some r =>
      let x := BitVec.ofNat 24 (e.next % r.nx)
      let y := BitVec.ofNat 24 (e.next / r.nx % r.ny)
      let z := BitVec.ofNat 24 (e.next / (r.nx * r.ny))
      let s := s.modCurCore fun C =>
        { C with
          tasks := if e.next < e.last then C.tasks.put k { e with next := e.next + 1 } else C.tasks.del k
          curRegion := e.handle, curImage := r.image, curSegt := r.segt, curAsid := r.asid, curX := x, curY := y, curZ := z }
      let s := s.modCtx fun c =>
        { c with wuX := x, wuY := y, wuZ := z, rv := true, handle := BitVec.ofNat 10 e.handle, asid := r.asid }
      let s := s.unitTaken s.cur.part e.handle r
      pure ((s.write d (BitVec.ofNat 64 (r.wctx * 2 ^ 13 + r.prio * 2 ^ 10 + e.handle))).advance 4)

def wudoneBody (s : State) (a : Reg) : Step := do
  s.ready [a]
  let v := s.val a
  if 2 ^ 10 ≤ v.toNat then throw (.trap causeOperand v)
  let some r := s.curPart.regions.find? v.toNat | throw (.trap causeOperand v)
  if r.taken ≤ r.done then throw (.trap causeOperand v)
  s.acquired
  s.localRelease (some .md)
  let s := (s.consume [a]).advance 4
  let s := s.modCurPart fun P => { P with regions := P.regions.put v.toNat { r with done := r.done + 1 } }
  pure (if r.taken = r.units ∧ r.done + 1 = r.units then s.endRegion s.cur.part v.toNat false else s)

/-! ## The fold (R243, R244) -/

/-- The share of rank `k` of `c` cores in `u` units: its first unit, and how many. -/
def foldShare (u c k : Nat) : Nat × Nat := (k * (u / c) + min k (u % c), u / c + (if k < u % c then 1 else 0))

/-- The fold writes a core's entry; a FREE context zero starts, from the IMAGE as it stands, aligned or not (log 145),
and any other that is not HALTED is woken. -/
def foldCore (s : State) (p handle : Nat) (r : Region) (fold core first n : Nat) : State :=
  let k := (freeKey (s.core p core).tasks 16).getD 0
  let s := s.modCore p core fun C =>
    { C with tasks := C.tasks.put k { handle := handle, next := first, last := first + n - 1, fold := fold, prio := r.prio, since := (s.part p).cycle } }
  if (s.context p core 0).state = .free then
    let s := s.modCore p core fun C =>
      { C with curRegion := handle, curImage := r.image, curSegt := r.segt, curAsid := r.asid, curX := 0, curY := 0, curZ := 0 }
    s.fillContext p core 0 r.image (if r.segt = 0 then none else some r.segt) (some handle) r.asid (0, 0, 0)
  else s.wakeContext p core 0

/-- A fold that has written to a core whose context zero is HALTED fails its region (R244, R249). -/
def foldHalted (s : State) (p core : Nat) : State :=
  let c := s.context p core 0
  if c.state = .halted then s.failRegions p core c.haltReason.code none else s

/-- Whether an ACTIVE region folds now: its cell map has been read, and every core of its set has a free task entry. A freeze lets the
fold complete (R250). -/
def foldReady (s : State) (p handle : Nat) : Bool :=
  match (s.part p).regions.find? handle with
  | none => false
  | some r =>
    r.folding && !r.mapDue && (s.part p).holdsQuads && r.cores.all fun c => (freeKey (s.core p c).tasks 16).isSome

/-- Fold an ACTIVE region (R243, R244), which reads its cell map first. -/
def foldRegion (s : State) (p handle : Nat) : State :=
  let s := if (s.part p).holdsQuads then s.readMap p handle else s
  match (s.part p).regions.find? handle with
  | none => s
  | some r =>
    if !s.foldReady p handle then s
    else
      let fold := (s.part p).nextFold
      let s := s.modPart p fun P =>
        { P with nextFold := fold + 1, regions := P.regions.put handle { r with folding := false } }
      let shares := (List.zip (List.range r.cores.length) r.cores).map fun x => (x.2, foldShare r.units r.cores.length x.1)
      let shares := shares.filter fun x => decide (0 < x.2.2)
      let s := shares.foldl (fun s x => s.foldCore p handle r fold x.1 x.2.1 x.2.2) s
      shares.foldl (fun s x => s.foldHalted p x.1) s

end State

def execLaunch (d a : Reg) (s : State) : Out := .next (s.settle (s.launchBody d a))
def execWunext (d : Reg) (s : State) : Out := .next (s.settle (s.wunextBody d))
def execWudone (a : Reg) (s : State) : Out := .next (s.settle (s.wudoneBody a))
def execFold (p handle : Nat) (s : State) : Out := .next (s.foldRegion p handle)
def execLaunchWordWrite (f : Nat) (value : Word64) (s : State) : Out := .next (s.writeLaunchWord f value)
def execLaunchWordRead (f : Nat) (s : State) : Out := .next (s.readLaunchWord f)
def execLaunchPacket (f : Nat) (s : State) : Out := .next (s.takePacket f)
def execLaunchDoneWrite (p k : Nat) (s : State) : Out := .next (s.writeDone p k)

end Sys2Proof.Machine
end

