-- ==== Sys2Proof/Machine/Migrate.lean ====
section
/-!
DEFINITION. Migration (R214 to R221): `migr` and `miga` with their lean forms, arrival at a core, the arrival queue and the
spill ring, and the end of a context's loading (R108, R117).
-/
namespace Sys2Proof.Machine

/-! ## What travels (R217) -/

/-- The context that a full migration carries: the fields of the image; the others have their initial values. The poison mark of a register
goes with it (log 136). -/
def Ctx.carried (c : Ctx) : Ctx :=
  { regs := c.regs, pc := c.pc, segs := c.segs, code := c.code, posX := c.posX, posY := c.posY, posZ := c.posZ,
    wuX := c.wuX, wuY := c.wuY, wuZ := c.wuZ, rv := c.rv, asid := c.asid, handle := c.handle, partialBytes := c.partialBytes,
    wake := c.wake, inh := c.inh, tcause := c.tcause, flags := c.flags, vwinSize := c.vwinSize, vwinBase := c.vwinBase,
    tval := c.tval, tepc := c.tepc, tvec := c.tvec, crossing := c.crossing, lastTime := c.lastTime, uid := c.uid }

/-- The context that a lean migration carries: g0 to g7, s0 to s3, PC, TVEC, POS, WUID and REGION. The code segment goes on
beside it (log 20). -/
def Ctx.lean (c : Ctx) : Ctx :=
  { regs := Vector.ofFn fun i => if i.val < 8 then c.regs.get i else {}
    segs := Vector.ofFn fun i => if i.val < 4 then c.segs.get i else {}
    code := some (c.code.getD (c.segs.get 7)), pc := c.pc, tvec := c.tvec, posX := c.posX, posY := c.posY, posZ := c.posZ,
    wuX := c.wuX, wuY := c.wuY, wuZ := c.wuZ, rv := c.rv, handle := c.handle, asid := c.asid, crossing := c.crossing,
    lastTime := c.lastTime, uid := c.uid }

namespace State

/-! ## Departure -/

/-- Whether R216 refuses the thread at hand a migration to a core. -/
def migrateRefused (s : State) (target : Nat) (lean : Bool) : Bool :=
  let c := s.ctx
  decide (c.vwinSize ≠ 0) || decide (c.partialBytes ≠ 0) || c.regs.toList.any GReg.armed || !c.chans.isEmpty ||
    !s.curPart.hasCore target || (lean && c.inh)

def setTraveller (s : State) (p k : Nat) (t : Traveller) : State :=
  s.modPart p fun P => { P with travellers := P.travellers.put k t }

/-- A migrating thread sets out for a core from a quad, on the first leg of its way (R86, R212). -/
def sendTraveller (s : State) (p k : Nat) (t : Traveller) (quad core : Nat) : State :=
  let t := { t with target := core, src := quad, dst := quadOfCore core, leg := some (0, s.nextSeq) }
  (({ s with nextSeq := s.nextSeq + 1 } : State).setTraveller p k t).enterLeg p t.src t.dst 0

/-- The thread at hand departs past its one-word instruction: its context is on its way, and it is MIGRATING. Its age counts from this
cycle: the spec gives no rate at which its flits enter the network (R213; log 110). -/
def depart (s : State) (target : Nat) (lean : Bool) (crossing : Option Nat) : State :=
  let s := (s.advance 4).endWalks
  let c := s.ctx
  let t : Traveller :=
    { ctx := if lean then c.lean else c.carried, origin := s.curTid, lean := lean, sent := s.now, crossing := crossing }
  let k := s.curPart.nextTraveller
  let s := s.modCurPart fun P => { P with nextTraveller := k + 1 }
  (s.sendTraveller s.cur.part k t s.quadNo target).modCtx fun c => { c with state := .migrating }

/-- The end of `migr` and `miga` (R214, R216, R316): the refusal, the waits, the reports, and the departure, unbound (R338). -/
def migrateTo (s : State) (target : Nat) (lean : Bool) : Step := do
  if s.migrateRefused target lean then trapN causeMigrate target
  let s ← s.quiesce true
  s.errorReport
  pure ((s.unbind s.cur.part s.curTid).depart target lean none)

/-- `migr` (R214). It traps on a guard report before it waits for its register (log 141). -/
def migrBody (s : State) (a : Reg) (lean : Bool) (word : Word64) : Step := do
  s.ownContext word
  s.guardReport
  s.ready [a]
  if 2 ^ 15 ≤ (s.val a).toNat then throw (.trap causeOperand (s.val a))
  s.migrateTo (s.val a).toNat lean

/-- `miga` (R214): to the core beside the vault that homes an address. It traps on a guard report before it waits for its register
(log 141). -/
def migaBody (s : State) (seg : Seg) (a : Reg) (lean : Bool) (word : Word64) : Step := do
  s.ownContext word
  s.guardReport
  s.ready [a]
  let g := s.seg seg
  let off := sOff (s.val a)
  if g.isK then trapN causeSegment (g.addr off)
  let addr ← g.check off 1 0
  let (t, ph) ← s.translate 1 false addr 1
  t.migrateTo (homeOf ph.pa * 4 + coreInQuad s.cur.core) lean

/-! ## The spill ring (R219, R220) -/

/-- Bytes of a spill slot. -/
def slotBytes : Nat := 320

/-- The virtual address of a slot of a core's ring. -/
def slotAddr (s : State) (p core i : Nat) : Nat :=
  let P := s.part p
  P.spill + (rankOfCore P.shape core 0 * P.spilln + i % P.spilln) * slotBytes

def modRing (s : State) (p core : Nat) (f : SpillRing → SpillRing) : State := s.modCore p core fun C => { C with ring := f C.ring }

/-- The next arrival number of a core (R219). -/
def countArrival (s : State) (p core : Nat) : State := s.modRing p core fun r => { r with seq := (r.seq + 1) % 2 ^ 32 }

/-- A thread of the arrivals that wait is accepted: its last flit leaves the network, and the context it left becomes FREE, or of a crossing
when that ends (R108, R344). -/
def accepted (s : State) (p core k : Nat) (t : Traveller) : State :=
  let s := (s.modCore p core fun C => { C with arriving := C.arriving.filter fun x => decide (x ≠ k) }).flitsTaken p core k t
  if t.crossing.isSome then s else s.freeContext p (coreOf t.origin) (ctxOf t.origin)

/-- The spill of an arrival is refused (R220): it is halted in the first FREE context; with none it stays MIGRATING, with its flits in the
network and its source context occupied, and waits for the next. -/
def refuseArrival (s : State) (p core k : Nat) (t : Traveller) (cause va : Nat) : State :=
  let s := (s.countArrival p core).modRing p core fun r => { r with stalled := none }
  match s.lowestFree p core with
  | some n => (s.haltTraveller p core n t cause va).accepted p core k t
  | none => s.modCore p core fun C =>
    { C with
      arriving := C.arriving.filter fun x => decide (x ≠ k)
      spillRefused := C.spillRefused ++ [((cause, va), .inl k)] }

/-- The pager refuses the page that the spill of the oldest arrival waits for. -/
def refuseSpill (s : State) (p core cause va : Nat) : State :=
  match (s.core p core).arriving with
  | [] => s
  | k :: _ => match (s.part p).travellers.find? k with
    | none => s
    | some t => s.refuseArrival p core k t cause va

/-- A thread whose slot cannot be read back is halted in the first FREE context, or waits for the next and holds its flits in the network
meanwhile; its source context is FREE long since (R220; log 134). -/
def haltUnread (s : State) (p core : Nat) (t : Traveller) (cause va : Nat) : State :=
  match s.lowestFree p core with
  | some n => s.haltTraveller p core n t cause va
  | none => (s.enterNet p (quadOfCore core)).modCore p core fun C => { C with spillRefused := C.spillRefused ++ [((cause, va), .inr t)] }

/-- A register that has come back from a slot, with the poison mark that it had (log 136). -/
def marked (g : GReg) (poison : Option Nat) : GReg := if g.full || g.armed then g else { g with poison := poison }

/-- The thread of an oldest slot, with the context that was read from it. A region that ended meanwhile leaves it without one
(R400). It keeps its address space, whatever a program has stored in the slot's REGION field: the spec does not say which (log 111). -/
def unspilled (core : Nat) (x : Spilled) (c : Ctx) : Traveller :=
  { ctx := { c with asid := x.asid, code := x.code, rv := c.rv && x.region.isSome, crossing := x.crossed, lastTime := x.lastTime,
                    uid := x.uid, regs := Vector.ofFn fun i => marked (c.regs.get i) (x.poison.getD i.val none) },
    origin := x.origin, lean := x.lean, target := core, crossing := x.crossing }

/-- The oldest slot frees. -/
def freeSlot (s : State) (p core : Nat) : State :=
  (s.endReads p (.refill core)).modRing p core fun r => { r with threads := r.threads.drop 1, head := (r.head + 1) % max 1 (s.part p).spilln, stalled := none }

/-- The refill of the oldest slot is refused, or its line is poisoned: what the slot held is not known to the core. -/
def refuseRefill (s : State) (p core cause va : Nat) : State :=
  match (s.core p core).ring.threads with
  | [] => s
  | x :: _ => (s.freeSlot p core).haltUnread p core (unspilled core x {}) cause va

/-- A spill write or a refill stalls on a page (R220). No thread issues it: its record names the core's context zero (log 109). -/
def stallSpill (s : State) (p core acc kind asid va : Nat) (refill : Bool) : State :=
  (s.enterFault p (calderaOf (quadOfCore core)) { kind := kind, acc := acc, thread := core * 16, asid := asid, va := va }).modRing
    p core fun r => { r with stalled := some (va, refill) }

/-- The bytes of a slot: the image and the header (R219). -/
def slotImage (t : Traveller) (seq : Nat) : List Byte :=
  bytesOfNat slotBytes (t.ctx.image + 2 ^ 2304 * (seq + 2 ^ 32 * t.origin + (if t.lean then 2 ^ 51 else 0)))

/-- Whether the pieces of a slot, one per line, are translated; or the failure at a piece. -/
def slotCached (s : State) (core asid : Nat) (p : Nat) : List (Nat × Nat) → State × Except (WalkFail × Nat) Unit
  | [] => (s, .ok ())
  | (va, _) :: t =>
    match s.entryFor (.spill core) p (quadOfCore core) (core * 16) asid va with
    | (s, .error e) => (s, .error (e, va))
    | (s, .ok _) => s.slotCached core asid p t

/-- Write a piece of a slot, as the core's own engine. -/
def spillPiece (s : State) (p core asid va : Nat) (b : List Byte) : State :=
  match s.translateNow (.spill core) p (quadOfCore core) (core * 16) asid va with
  | (s, .ok x) => s.engineWrite (.spill core) p (quadOfCore core) (core * 16) 0 asid 0 x va b false false
  | (s, .error _) => s

/-- What the core keeps of a thread that it spills. -/
def spilled (t : Traveller) (seq : Nat) : Spilled :=
  { region := if t.ctx.rv then some t.ctx.handle.toNat else none, asid := t.ctx.asid, lean := t.lean, origin := t.origin,
    crossing := t.crossing, code := t.ctx.code, crossed := t.ctx.crossing, lastTime := t.ctx.lastTime, uid := t.ctx.uid, seq := seq,
    poison := t.ctx.regs.toList.map fun g => g.poison }

/-- Spill an arrival at the ring's tail (R218 to R220): once its slot is translated it is written, as accesses of the core's own engine, and
the arrival is accepted. A page that is not resident stalls the spill, and one that is refused refuses the thread. -/
def spillArrival (s : State) (p core k : Nat) (t : Traveller) : State :=
  let r := (s.core p core).ring
  let asid := (s.part p).spillAsid
  let va := s.slotAddr p core (r.head + r.threads.length)
  let pieces := linePieces 8 va slotBytes
  match s.slotCached core asid p pieces with
  | (s, .error (.held, _)) => s
  | (s, .error (.fault kind, va)) => s.stallSpill p core 5 kind asid va false
  | (s, .error (.poison, va)) => s.refuseArrival p core k t causePoison va
  | (s, .error (_, va)) => s.refuseArrival p core k t causeAccess va
  | (s, .ok _) =>
    let bytes := slotImage t r.seq
    let s := pieces.foldl (fun s x => s.spillPiece p core asid x.1 ((bytes.drop (x.1 - va)).take x.2)) s
    let s := s.modRing p core fun q => { q with threads := q.threads ++ [spilled t r.seq] }
    (s.countArrival p core).accepted p core k t

/-- The head of the arrival queue takes a FREE context (R218). -/
def serveQueue (s : State) (p core : Nat) : State :=
  match (s.core p core).queue, s.lowestFree p core with
  | t :: rest, some n => (s.modCore p core fun C => { C with queue := rest }).loadTraveller p core n t
  | _, _ => s

/-- Refill the oldest slot into the arrival queue's tail (R219), once it has been read: its write has been answered, and the queue has
room. -/
def refillStep (s : State) (p core : Nat) : State :=
  let C := s.core p core
  let P := s.part p
  match C.ring.threads with
  | [] => s
  | x :: _ =>
    if P.run = .frozen ∨ C.ring.stalled.isSome ∨ 16 ≤ C.queue.length ∨ s.pendingBefore p (.spill core) core s.nextAccess none then s
    else
      let r : Reader := { issuer := .refill core, part := p, quad := quadOfCore core, tid := core * 16, asid := P.spillAsid }
      match engineReadMem r 8 s (s.slotAddr p core C.ring.head) slotBytes with
      | (s, .held) => s
      | (s, .fault k va) => s.stallSpill p core 4 k P.spillAsid va true
      | (s, .refused va) => s.refuseRefill p core causeAccess va
      | (s, .bytes _ (some l)) => s.refuseRefill p core causePoison l
      | (s, .bytes b none) =>
        let h := natOfBytes (b.drop 288)
        let c := ctxOfImage (natOfBytes (b.take 288))
        let t := unspilled core { x with origin := bitsOf h 50 32, lean := h.testBit 51 } c
        let s := (s.freeSlot p core).modCore p core fun C => { C with queue := C.queue ++ [t] }
        s.serveQueue p core

/-! ## Arrival (R218) -/

/-- The context that an arrival would take (case 1 of R218). -/
def roomIn (s : State) (p core : Nat) : Option Nat :=
  let C := s.core p core
  if C.queue.isEmpty && C.ring.threads.isEmpty then s.lowestFree p core else none

/-- The core takes a thread whose last flit has come, if it can (R218): into a context, the arrival queue, or the spill ring. While the
spill of an arrival waits for a page none is taken, and a core that a machine error has halted takes none (log 139). -/
def takeArrival (s : State) (p core k : Nat) (t : Traveller) : State :=
  let C := s.core p core
  if C.dead || C.ring.stalled.any fun x => !x.2 then s
  else match s.roomIn p core with
  | some n => ((s.loadTraveller p core n t).countArrival p core).accepted p core k t
  | none =>
    if C.ring.threads.isEmpty && decide (C.queue.length < 16) then
      ((s.modCore p core fun C => { C with queue := C.queue ++ [t] }).countArrival p core).accepted p core k t
    else if C.ring.threads.length < (s.part p).spilln then s.spillArrival p core k t
    else s

/-- The spill of the oldest arrival goes on (R219), where its place is the ring. -/
def spillStep (s : State) (p core : Nat) : State :=
  let C := s.core p core
  if (s.part p).run = .frozen ∨ (s.roomIn p core).isSome ∨ (C.ring.threads.isEmpty ∧ C.queue.length < 16) then s
  else match C.arriving with
    | [] => s
    | k :: _ => match (s.part p).travellers.find? k with
      | none => s
      | some t => s.takeArrival p core k t

/-- Whether an arrival in this cycle would come behind a younger one (R213). -/
def outOfTurn (s : State) (p : Nat) (t : Traveller) : Bool :=
  let (c, sent, origin) := (s.core p t.target).lastArrival
  let now := (s.part p).cycle
  decide (c = s.clock + 1) && goesBefore (messageAge now t.sent, t.origin, 3) (messageAge now sent, origin, 3)

/-- Whether a thread travels the last leg of its way. -/
def onLastLeg (t : Traveller) : Bool := match t.leg with | some (n, _) => decide (n + 1 = legCount t.src t.dst) | none => false

/-- A migrating thread leaves a leg and enters the next (R86); the last one ends with its arrival. -/
def travelStep (s : State) (p k : Nat) : State :=
  match (s.part p).travellers.find? k with
  | none => s
  | some t =>
    match t.leg with
    | some (n, _) =>
      if n + 1 < legCount t.src t.dst ∧ s.firstOf p t.channel then
        let s := s.leaveLeg p t.src t.dst n
        (({ s with nextSeq := s.nextSeq + 1 } : State).setTraveller p k { t with leg := some (n + 1, s.nextSeq) }).enterLeg
          p t.src t.dst (n + 1)
      else s
    | none => s

/-- The crossing whose first flit a travelling thread still brings. -/
def firstFlitOf (P : Partition) (t : Traveller) : Option (Nat × Crossing) :=
  t.crossing.bind fun cr => (P.crossings.find? cr).bind fun x => if x.first then none else some (cr, x)

/-- The part that a crossing thread's position lies in, with its holder, as the map stands (R341, R345). -/
def crossingPart (m : CellMap) (t : Traveller) (x : Crossing) : Nat × Nat :=
  let px := t.ctx.posX.toInt
  let py := t.ctx.posY.toInt
  let pz := t.ctx.posZ.toInt
  let part := match m.cellAt px py pz with
    | some cell => m.partIn cell px py pz
    | none => x.part
  (part, (m.part part).holder)

/-- The first flit of a crossing reaches the core that the thread was sent to (R342, R344). A core that does not hold the part
passes it on to the holder. With room in the store of the holder's quad it enters a TRANSIT entry, otherwise it is not
accepted. -/
def firstFlit (s : State) (p k : Nat) (t : Traveller) (cr : Nat) (x : Crossing) : State :=
  let accept (s : State) : State := s.modPart p fun P => { P with crossings := P.crossings.put cr { x with first := true, holder := t.target } }
  match s.cellMap p x.region with
  | none => accept s
  | some m =>
    let (part, holder) := crossingPart m t x
    if holder ≠ t.target then (s.leaveNet p t.dst).sendTraveller p k t t.dst holder
    else if 896 ≤ s.transits p (quadOfCore holder) then s
    else
      (accept s).addEntry p holder
        { eid := 0, uid := t.ctx.uid, core := holder, region := x.region, tid := t.origin, origin := t.origin, x := t.ctx.posX.toInt,
          y := t.ctx.posY.toInt, z := t.ctx.posZ.toInt, kind := .transit, part := part, crossing := some cr } 1

/-- Whether a travelling thread's first flit is not accepted, for want of room in the holder's store (R342). -/
def flitRefused (s : State) (p : Nat) (t : Traveller) : Bool :=
  onLastLeg t && match firstFlitOf (s.part p) t with
    | none => false
    | some (_, x) => match s.cellMap p x.region with
      | none => false
      | some m => decide ((crossingPart m t x).2 = t.target ∧ 896 ≤ s.transits p (quadOfCore t.target))

/-- A step of a thread's arrival: the first flit of a crossing, the last flit, or the taking of a thread that waits. -/
def arrivalStep (s : State) (p k : Nat) : State :=
  match (s.part p).travellers.find? k with
  | none => s
  | some t =>
    let core := t.target
    let C := s.core p core
    if (s.part p).run = .frozen then s
    else if C.arriving.contains k then (if C.arriving.head? = some k then s.takeArrival p core k t else s)
    else if !onLastLeg t || !s.firstOf p t.channel || s.outOfTurn p t then s
    else
      match firstFlitOf (s.part p) t with
      | some (cr, x) => s.firstFlit p k t cr x
      | none =>
        let t := { t with leg := none }
        let s := (s.setTraveller p k t).modCore p core fun C =>
          { C with arriving := C.arriving ++ [k], lastArrival := (s.clock + 1, t.sent, t.origin) }
        if C.arriving.isEmpty then s.takeArrival p core k t else s

/-! ## The end of loading (R108, R117) -/

/-- The bytes of a fill as a number, from a byte of it on. -/
def fillWord (f : Fill) (off n : Nat) : Nat := natOfBytes ((List.range n).map fun i => f.bytes.getD (off + i) 0)

/-- The context that a fill has filled (R117, R237). -/
def filledCtx (c : Ctx) (f : Fill) : Ctx :=
  let x := startedCtx (fillWord f 0 imageBytes)
  { x with
    segs := if f.segt.isSome then segmentsOf (fillWord f 1024 128) 0 128 else x.segs
    state := .runnable, gen := c.gen, uid := c.uid, lastIssue := c.lastIssue, wake := c.wake, asid := c.asid, rv := c.rv,
    handle := c.handle, wuX := c.wuX, wuY := c.wuY, wuZ := c.wuZ }

/-- A LOADING context is loaded, or halts with FILLREF. -/
def loadedStep (s : State) (p core n : Nat) : State :=
  let c := s.context p core n
  if c.state ≠ .loading then s
  else match c.fill with
    | none => s.modContext p core n fun c => { c with state := .runnable }
    | some f =>
      if !f.later.isEmpty then s.sendLater p core n
      else if 0 < f.sent then s
      else match f.refused, f.poison with
        | some (cause, va), _ => s.haltThread p core n .fillref cause va
        | none, some l => s.haltThread p core n .fillref causePoison l
        | none, none => if f.todo.isEmpty then s.modContext p core n fun c => filledCtx c f else s

end State

def execMigr (a : Reg) (s : State) : Out := .next (s.settle (s.migrBody a false (firstWord (.migr a))))
def execMigrL (a : Reg) (s : State) : Out := .next (s.settle (s.migrBody a true (firstWord (.migrL a))))
def execMiga (seg : Seg) (a : Reg) (s : State) : Out := .next (s.settle (s.migaBody seg a false (firstWord (.miga seg a))))
def execMigaL (seg : Seg) (a : Reg) (s : State) : Out := .next (s.settle (s.migaBody seg a true (firstWord (.migaL seg a))))
def execMigrationArrival (p k : Nat) (s : State) : Out := .next (s.arrivalStep p k)
def execContextLoaded (p core n : Nat) (s : State) : Out := .next (s.loadedStep p core n)
def execSpillWrite (p core : Nat) (s : State) : Out := .next (s.spillStep p core)
def execSpillRefill (p core : Nat) (s : State) : Out := .next (s.refillStep p core)

end Sys2Proof.Machine
end

