-- ==== Sys2Proof/Machine/Fumarole.lean ====
section
/-!
DEFINITION. Chethen links and fumaroles (R378 to R383): the states of a link, FUMCFG, the steps of a collective program,
`cstart` and `cwait`.
-/
namespace Sys2Proof.Machine

/-! ## Steps (R381) -/

/-- The codes of OP. -/
def opSend : Nat := 0
def opRecv : Nat := 1
def opRrs : Nat := 2
def opCopy : Nat := 3
def opWait : Nat := 4
def opLoop : Nat := 5
def opEnd : Nat := 6

def stepOp (v : FumStep) : Nat := bitsOf v.toNat 127 124
def stepIn (v : FumStep) : Nat := bitsOf v.toNat 123 121
def stepOut (v : FumStep) : Nat := bitsOf v.toNat 120 118
def stepCtr (v : FumStep) : Nat := bitsOf v.toNat 117 116
def stepBlocks (v : FumStep) : Nat := bitsOf v.toNat 114 96 + 1

/-- A reserved bit, an illegal OP or an illegal DIR. -/
def stepBad (v : FumStep) : Bool :=
  decide (6 < stepOp v ∨ bitsOf v.toNat 79 78 = 3 ∨ bitsOf v.toNat 77 48 ≠ 0 ∨ (stepOp v = 5 ∧ bitsOf v.toNat 31 16 ≠ 0))

/-- The sum that names a data step's chunk, before it is reduced modulo NRANK. -/
def FumProgram.chunkSum (g : FumProgram) (v : FumStep) : Int :=
  let c : Int := g.counters.getD (stepCtr v) 0
  let d : Int := if bitsOf v.toNat 79 78 = 1 then c else if bitsOf v.toNat 79 78 = 2 then -c else 0
  g.rank + signedOf 16 (bitsOf v.toNat 95 80) + d

/-- A block of 64 bytes. -/
def block64 (b : List Byte) : List Byte := (b ++ List.replicate 64 0).take 64

/-- The elements of a range of BF16 numbers, summed with what was received: rounded to FP32, then to BF16 (R381). -/
def sumBf16 : List Nat → List Nat → List Nat × Flags
  | a :: t, b :: u =>
    let (v, f) := addFp32 (decodeFloat bf16 true a) (decodeFloat bf16 true b)
    let (y, g) := encodeFloat bf16 false v
    let (rest, h) := sumBf16 t u
    (y :: rest, f ||| g ||| h)
  | _, _ => ([], 0)

/-- A BF16 number as it stands on a link: subnormals are flushed, and a NaN is canonical (R31, R381). -/
def wireBf16 (n : Nat) : Nat := (encodeFloat bf16 false (decodeFloat bf16 true n)).1

/-- 16-bit numbers as bytes. -/
def bytesOfHalves (l : List Nat) : List Byte := l.flatMap (bytesOfNat 2)

/-- The bytes of a data step's range, as its input takes them. -/
def wireBytes (b : List Byte) : List Byte := bytesOfHalves ((halves b).map wireBf16)

/-- Blocks of a range of bytes. -/
def blocksOf : Nat → List Byte → List (List Byte)
  | 0, _ => []
  | n + 1, b => b.take 64 :: blocksOf n (b.drop 64)

namespace State

/-! ## Links (R380) -/

def LinkCode : LinkState → Nat
  | .down => 0 | .training => 1 | .up => 2 | .failed => 3

/-- Flags of a program are merged into its issuer's context, while that is its own (R46). -/
def mergeInto (s : State) (g : FumProgram) (flags : BitVec 6) : State :=
  if (s.threadCtx g.part g.tid).uid = g.uid then s.modIssuer g.part g.tid g.gen fun c => { c with flags := c.flags ||| flags } else s

/-- The flags of a program are merged into its issuer, while there is one (R46). -/
def mergeProgram (s : State) (g : FumProgram) : State := if g.orphan then s else s.mergeInto g g.flags

/-- A program ends with an outcome: its flags are merged into its issuer (R46, R383). -/
def endProgram (s : State) (l outcome : Nat) : State :=
  match (s.fum l).program with
  | none => s
  | some g =>
    ((s.endReads g.part (.fumarole l)).mergeProgram g).modFum l fun x =>
      { x with program := none, ended := x.ended.put x.seq.toNat outcome, endedFlags := x.endedFlags.put x.seq.toNat g.flags }

/-- A link moves, and event 5 tells the physical function. -/
def moveLink (s : State) (l : Nat) (new : LinkState) : State :=
  (s.modFum l fun x => { x with state := new, run := 0 }).postEvent 0 5 0 (l + 16 * LinkCode new)

/-- EN is written 1. -/
def enableLink (s : State) (l : Nat) : State :=
  let x := s.fum l
  let s := s.modFum l fun x => { x with en := true }
  match x.state with
  | .down => s.moveLink l .training
  | .failed => s.moveLink l .training
  | _ => s

/-- EN is written 0. -/
def disableLink (s : State) (l : Nat) : State :=
  let x := s.fum l
  let s := s.modFum l fun x => { x with en := false }
  if x.state = .down then s else (s.endProgram l 1).moveLink l .down

/-- A flit fails its CRC and is replayed: once more, or for the first time. -/
def replayFlit (s : State) (l : Nat) (again : Bool) : State :=
  let x := s.fum l
  if x.state ≠ .up then s
  else
    let n := if again then x.run + 1 else 1
    let s := s.modFum l fun x =>
      { x with run := n, replays := if x.replays = BitVec.allOnes 16 then x.replays else x.replays + 1 }
    if 16 ≤ n then (s.endProgram l 1).moveLink l .failed else s

/-- A write of FUMCFG's low word by the physical function (R379). -/
def writeFumcfg (s : State) (f l : Nat) (value : Word64) : State :=
  let n := bitsOf value.toNat 39 24
  let r := bitsOf value.toNat 23 8
  if f ≠ 0 ∨ 8 ≤ l ∨ n = 0 ∨ n ≤ r ∨ s.bar0Responds f 0x600 = false then s
  else
    let s := s.modFum l fun x =>
      { x with nrank := BitVec.ofNat 16 n, rank := BitVec.ofNat 16 r, owner := BitVec.ofNat 5 value.toNat }
    if value.getLsbD 7 then s.enableLink l else s.disableLink l

/-! ## Programs (R381) -/

def modProgram (s : State) (l : Nat) (f : FumProgram → FumProgram) : State :=
  s.modFum l fun x => { x with program := x.program.map f }

/-- The quad at whose port a fumarole reads and writes. -/
def fumQuad (l : Nat) : Nat := l

/-- A program stalls on a page (R155). -/
def stallProgram (s : State) (l : Nat) (g : FumProgram) (acc kind va : Nat) : State :=
  (s.enterFault g.part (calderaOf (fumQuad l)) { kind := kind, acc := acc, thread := g.tid, asid := g.asid, va := va }).modProgram l
    fun g => { g with stalled := some va }

/-- Whether a range lies in a captured segment with the rights it needs. -/
def inSegment (g : Captured) (off n : Nat) (right : BitVec 7) : Bool :=
  match g.check (off : Int) n right with
  | .ok _ => true
  | .error _ => false

/-- How a program's fumarole reads: its steps, or bytes that leave on a link (R393). -/
def fumReader (l : Nat) (g : FumProgram) (tag : Nat) (leaving : Bool) : Reader :=
  { issuer := .fumarole l, part := g.part, quad := fumQuad l, tid := g.tid, tag := tag, asid := g.asid, leaving := leaving }

/-- Read the steps of a program up to its END (R381). The first argument is how many more there may be. -/
def loadSteps (l : Nat) (g : FumProgram) : Nat → State → Nat → List FumStep → State
  | 0, s, _, _ => s.endProgram l 4
  | fuel + 1, s, i, done =>
    let off := g.poff + 16 * i
    if !inSegment g.pseg off 16 rightR then s.endProgram l 2
    else
      match s.engineRead (fumReader l g 0 false) g.pseg off 16 with
      | (s, .held) => s
      | (s, .fault kind va) => s.stallProgram l g 4 kind va
      | (s, .refused _) => s.endProgram l 2
      | (s, .bytes _ (some _)) => s.endProgram l 2
      | (s, .bytes b none) =>
        let v : FumStep := BitVec.ofNat 128 (natOfBytes b)
        if stepBad v then s.endProgram l 4
        else if stepOp v = opEnd then
          (s.useFetched g.part (.fumarole l) 0).modProgram l fun g => { g with steps := done ++ [v], loaded := true }
        else loadSteps l g fuel s (i + 1) (done ++ [v])

/-- Go on to a step; the transfer at hand, and what was read for the step, is done with. -/
def goStep (s : State) (l i : Nat) : State :=
  let s := match (s.fum l).program with | some g => s.endReads g.part (.fumarole l) | none => s
  s.modProgram l fun g => { g with at_ := i, received := none, written := 0, openChunk := none }

/-- The offset of a data step's range in the buffer segment; with NRANK zero its chunk is an open value, taken once. -/
def stepOffset (s : State) (l : Nat) (g : FumProgram) (v : FumStep) : State × Nat :=
  let (s, q) := if g.nrank ≠ 0 then (s, (g.chunkSum v % g.nrank).toNat)
    else match g.openChunk with
      | some q => (s, q)
      | none =>
        let q := Config.pick s.choices
        (({ s with choices := s.choices + 1 } : State).modProgram l fun g => { g with openChunk := some q }, q)
  (s, g.boff + bitsOf v.toNat 47 0 + q * g.chunk * 64)

/-- The program of a link sends blocks on a link; an acknowledgement comes for them later (R381). -/
def sendBlocks (s : State) (l out : Nat) (b : List (List Byte)) : State :=
  s.modFum out fun x => { x with sent := x.sent ++ [b], awaiting := x.awaiting ++ [(l, (s.fum l).seq.toNat)] }

/-- The far end of a link acknowledges the oldest transfer. -/
def acknowledge (s : State) (l : Nat) : State := s.modFum l fun x => { x with awaiting := x.awaiting.drop 1 }

/-- Write the lines of a data step's range at address `a` that are still to be written, in order, as far as they are translated, then
go on. -/
def fumLines (l : Nat) (g : FumProgram) (a : Nat) (b : List Byte) (next : State → State) : State → List (Nat × Nat) → State
  | s, [] => next s
  | s, (va, n) :: t =>
    match s.translateNow (.fumarole l) g.part (fumQuad l) g.tid g.asid (va % 2 ^ 52) with
    | (s, .error .held) => s
    | (s, .error (.fault k)) => s.stallProgram l g 5 k (va % 2 ^ 52)
    | (s, .error _) => s.endProgram l 2
    | (s, .ok x) =>
      let s := s.engineWrite (.fumarole l) g.part (fumQuad l) g.tid g.uid g.asid g.pc x (va % 2 ^ 52) ((b.drop (va - a)).take n) false
        !g.h.rel
      fumLines l g a b next (s.modProgram l fun g => { g with written := g.written + 1 }) t

/-- Write a data step's range, then go on. -/
def fumWrite (s : State) (l : Nat) (g : FumProgram) (off : Nat) (b : List Byte) (next : State → State) : State :=
  if !inSegment g.bseg off b.length rightW then s.endProgram l 2
  else
    let a := g.bseg.addr off
    if g.bseg.isK && s.bankTaken g.part (coreOf g.tid) a b.length then s
    else if g.bseg.isK then
      next ((linePieces (b.length / 64 + 2) a b.length).foldl (fun s x =>
        s.engineSpad g.part g.tid x.1 ((b.drop (x.1 - a)).take x.2) false g.pc) s)
    else fumLines l g a b next s ((linePieces (b.length / 64 + 2) a b.length).drop g.written)

/-- Read a data step's range, then go on. -/
def fumRead (s : State) (l : Nat) (g : FumProgram) (leaving : Bool) (off n : Nat) (next : State → List Byte → State) : State :=
  if !inSegment g.bseg off n rightR then s.endProgram l 2
  else match s.engineRead (fumReader l g 1 leaving) g.bseg off n with
    | (s, .held) => s
    | (s, .fault kind va) => s.stallProgram l g 4 kind va
    | (s, .refused _) => s.endProgram l 2
    | (s, .bytes _ (some _)) => s.endProgram l 2
    | (s, .bytes b none) => next s b

/-- A step that takes a transfer in. -/
def receiveStep (s : State) (l : Nat) (g : FumProgram) (v : FumStep) (blocks : List (List Byte)) : State :=
  let op := stepOp v
  let out := stepOut v
  let n := stepBlocks v
  if op ≠ opRecv ∧ (s.fum out).state ≠ .up then s
  else if blocks.length ≠ n then s.endProgram l 3
  else
    let b := wireBytes (blocks.flatMap block64)
    let (s, off) := s.stepOffset l g v
    if op = opRrs then
      s.fumRead l g false off (64 * n) fun s m =>
        let (y, f) := sumBf16 (halves b) (halves m)
        let yb := bytesOfHalves y
        let finish (s : State) : State :=
          ((s.modProgram l fun g => { g with flags := g.flags ||| f }).sendBlocks l out (blocksOf n yb)).goStep l (g.at_ + 1)
        if v.getLsbD 115 then s.fumWrite l g off yb finish else finish s
    else
      s.fumWrite l g off b fun s =>
        (if op = opCopy then s.sendBlocks l out (blocksOf n b) else s).goStep l (g.at_ + 1)

/-- Whether a write of a fumarole is still to be applied. -/
def fumWrites (s : State) (l : Nat) : Bool := s.accesses.any fun x => decide (x.2.issuer = .fumarole l) && x.2.unapplied && !x.2.engineRead

/-- One step of a fumarole: reading its program (R98, R381), or the step at hand when it is the one named. -/
def fumStep (s : State) (l op : Nat) (blocks : List (List Byte)) : State :=
  match (s.fum l).program with
  | none => s
  | some g =>
    if g.stalled.isSome then s
    else if !g.loaded then
      if blocks.isEmpty && s.acquireDone g.part g.tid g.bound g.shadow g.h then loadSteps l g 256 s 0 [] else s
    else
      match g.steps[g.at_]? with
      | none => s.endProgram l 4
      | some v =>
        if stepOp v ≠ op then s
        else if op = opSend then
          if (s.fum (stepOut v)).state ≠ .up then s
          else
            let n := stepBlocks v
            let (s, off) := s.stepOffset l g v
            s.fumRead l g true off (64 * n) fun s b => (s.sendBlocks l (stepOut v) (blocksOf n (wireBytes b))).goStep l (g.at_ + 1)
        else if op = opWait then if s.fumWrites l || s.unacknowledged l then s else s.goStep l (g.at_ + 1)
        else if op = opLoop then
          let c := g.counters.getD (stepCtr v) 0 + 1
          let again := decide (c < bitsOf v.toNat 47 32)
          let s := s.modProgram l fun g => { g with counters := g.counters.set (stepCtr v) (if again then c else 0) }
          s.goStep l (if again then bitsOf v.toNat 15 0 else g.at_ + 1)
        else if op = opEnd then if s.releaseDone g.part g.tid (.fumarole l) g.h then s.endProgram l 0 else s
        else
          match g.received, blocks with
          | some b, [] => s.receiveStep l g v b
          | none, x :: t =>
            if (s.fum (stepIn v)).state ≠ .up then s
            else (s.modProgram l fun g => { g with received := some (x :: t) }).receiveStep l g v (x :: t)
          | _, _ => s

/-! ## `cstart` and `cwait` (R382, R383) -/

def cstartBody (s : State) (h : Header) (d a b : Reg) (pseg bseg : Seg) (fum : Fin 8) (chunk : BitVec 20) : Step := do
  s.ready [a, b]
  s.free d
  s.acquired
  if chunk = 0 then throw (.trap causeOperand 0)
  let pg := s.seg pseg
  let bg := s.seg bseg
  let pa ← pg.check (sOff (s.val a)) 16 rightR
  if sOff (s.val a) % 16 ≠ 0 then trapN causeAlign pa
  let _ ← bg.check (sOff (s.val b)) 1 (rightR ||| rightW)
  let x := s.fum fum.val
  let st := if x.owner.toNat ≠ s.cur.part then 3 else if x.state ≠ .up then 2 else if x.program.isSome then 1 else 0
  let g : FumProgram :=
    { part := s.cur.part, tid := s.curTid, gen := s.ctx.gen, shadow := s.cur.shadow, uid := s.ctx.uid, pc := s.ctx.pc, asid := s.asid, h := h, bound := s.nextAccess, pseg := pg, bseg := bg,
      poff := (sOff (s.val a)).toNat, boff := (sOff (s.val b)).toNat, chunk := chunk.toNat, nrank := x.nrank.toNat,
      rank := x.rank.toNat }
  let seq := if st = 0 then x.seq + 1 else x.seq
  let t := if st = 0 then s.modFum fum.val fun y => { y with program := some g, seq := seq } else s
  pure (((t.consume [a, b]).write d (BitVec.ofNat 64 (st * 2 ^ 60 + seq.toNat * 2 ^ 16 + fum.val))).advance 12)

/-- The status that `cwait` writes; none while the program that the handle names runs. A handle that is not the latest is STALE,
unless the thread has waited for its program to end. -/
def handleStatus (s : State) (v : Nat) (waited : Bool) : Option Nat :=
  let l := v % 2 ^ 16
  let x := s.fum l
  let latest := decide (v = x.seq.toNat * 2 ^ 16 + l)
  if 8 ≤ l || (!latest && !waited) then some 5
  else if latest && x.program.isSome then none
  else some (x.ended.getD (v / 2 ^ 16) 5)

def cwaitBody (s : State) (d a : Reg) : Step := do
  s.ready [a]
  s.free d
  let v := (s.val a).toNat
  match s.handleStatus v (decide (s.ctx.phase ≠ .fresh)) with
  | none => throw (.park (s.modCtx fun c => { c with phase := .asked 0 }) (.program (v % 2 ^ 16) (v / 2 ^ 16)))
  | some st =>
    let t := s.recordDet s.cur.part 8 s.ctx.pc
    pure (((t.consume [a]).write d (BitVec.ofNat 64 st)).advance 4)

end State

def execCstart (h : Header) (d a b : Reg) (pseg bseg : Seg) (fum : Fin 8) (chunk : BitVec 20) (s : State) : Out :=
  .next (s.settle (s.cstartBody h d a b pseg bseg fum chunk))
def execCwait (d a : Reg) (s : State) : Out := .next (s.settle (s.cwaitBody d a))
/-- EN is a field of FUMCFG, which does not respond in RECOVERY (R386). -/
def execLinkEnable (l : Nat) (s : State) : Out := .next (if l < 8 ∧ s.bar0Responds 0 0x600 then s.enableLink l else s)
def execLinkDisable (l : Nat) (s : State) : Out := .next (if l < 8 ∧ s.bar0Responds 0 0x600 then s.disableLink l else s)
def execLinkTrained (l : Nat) (s : State) : Out := .next (if (s.fum l).state = .training then s.moveLink l .up else s)
/-- R380: no completion within 1 s. -/
def execLinkTrainTimeout (l : Nat) (s : State) : Out :=
  .next (if (s.fum l).state = .training then (s.modFum l fun x => { x with en := false }).moveLink l .down else s)
def execFlitReplay (l : Nat) (again : Bool) (s : State) : Out := .next (s.replayFlit l again)
def execFumcfgWrite (f l : Nat) (value : Word64) (s : State) : Out := .next (s.writeFumcfg f l value)
def execSend (l : Nat) (s : State) : Out := .next (s.fumStep l opSend [])
/-- The transfer that comes in; with none, a step goes on with the one it has taken. -/
def execRecv (l : Nat) (blocks : Blocks) (s : State) : Out := .next (s.fumStep l opRecv blocks)
def execRrs (l : Nat) (blocks : Blocks) (s : State) : Out := .next (s.fumStep l opRrs blocks)
def execCopy (l : Nat) (blocks : Blocks) (s : State) : Out := .next (s.fumStep l opCopy blocks)
def execWait (l : Nat) (s : State) : Out := .next (s.fumStep l opWait [])
def execLoopStep (l : Nat) (s : State) : Out := .next (s.fumStep l opLoop [])
def execEndStep (l : Nat) (s : State) : Out := .next (s.fumStep l opEnd [])

end Sys2Proof.Machine
end

