-- ==== Sys2Proof/Machine/Cell.lean ====
section
/-!
DEFINITION. Position-bound threads (R338 to R351): `posw`, `posa`, `nbr`, `cellq`, and the steps of the cell stores: a change that
is applied, the removal of a ghost, the end of a crossing, and the splitting of a part.
-/
namespace Sys2Proof.Machine

/-! ## Positions (R338, R341) -/

structure Position where
  x : Int
  y : Int
  z : Int
  deriving DecidableEq, Repr

def Ctx.position (c : Ctx) : Position := ⟨c.posX.toInt, c.posY.toInt, c.posZ.toInt⟩

def CellEntry.position (e : CellEntry) : Position := ⟨e.x, e.y, e.z⟩

/-- The position that two registers carry: x and y, and z (R348). -/
def positionOf (a b : Word64) : Position :=
  ⟨signedOf 32 (bitsOf a.toNat 31 0), signedOf 32 (bitsOf a.toNat 63 32), signedOf 32 (bitsOf b.toNat 31 0)⟩

def Position.add (p q : Position) : Position := ⟨p.x + q.x, p.y + q.y, p.z + q.z⟩

/-- Whether every coordinate is a 32-bit number. -/
def Position.fits (p : Position) : Bool :=
  let ok (c : Int) : Bool := decide (signedLo 32 ≤ c ∧ c ≤ signedHi 32)
  ok p.x && ok p.y && ok p.z

/-- The squared distance of two positions. -/
def Position.dist2 (p q : Position) : Nat :=
  ((p.x - q.x) * (p.x - q.x) + (p.y - q.y) * (p.y - q.y) + (p.z - q.z) * (p.z - q.z)).toNat

def Ctx.setPosition (c : Ctx) (p : Position) : Ctx :=
  { c with posX := BitVec.ofInt 32 p.x, posY := BitVec.ofInt 32 p.y, posZ := BitVec.ofInt 32 p.z }

/-! ## Views (R343) -/

/-- Whether a core's view contains a cell, and the parts of its view. -/
def CellMap.seesCell (m : CellMap) (core cell : Nat) : Bool := (m.viewers cell).contains core
def CellMap.viewParts (m : CellMap) (core : Nat) : List Nat :=
  ((List.range m.cells).filter (m.seesCell core)).flatMap m.partsOf

/-- The square of the distance from a position to the nearest position of a cell. -/
def CellMap.cellDist2 (m : CellMap) (cell : Nat) (p : Position) : Nat :=
  let near (o : Int) (e c : Nat) (v : Int) : Int :=
    let lo := o + (c * 2 ^ e : Nat)
    max lo (min v (lo + (2 ^ e : Nat) - 1))
  p.dist2 ⟨near m.ox m.elx (cell % m.gx) p.x, near m.oy m.ely (cell / m.gx % m.gy) p.y, near m.oz m.elz (cell / (m.gx * m.gy)) p.z⟩

namespace State

/-- The check of R340: the map of the thread's region. -/
def cellCheck (s : State) : Except Stop CellMap :=
  match s.region? with
  | none => trapN causeOperand 0
  | some r =>
    if r.cellmap = 0 then trapN causeOperand 0
    else match s.cellMap s.cur.part s.ctx.handle.toNat with
      | none => trapN causeOperand r.cellmap
      | some m => if m.malformed then trapN causeOperand r.cellmap else .ok m

/-! ## `posw` and `posa` (R344, R348) -/

/-- The crossing of the thread at hand that is in progress (R344), with its number. -/
def ownCrossing (s : State) : Option (Nat × Crossing) :=
  s.ctx.crossing.bind fun k => (s.curPart.crossings.find? k).map fun x => (k, x)

/-- Publish a position in a part that the core holds: the RESIDENT entry is entered or updated. While a crossing is in progress,
ORIGIN is the identifier before it (R342), until the holder sets it to the thread's own (R344). -/
def publish (s : State) (part : Nat) (pos : Position) : State :=
  let s := s.modCtx fun c => c.setPosition pos
  match s.residentOf s.cur.part s.curTid with
  | some e => s.changeEntry s.cur.part s.cur.core { e with x := pos.x, y := pos.y, z := pos.z, part := part } e.part 0
  | none => s.addEntry s.cur.part s.cur.core
      { eid := 0, uid := s.ctx.uid, core := s.cur.core, region := s.ctx.handle.toNat, tid := s.curTid,
        origin := match s.ownCrossing with | some (_, c) => if c.originSet then s.curTid else c.tid | none => s.curTid, x := pos.x, y := pos.y, z := pos.z,
        kind := .resident, part := part, crossing := s.ownCrossing.map Prod.fst } 0

/-- Departure on a crossing (R344): the RESIDENT entry turns into a ghost at the new position, and the thread is on its way to
the owner of the new cell. -/
def crossTo (s : State) (owner part : Nat) (pos : Position) : State :=
  let p := s.cur.part
  let k := s.curPart.nextCrossing
  let e? := s.residentOf p s.curTid
  let x : Crossing := { tid := s.curTid, region := s.ctx.handle.toNat, part := part, holder := owner, ghostGone := e?.isNone }
  let s := s.modPart p fun P => { P with crossings := P.crossings.put k x, nextCrossing := k + 1 }
  let s := match e? with
    | none => s
    | some e => s.changeEntry p s.cur.core
        { e with kind := .ghost, x := pos.x, y := pos.y, z := pos.z, part := part, crossing := some k, origin := s.curTid } e.part 5
  (s.modCtx fun c => c.setPosition pos).depart owner false (some k)

/-- A new position (R348). -/
def moveBody (s : State) (a b : Reg) (absolute : Bool) (word : Word64) : Step := do
  s.ownContext word
  s.ready [a, b]
  let m ← s.cellCheck
  let v := positionOf (s.val a) (s.val b)
  let pos := if absolute then v else s.ctx.position.add v
  let some cell := (if pos.fits then m.cellAt pos.x pos.y pos.z else none) | throw (.trap causeOperand (s.val a))
  let part := m.partIn cell pos.x pos.y pos.z
  if (m.part part).holder = s.cur.core then
    return ((s.consume [a, b]).publish part pos).advance 4
  s.guardReport
  s.errorReport
  let owner := m.owners.getD cell 0
  if s.migrateRefused owner false then trapN causeMigrate owner
  let s ← s.quiesce true
  if s.ownCrossing.isSome then throw (.park s .crossing)
  pure ((s.consume [a, b]).crossTo owner part pos)

/-! ## `nbr` (R349, R350) -/

/-- How advanced an entry of a thread is: the first present of a crossing's entries is kept. -/
def entryRank (e : CellEntry) : Nat :=
  match e.kind with
  | .resident => if e.tid ≠ e.origin then 0 else 2
  | .transit => 1
  | .ghost => 3

/-- Keep one entry for each ORIGIN. -/
def oneEach : List CellEntry → List CellEntry
  | [] => []
  | e :: t =>
    let rest := oneEach t
    match rest.find? fun x => decide (x.origin = e.origin) with
    | none => e :: rest
    | some x => if entryRank e < entryRank x then e :: rest.filter fun y => decide (y.origin ≠ e.origin) else rest

def insertByTid (e : CellEntry) : List CellEntry → List CellEntry
  | [] => [e]
  | x :: t => if e.tid ≤ x.tid then e :: x :: t else x :: insertByTid e t

def sortByTid : List CellEntry → List CellEntry
  | [] => []
  | e :: t => insertByTid e (sortByTid t)

/-- The map of a region as a quad's cores see it: in deterministic mode as of the last refresh (R343), before which no part had been
split. -/
def mapSeen (s : State) (p q region : Nat) (m : CellMap) : CellMap :=
  if (s.part p).det then (s.quad p q).mapViews.getD region { m with parts := [] } else m

/-- The entries that a core's view shows (R350): its quad's own and its copies; in deterministic mode as of the last refresh. -/
def viewEntries (s : State) (p core region : Nat) (m : CellMap) : List CellEntry :=
  let Q := s.quad p (quadOfCore core)
  ((if (s.part p).det then Q.snapshot else Q.cells) ++ Q.copyCells).filter fun e =>
    decide (e.region = region) && m.inView core e.part

/-- A record (R349). -/
def entryRecord (e : CellEntry) : List Byte :=
  bytesOfNat 16 (wrapTo 32 e.x + 2 ^ 32 * wrapTo 32 e.y + 2 ^ 64 * wrapTo 32 e.z + 2 ^ 96 * e.tid +
    (if e.kind = .ghost then 2 ^ 115 else 0))

/-- `nbr` (R349). The issuer is shown by its own entry as it stands (log 51); the word of counts comes in the fourth cycle after the issue
(log 116). -/
def nbrBody (s : State) (d a b : Reg) : Step := do
  s.ready [a, b]
  s.free d
  let m ← s.cellCheck
  let p := s.cur.part
  let core := s.cur.core
  let some own := s.residentOf p s.curTid | throw (.trap causeOperand (s.val a))
  let m := s.mapSeen p s.quadNo s.ctx.handle.toNat m
  let v := (s.val a).toNat
  let at_ := bitsOf v 15 0
  let n := bitsOf v 31 16
  if bitsOf v 63 32 ≠ 0 ∨ 4096 < n ∨ 65536 < at_ + 16 * n then throw (.trap causeOperand (s.val a))
  if bitsOf (s.val b).toNat 63 32 ≠ 0 then throw (.trap causeOperand (s.val b))
  aligned at_ 16
  let r2 := (s.val b).toNat * (s.val b).toNat
  let pos := s.ctx.position
  let region := s.ctx.handle.toNat
  let view := m.viewParts core
  let seen := oneEach (own :: (s.viewEntries p core region m).filter fun e => decide (e.origin ≠ own.origin ∧ e.uid ≠ own.uid))
  let hits := sortByTid (seen.filter fun e => decide (pos.dist2 e.position ≤ r2))
  let short := s.curQuad.missing.any fun e => decide (e.region = region) && m.inView core e.part
  let past := (List.range m.cells).any fun c => !m.seesCell core c && decide (m.cellDist2 c pos ≤ r2)
  let crowded := view.any fun i => decide ((m.part i).state = .crowded)
  let far := view.any fun i => decide (calderaOf (quadOfCore (m.part i).holder) ≠ calderaOf s.quadNo)
  let t := if far then s.recordDet p 5 s.ctx.pc else s
  let t := (List.zip (List.range n) hits).foldl (fun t x =>
    (t.useBanks p core (at_ + 16 * x.1) 16).spadStoreLine p core s.cur.ctx (at_ + 16 * x.1) (entryRecord x.2) s.ctx.pc) t
  let w := (if short || past then 2 ^ 63 else 0) + (if crowded then 2 ^ 62 else 0) + (if n < hits.length then 2 ^ 61 else 0) + hits.length
  pure ((((t.consume [a, b]).writePending d).answerAfter 4 (.reg d (BitVec.ofNat 64 w))).advance 4)

/-! ## `cellq` (R351) -/

/-- `cellq` (R351). Its answer comes in the fourth cycle after the issue (log 116). -/
def cellqBody (s : State) (d a : Reg) : Step := do
  s.ready [a]
  s.free d
  let m ← s.cellCheck
  let pos := s.ctx.position
  let cell? := if s.val a = allOnes then m.cellAt pos.x pos.y pos.z
    else if (s.val a).toNat < m.cells then some (s.val a).toNat else none
  let some cell := cell? | throw (.trap causeOperand (s.val a))
  let owner := m.owners.getD cell 0
  let m := s.mapSeen s.cur.part (quadOfCore owner) s.ctx.handle.toNat m
  let parts := m.partsOf cell
  let count := ((s.viewEntries s.cur.part owner s.ctx.handle.toNat m).filter fun e =>
    parts.contains e.part && decide (e.kind ≠ .ghost)).length
  let w := (if 1 < parts.length then 2 ^ 63 else 0) + (if parts.any fun i => decide ((m.part i).state = .crowded) then 2 ^ 62 else 0) +
    min count 65535 * 2 ^ 40 + owner
  pure ((((s.consume [a]).writePending d).answerAfter 4 (.reg d (BitVec.ofNat 64 w))).advance 4)

/-! ## Changes (R343) -/

/-- Whether a change is the next of its core for its quad. -/
def changeNext (P : Partition) (k : Nat) (c : CellChange) : Bool :=
  (P.changes.take k).all fun x => decide (x.core ≠ c.core ∨ x.quad ≠ c.quad)

/-- Apply a change at a quad (R342, R343). -/
def applyChange (s : State) (p : Nat) (c : CellChange) : State :=
  let s := s.modQuad p c.quad fun Q =>
    { Q with copyCells := Q.copyCells.filter fun e => decide (e.eid ≠ c.eid), missing := Q.missing.filter fun e => decide (e.eid ≠ c.eid) }
  match c.entry with
  | some e => s.keepCopy p c.quad e
  | none => s

/-- A change reaches a quad; in deterministic mode changes wait for the refresh. -/
def changeStep (s : State) (p k : Nat) : State :=
  let P := s.part p
  match P.changes[k]? with
  | none => s
  | some c =>
    if P.det || !changeNext P k c then s
    else (s.modPart p fun P => { P with changes := P.changes.eraseIdx k }).applyChange p c

/-! ## Ghosts and the end of a crossing (R344) -/

/-- The ghost goes once the last flit has been accepted and the new entry stands in every copy. -/
def removeGhost (s : State) (p k : Nat) : State :=
  match (s.part p).crossings.find? k with
  | none => s
  | some x =>
    if !x.last || x.ghostGone || changePending (s.part p) k 1 then s
    else
      s.dropGhost p k

/-- The crossing ends in two steps: once the ghost stands in no copy any more, neither of its new part nor of the part the thread left, the ORIGIN is set, and once that stands in every copy the context that was left is FREE. -/
def endCrossing (s : State) (p k : Nat) : State :=
  match (s.part p).crossings.find? k with
  | none => s
  | some x =>
    match x.newTid with
    | none => s
    | some _ =>
      if !x.last || !x.ghostGone || changePending (s.part p) k 2 || changePending (s.part p) k 5 then s
      else if !x.originSet then
        let s := match crossingEntry (s.part p) k .resident with
          | some (_, e) => s.changeEntry p (coreOf e.tid) { e with origin := e.tid } e.part 3
          | none => s
        s.modCrossing p k fun x => { x with originSet := true }
      else if changePending (s.part p) k 3 then s
      else
        let s := s.modPart p fun P =>
          { P with
            crossings := P.crossings.del k
            quads := P.quads.mapVal fun _ Q =>
              { Q with cells := Q.cells.map fun e => if e.crossing = some k then { e with crossing := none } else e } }
        if (s.threadCtx p x.tid).state = .migrating then s.freeContext p (coreOf x.tid) (ctxOf x.tid) else s

/-! ## Splitting (R345, R346) -/

/-- Whether the reserve step of a part is under way. -/
def reserving (s : State) (p region part : Nat) : Bool :=
  s.accesses.any fun x => decide (x.2.part = p) && (match x.2.kind with | .reserve r i _ => decide (r = region ∧ i = part) | _ => false)

/-- The reserve step of a split is sent to the map's home (R345), where it is one step (R99). A page that is not resident makes it wait
for the pager; without a reserve the part is CROWDED. A partition that is frozen sends none (R346). -/
def splitStep (s : State) (p region part : Nat) : State :=
  match s.cellMap p region, (s.part p).regions.find? region with
  | some m, some r =>
    let x := m.part part
    let q := quadOfCore x.holder
    let va := m.addr + 22
    if x.state ≠ .splitting ∨ x.stalled ∨ (s.part p).run = .frozen ∨ s.reserving p region part then s
    else match s.translateNow (.cellPart region part) p q (x.holder * 16) r.asid va with
      | (s, .error (.fault kind)) =>
        (s.enterFault p (calderaOf q) { kind := kind, acc := 3, thread := x.holder * 16, asid := r.asid, va := va }).setCellPart p region
          part { x with stalled := true }
      | (s, .error .held) => s
      | (s, .error _) => s.crowdPart p region part
      | (s, .ok ph) => s.sendAccess
          { part := p, issuer := .cellPart region part, tid := x.holder * 16, order := (s.nextAccess, 0),
            kind := .reserve region part m.nres, pa := ph.pa, size := 2, asid := r.asid, va := va, counted := false, src := q,
            dst := homeOf ph.pa, stage := .home, issuedAt := (s.part p).cycle }
  | _, _ => s

end State

def execPosw (a b : Reg) (s : State) : Out := .next (s.settle (s.moveBody a b true (firstWord (.posw a b))))
def execPosa (a b : Reg) (s : State) : Out := .next (s.settle (s.moveBody a b false (firstWord (.posa a b))))
def execNbr (d a b : Reg) (s : State) : Out := .next (s.settle (s.nbrBody d a b))
def execCellq (d a : Reg) (s : State) : Out := .next (s.settle (s.cellqBody d a))
def execCellChangeApply (p k : Nat) (s : State) : Out := .next (s.changeStep p k)
def execGhostRemoval (p k : Nat) (s : State) : Out := .next (s.removeGhost p k)
def execCrossingEnd (p k : Nat) (s : State) : Out := .next (s.endCrossing p k)
def execCellSplit (p region part : Nat) (s : State) : Out := .next (s.splitStep p region part)

end Sys2Proof.Machine
end

