-- ==== Sys2Proof/Machine/Lanes.lean ====
section
/-!
DEFINITION. Lanes of a 512-bit value (R27) and what the vector instructions compute on them: arithmetic (R290), transcendentals
(R291), compares, selection, logic and shifts (R292), conversions (R293, R294), movement (R295) and reductions (R296).
-/
namespace Sys2Proof.Machine

/-! ## Lanes (R27) -/

/-- Lanes of a 512-bit value at an element type. -/
def laneCount (t : ElemType) : Nat := 512 / elemBits t

/-- Lane `i` of width `w`. -/
def laneOf (v : BitVec 512) (w i : Nat) : Nat := v.toNat / 2 ^ (w * i) % 2 ^ w

/-- The lanes of width `w`, the first lowest. -/
def lanes (v : BitVec 512) (w : Nat) : List Nat := (List.range (512 / w)).map (laneOf v w)

/-- A 512-bit value from its lanes of width `w`; what they leave above is 0. -/
def ofLanes (w : Nat) (l : List Nat) : BitVec 512 := BitVec.ofNat 512 (l.foldr (fun x n => x % 2 ^ w + 2 ^ w * n) 0)

/-- Lanes computed with flags. -/
def packFlagged (w : Nat) (l : List (Nat × Flags)) : BitVec 512 × Flags :=
  (ofLanes w (l.map Prod.fst), l.foldl (fun f x => f ||| x.2) 0)

/-- The floating-point format of an element type. -/
def formatOf : ElemType → Option FloatFormat
  | .f32 => some fp32 | .f16 => some fp16 | .bf16 => some bf16 | .e4m3 => some fpE4m3 | .e5m2 => some fpE5m2
  | .i32 | .i16 | .i8 | .ui8 | .i4 | .cb4 => none

/-- An integer lane as its value (R26). -/
def intLane (t : ElemType) (n : Nat) : Int := if t = .ui8 then (n % 256 : Nat) else signedOf (elemBits t) n

/-- The range of an integer type (R26). -/
def intLo (t : ElemType) : Int := if t = .ui8 then 0 else signedLo (elemBits t)
def intHi (t : ElemType) : Int := if t = .ui8 then 255 else signedHi (elemBits t)

/-- An input lane of the vector unit (R31). -/
def floatLane (f : FloatFormat) (n : Nat) : FVal := decodeFloat f f.flush n

/-! ## Arithmetic (R290) -/

inductive VecOp
  | add | sub | mul | fma | fms | max | min | abs | neg | addSat | subSat
  deriving DecidableEq, Repr

/-- A floating lane: a, b, and d where the form reads it. -/
def floatOp (op : VecOp) (a b d : FVal) : FVal × Flags :=
  match op with
  | .add | .addSat => fadd a b
  | .sub | .subSat => fsub a b
  | .mul => fmul a b
  | .fma => let (p, f) := fmul a b; let (r, g) := fadd p d; (r, f ||| g)
  | .fms => let (p, f) := fmul a b; let (r, g) := fsub d p; (r, f ||| g)
  | .max => (fmax a b, 0)
  | .min => (fmin a b, 0)
  | .abs => (match a with | .nan => .nan | .inf _ => .inf false | .fin _ m e => .fin false m e, 0)
  | .neg => (a.neg, 0)

/-- An integer lane, before it wraps or clips. -/
def intOp (op : VecOp) (t : ElemType) (a b : Int) : Int :=
  match op with
  | .add | .addSat | .fma | .fms => a + b
  | .sub | .subSat => a - b
  | .mul => a * b
  | .max => if a < b then b else a
  | .min => if b < a then b else a
  | .abs => if t = .ui8 then a else a.natAbs
  | .neg => 0 - a

def VecOp.saturates : VecOp → Bool
  | .addSat | .subSat => true
  | _ => false

/-- One lane of an arithmetic form: its bits and flags. -/
def arithLane (op : VecOp) (t : ElemType) (a b d : Nat) : Nat × Flags :=
  match formatOf t with
  | some f =>
    let (v, g) := floatOp op (floatLane f a) (floatLane f b) (floatLane f d)
    let (r, h) := encodeFloat f false v
    (r, g ||| h)
  | none =>
    let v := intOp op t (intLane t a) (intLane t b)
    if op.saturates then
      let (c, clipped) := clipTo (intLo t) (intHi t) v
      (wrapTo (elemBits t) c, flagIf clipped flagSat)
    else (wrapTo (elemBits t) v, 0)

/-- Lane by lane over three vectors. -/
def mapLanes (w : Nat) (g : Nat → Nat → Nat → Nat × Flags) (a b d : BitVec 512) : BitVec 512 × Flags :=
  packFlagged w ((List.range (512 / w)).map fun i => g (laneOf a w i) (laneOf b w i) (laneOf d w i))

def vecArith (op : VecOp) (t : ElemType) (a b d : BitVec 512) : BitVec 512 × Flags := mapLanes (elemBits t) (arithLane op t) a b d

/-! ## Transcendentals (R291) -/

inductive VecFun | exp2 | log2 | rcp | rsq
  deriving DecidableEq, Repr

def transcend (g : VecFun) (a : FVal) : FVal × Flags :=
  match g with
  | .exp2 => fexp2 a
  | .log2 => flog2 a
  | .rcp => frcp a
  | .rsq => frsq a

def vecFunction (g : VecFun) (t : ElemType) (a : BitVec 512) : BitVec 512 × Flags :=
  match formatOf t with
  | none => (0, 0)
  | some f => mapLanes (elemBits t) (fun x _ _ =>
      let (v, p) := transcend g (floatLane f x)
      let (r, q) := encodeFloat f false v
      (r, p ||| q)) a 0 0

/-! ## Compare, select, logic and shift (R292) -/

inductive VecTest | eq | ne | lt | le
  deriving DecidableEq, Repr

/-- Whether a condition holds of two lanes. -/
def testLane (c : VecTest) (t : ElemType) (a b : Nat) : Bool :=
  match formatOf t with
  | some f =>
    let x := floatLane f a
    let y := floatLane f b
    match c with
    | .eq => feq x y
    | .ne => !feq x y
    | .lt => flt false x y
    | .le => flt false x y || feq x y
  | none =>
    let x := intLane t a
    let y := intLane t b
    match c with
    | .eq => decide (x = y)
    | .ne => decide (x ≠ y)
    | .lt => decide (x < y)
    | .le => decide (x ≤ y)

def vecCompare (c : VecTest) (t : ElemType) (a b : BitVec 512) : BitVec 512 :=
  (mapLanes (elemBits t) (fun x y _ => (if testLane c t x y then 2 ^ elemBits t - 1 else 0, 0)) a b 0).1

def vecSelect (t : ElemType) (a b d : BitVec 512) : BitVec 512 :=
  (mapLanes (elemBits t) (fun x y m => (if m ≠ 0 then x else y, 0)) a b d).1

inductive VecShift | left | right | arith
  deriving DecidableEq, Repr

def vecShift (k : VecShift) (t : ElemType) (a b : BitVec 512) : BitVec 512 :=
  let w := elemBits t
  (mapLanes w (fun x y _ =>
    let n := y % w
    match k with
    | .left => (x * 2 ^ n % 2 ^ w, 0)
    | .right => (x / 2 ^ n, 0)
    | .arith => (wrapTo w (signedOf w x / (2 ^ n : Nat)), 0)) a b 0).1

/-! ## Literals (R44, R288) -/

/-- The default saturation of a float target (R33). -/
def defaultSat (f : FloatFormat) : Bool := f.e4m3

/-- A literal broadcast to every lane. -/
def literalLanes (t : ElemType) (lit : Word64) : BitVec 512 :=
  let x := match formatOf t with
    | some f => (encodeFloat f (defaultSat f) (decodeFloat fp32 false (lit.toNat % 2 ^ 32))).1
    | none => lit.toNat
  ofLanes (elemBits t) (List.replicate (laneCount t) x)

/-! ## Conversions (R293, R294) -/

/-- One element converted; `flip` selects the saturation that is not the target's default. -/
def convertLane (dst src : ElemType) (flip : Bool) (n : Nat) : Nat × Flags :=
  match formatOf src, formatOf dst with
  | some f, some g => encodeFloat g (defaultSat g != flip) (floatLane f n)
  | some f, none =>
    let (v, fl) := floatToInt (intLo dst) (intHi dst) (floatLane f n)
    (wrapTo (elemBits dst) v, fl)
  | none, some g => encodeFloat g (defaultSat g != flip) (intVal (intLane src n))
  | none, none =>
    let (v, clipped) := clipTo (intLo dst) (intHi dst) (intLane src n)
    (wrapTo (elemBits dst) v, flagIf clipped flagSat)

def vecConvert (dst src : ElemType) (flip : Bool) (a : BitVec 512) : BitVec 512 × Flags :=
  let n := 512 / max (elemBits src) (elemBits dst)
  packFlagged (elemBits dst) ((List.range n).map fun i => convertLane dst src flip (laneOf a (elemBits src) i))

def vecStochastic (dst : ElemType) (seed : Word64) (a : BitVec 512) : BitVec 512 × Flags :=
  match formatOf dst with
  | none => (0, 0)
  | some g => packFlagged (elemBits dst) ((List.range 16).map fun i =>
      stochastic g (defaultSat g) (srBits seed.toNat i) (decodeFloat fp32 false (laneOf a 32 i)))

/-! ## Movement (R295) -/

def vecBroadcast (t : ElemType) (v : Word64) : BitVec 512 := ofLanes (elemBits t) (List.replicate (laneCount t) v.toNat)

/-- Lane `k` of a vector as a general register's value. -/
def movedLane (t : ElemType) (a : BitVec 512) (k : Nat) : Word64 :=
  let n := laneOf a (elemBits t) k
  match formatOf t with
  | some _ => BitVec.ofNat 64 n
  | none => BitVec.ofInt 64 (intLane t n)

def vecShuffle (t : ElemType) (a b : BitVec 512) : BitVec 512 :=
  let w := elemBits t
  ofLanes w ((List.range (laneCount t)).map fun i => laneOf a w (laneOf b w i % laneCount t))

def vecSlide (t : ElemType) (a : BitVec 512) (k : Int) : BitVec 512 :=
  let w := elemBits t
  ofLanes w ((List.range (laneCount t)).map fun (i : Nat) =>
    let j := (i : Int) + k
    if 0 ≤ j ∧ j < laneCount t then laneOf a w j.toNat else 0)

def vecIota (t : ElemType) : BitVec 512 :=
  ofLanes (elemBits t) ((List.range (laneCount t)).map fun (i : Nat) =>
    match formatOf t with
    | some f => (encodeFloat f false (intVal (i : Int))).1
    | none => i)

/-! ## Reductions and dot products (R38, R296) -/

inductive VecRed | sum | sumSat | max | min
  deriving DecidableEq, Repr

/-- The range of INT32. -/
def i32Lo : Int := signedLo 32
def i32Hi : Int := signedHi 32

/-- An INT32 sum that wraps or clips. -/
def addI32 (sat : Bool) (a b : Int) : Int × Flags :=
  if sat then let (v, c) := clipTo i32Lo i32Hi (a + b); (v, flagIf c flagSat)
  else (signedOf 32 (wrapTo 32 (a + b)), 0)

/-- A node of the tree on floating values. -/
def redFloat (r : VecRed) (a b : FVal) : FVal × Flags :=
  match r with
  | .sum | .sumSat => addFp32 a b
  | .max => (fmax a b, 0)
  | .min => (fmin a b, 0)

def redInt (r : VecRed) (a b : Int) : Int × Flags :=
  match r with
  | .sum => addI32 false a b
  | .sumSat => addI32 true a b
  | .max => (if a < b then b else a, 0)
  | .min => (if b < a then b else a, 0)

/-- The identities of R38. -/
def redFloatId : VecRed → FVal
  | .sum | .sumSat => FVal.zero
  | .max => .inf true
  | .min => .inf false

def redIntId : VecRed → Int
  | .sum | .sumSat => 0
  | .max => i32Lo
  | .min => i32Hi

/-- The tree over floating values, in FP32. -/
def floatTree (r : VecRed) (l : List (FVal × Flags)) : BitVec 512 × Flags :=
  let f := l.foldl (fun f x => f ||| x.2) 0
  let (t, g) := treeSum (redFloat r) 8 (l.map Prod.fst)
  let (b, h) := encodeFloat fp32 false (t.headD FVal.zero)
  (BitVec.ofNat 512 b, f ||| g ||| h)

/-- The tree over integers, in INT32. -/
def intTree (r : VecRed) (l : List (Int × Flags)) : BitVec 512 × Flags :=
  let f := l.foldl (fun f x => f ||| x.2) 0
  let (t, g) := treeSum (redInt r) 8 (l.map Prod.fst)
  (BitVec.ofNat 512 (wrapTo 32 (t.headD 0)), f ||| g)

/-- Reduce the lanes of A that a mask selects; with `all`, every lane. -/
def vecReduce (r : VecRed) (t : ElemType) (a m : BitVec 512) (all : Bool) : BitVec 512 × Flags :=
  let w := elemBits t
  let idx := List.range (laneCount t)
  let on (i : Nat) : Bool := all || decide (laneOf m w i ≠ 0)
  match formatOf t with
  | some f => floatTree r (idx.map fun i => (if on i then floatLane f (laneOf a w i) else redFloatId r, 0))
  | none => intTree r (idx.map fun i => (if on i then intLane t (laneOf a w i) else redIntId r, 0))

/-- A lane product of `vdot`: exact, but for FP32 rounded once, and for INT32 wrapped or clipped. -/
def dotFloat (t : ElemType) (f : FloatFormat) (a b : Nat) : FVal × Flags :=
  let (p, g) := fmul (floatLane f a) (floatLane f b)
  if t = .f32 then let (r, h) := roundTo fp32 p; (r, g ||| h) else (p, g)

def dotInt (t : ElemType) (sat : Bool) (a b : Nat) : Int × Flags :=
  let p := intLane t a * intLane t b
  if sat then let (v, c) := clipTo i32Lo i32Hi p; (v, flagIf c flagSat) else (signedOf 32 (wrapTo 32 p), 0)

def vecDot (t : ElemType) (sat : Bool) (a b : BitVec 512) : BitVec 512 × Flags :=
  let w := elemBits t
  let idx := List.range (laneCount t)
  match formatOf t with
  | some f => floatTree .sum (idx.map fun i => dotFloat t f (laneOf a w i) (laneOf b w i))
  | none => intTree (if sat then .sumSat else .sum) (idx.map fun i => dotInt t sat (laneOf a w i) (laneOf b w i))

/-! ## Latencies (R287) -/

def isFloat (t : ElemType) : Bool := (formatOf t).isSome

def arithLatency (op : VecOp) (t : ElemType) : Nat := if isFloat t || decide (op = .mul) then 6 else 4

end Sys2Proof.Machine
end

