-- ==== Sys2Proof/Machine/VectorAccess.lean ====
section
/-!
DEFINITION. Vector registers as operands (R284, R286), and the vector memory instructions (R159, R160, R173 to R175):
`ldv`, `stv`, `gath` and `scat`, with page parts, PARTIAL and reissue.
-/
namespace Sys2Proof.Machine

/-! ## Vector registers -/

namespace State

/-- The window check (R286): every vector register named, in order, lies below the window's size. -/
def inWindow (s : State) : List VReg → Except Stop Unit
  | [] => .ok ()
  | v :: t => if v.val < s.ctx.vwinSize.toNat then s.inWindow t else trapN causeVwindow v.val

/-- The physical register of a window-relative one (R285). -/
def phys (s : State) (v : VReg) : Nat := s.ctx.vwinBase.toNat + v.val

def vecReg (s : State) (v : VReg) : VecReg := s.vreg s.cur.part s.cur.core (s.phys v)

/-- Vector sources: an empty one parks, a poisoned one traps (R284, R286). -/
def vready (s : State) : List VReg → Except Stop Unit
  | [] => .ok ()
  | v :: t =>
    let x := s.vecReg v
    if !x.full then .error (.park s (.vfull (s.phys v)))
    else match x.poison with
      | some l => trapN causePoison l
      | none => s.vready t

/-- A vector destination with a result pending parks (R286). -/
def vfree (s : State) (v : VReg) : Except Stop Unit :=
  if (s.vecReg v).settled then .ok () else .error (.park s (.vsettled (s.phys v)))

def modVreg (s : State) (v : Nat) (f : VecReg → VecReg) : State :=
  s.setVreg s.cur.part s.cur.core v (f (s.vreg s.cur.part s.cur.core v))

end State

/-! ## Lanes and parts (R159) -/

/-- A lane of a vector access: its byte in the vector register, its virtual address, and its length. -/
structure Lane where
  off : Nat
  va : Nat
  len : Nat
  deriving DecidableEq, Repr

namespace State

/-- The parts of an access in ascending lane order: the lanes of one page each, which the port translates alike, by one entry or by none.
The first argument bounds their number. -/
def laneParts (s : State) : Nat → List Lane → List (List Lane)
  | 0, _ => []
  | _ + 1, [] => []
  | fuel + 1, l :: t =>
    let mine (x : Lane) : Bool :=
      s.samePage s.asid l.va x.va && decide (s.cached s.quadNo s.asid l.va = s.cached s.quadNo s.asid x.va)
    (l :: t.filter mine) :: s.laneParts fuel (t.filter fun x => !mine x)

/-- The lowest address of a part. -/
def lowest (part : List Lane) : Nat := part.foldl (fun m l => min m l.va) ((part.map Lane.va).headD 0)

/-- The first toured address that a load's part touches (R176). -/
def touredIn (s : State) (part : List Lane) : Option Nat :=
  part.findSome? fun l => s.firstToured s.cur.part s.ctx.handle.toNat (calderaOf s.quadNo) l.va (l.va + l.len)

/-- How a part stands: a page fault, a page that the pager has refused (R157), the strict-reread check, whose value is the first toured address (R176; log 94), the tenant
check, the poison leaf (R169). -/
def vecPart (s : State) (isLoad : Bool) (part : List Lane) : PartState3 :=
  let va := lowest part
  let r := match s.cached s.quadNo s.asid va with
    | some _ => none
    | none => match s.failedWalk va with | some w => w.result | none => none
  match r with
  | some (.fault _) => .fault
  | some .denied => .trap causeAccess va
  | _ =>
    match (if isLoad && s.strict then s.touredIn part else none) with
    | some a => .trap causeStrict a
    | none =>
      match r with
      | some .refused => .trap causeAccess va
      | some .poison => .trap causePoison va
      | _ => .clean

/-- What the list of R159 decides: a trap; a drop on a page with the lanes below it performed, or none; or all lanes. -/
def vecDecide (s : State) (isLoad : Bool) (parts : List (List Lane)) : Except Stop (Option (List Lane)) :=
  match parts.find? fun x => s.vecPart isLoad x ≠ .clean with
  | none => .ok none
  | some x =>
    match s.vecPart isLoad x with
    | .trap c v => trapN c v
    | _ =>
      if parts.any fun y => match s.vecPart isLoad y with | .trap _ _ => true | _ => false then
        .error (.drop s s.asid (lowest x))
      else .ok (some x)

/-- Pieces of adjacent lanes of one page and one line, in lane order. -/
def lanePieces : List Lane → List Lane
  | [] => []
  | l :: t =>
    match lanePieces t with
    | m :: r => if l.off + l.len = m.off ∧ l.va + l.len = m.va ∧ l.va / 64 = m.va / 64 then ⟨l.off, l.va, l.len + m.len⟩ :: r else l :: m :: r
    | [] => [l]

/-- Issue the accesses of some lanes through cached translations. -/
def issueLanes (s : State) (kind : Lane → AccKind) (lanes : List Lane) : State :=
  lanes.foldl (fun s l =>
    let (s, ph) := s.usePart l.va
    let s := match kind l with | .load _ => s.noteSinkLoad ph.pa | _ => s
    s.issueAccess (s.access (kind l) ph l.va l.len none) false) s

/-- Perform a vector access through translated pages (R159): the lanes still to be done, an action on the lanes that are
performed, and what completes the instruction. `join` says which lanes go as one access. -/
def vecPerform (s : State) (isLoad : Bool) (acc : Nat) (lanes : List Lane) (join : List Lane → List Lane)
    (perform : State → List Lane → State) (dropped finish : State → State) : Step :=
  let parts := s.laneParts 16 lanes
  if parts.any fun x => s.missing (lowest x) then .error (.park (s.startWalks acc (parts.map lowest)) .walks)
  else do
    match ← s.vecDecide isLoad parts with
    | none => pure (finish (perform s (join lanes)))
    | some x =>
      -- every lane below the faulting part's first lane
      let stop := (x.map Lane.off).headD 0
      let below := lanes.filter fun l => decide (l.off < stop)
      let s := if below.isEmpty then s else
        (dropped (perform s (join below))).modCtx fun c => { c with partialBytes := BitVec.ofNat 6 stop }
      .error (.drop s s.asid (lowest x))

/-- The segment and alignment checks of lanes, in ascending order: each segment check before any alignment check (R169). -/
def checkLanes (g : Segment) (right : BitVec 7) (unit : Nat) (lanes : List (Nat × Int)) : Except Stop (List Lane) := do
  let checked ← lanes.mapM fun (x : Nat × Int) => do
    let a ← g.check x.2 unit right
    pure (⟨x.1, a, unit⟩ : Lane)
  match checked.find? fun l => decide (l.va % unit ≠ 0) with
  | some l => trapN causeAlign l.va
  | none => pure checked

/-- A vector register turns empty for a load; with PARTIAL it is empty already. -/
def vecStart (s : State) (v : Nat) (fresh : Bool) : State :=
  s.modVreg v fun x => if fresh then { val := 0, full := false, more := true } else x

/-- Loads of lanes into a vector register, which counts their answers. -/
def vecLoads (s : State) (v : Nat) (lanes : List Lane) : State :=
  (s.modVreg v fun x => { x with waiting := x.waiting + lanes.length }).issueLanes (fun l => .load (.vec v l.off)) lanes

/-- All lanes of a load are issued. -/
def vecLoaded (s : State) (v len : Nat) : State :=
  ((s.modVreg v fun x => { x with more := false, full := decide (x.waiting = 0) }).modCtx fun c => { c with partialBytes := 0 }).advance len

/-- A load of the lanes from a byte of the register on, from the scratchpad: one answer. -/
def localLanes (s : State) (v cycles off : Nat) (bytes : List Byte) (poison : Option Nat) : State :=
  (s.modVreg v fun x => { x with waiting := x.waiting + 1 }).answerAccess cycles (.lanes v off bytes poison)

/-- The bytes of a vector value from a byte on. -/
def vecBytes (v : BitVec 512) (off n : Nat) : List Byte := bytesOfNat n (v.toNat / 2 ^ (8 * off))

/-! ## `ldv` and `stv` (R173) -/

/-- The lanes of 4 bytes still to be done. -/
def ldvLanes (s : State) (addr : Nat) : List Lane :=
  ((List.range 16).filter fun i => s.ctx.partialBytes.toNat ≤ 4 * i).map fun i => ⟨4 * i, (addr + 4 * i) % 2 ^ 52, 4⟩

/-- The checks of the 64 bytes, or on a reissue of those not yet done: the address of the whole. -/
def ldvAddr (s : State) (seg : Seg) (a : Reg) (disp : Int) (right : BitVec 7) : Except Stop Nat := do
  let g := s.seg seg
  let done := s.ctx.partialBytes.toNat
  let off := sOff (s.val a) + disp
  let at_ ← g.check (off + done) (64 - done) right
  aligned at_ 4
  pure (g.addr off)

def ldvBody (s : State) (len : Nat) (v : VReg) (seg : Seg) (a : Reg) (disp : Int) : Step := do
  s.ready [a]
  s.acquired
  s.inWindow [v]
  let fresh := s.ctx.partialBytes = 0
  if fresh then s.vfree v
  let addr ← s.ldvAddr seg a disp rightR
  let p := s.phys v
  let done := s.ctx.partialBytes.toNat
  if (s.seg seg).isK then
    let (t, bytes, poison) := s.spadLoad s.cur.part s.cur.core s.cur.ctx (addr + done) (64 - done)
    pure ((((t.consume [a]).vecStart p fresh).localLanes p 4 done bytes poison).vecLoaded p len)
  else
    s.vecPerform true 1 (s.ldvLanes addr) lanePieces (fun t ls => (t.vecStart p fresh).vecLoads p ls) id
      (fun t => (t.consume [a]).vecLoaded p len)

def stvBody (s : State) (len : Nat) (v : VReg) (seg : Seg) (a : Reg) (disp : Int) : Step := do
  s.ready [a]
  s.acquired
  s.inWindow [v]
  s.vready [v]
  let addr ← s.ldvAddr seg a disp rightW
  let val := (s.vecReg v).val
  let done := s.ctx.partialBytes.toNat
  let finish (t : State) : State := ((t.consume [a]).modCtx fun c => { c with partialBytes := 0 }).advance len
  if (s.seg seg).isK then
    pure (finish (s.spadStore s.cur.part s.cur.core s.cur.ctx (addr + done) (vecBytes val done (64 - done)) s.ctx.pc))
  else
    s.vecPerform false 2 (s.ldvLanes addr) lanePieces
      (fun t ls => t.issueLanes (fun l => .store (vecBytes val l.off l.len) false) ls) id finish

/-! ## `gath` and `scat` (R174, R175) -/

/-- The offset of lane `i`: the base plus its 32-bit index times the element size. -/
def gathOff (s : State) (a : Reg) (idx : Nat) (e i : Nat) : Int :=
  sOff (s.val a) + signedOf 32 (idx / 2 ^ (32 * i)) * e

/-- The lanes still to be done, checked. -/
def gathLanes (s : State) (seg : Seg) (a : Reg) (idx e : Nat) (right : BitVec 7) : Except Stop (List Lane) :=
  checkLanes (s.seg seg) right e
    (((List.range 16).filter fun i => s.ctx.partialBytes.toNat ≤ e * i).map fun i => (e * i, s.gathOff a idx e i))

/-- The most lanes' words that one bank of 16 serves, less 1 (R170). -/
def bankConflicts (lanes : List Lane) : Nat :=
  let words := (lanes.map fun l => l.va / 4).eraseDups
  (List.range 16).foldl (fun m b => max m ((words.filter fun w => decide (w % 16 = b)).length)) 1 - 1

/-- The index vector: on a reissue with PARTIAL, the one that the instruction began with, which a trap on the way leaves (R160;
log 117). -/
def gathIndex (s : State) (idx : VReg) : Except Stop Nat :=
  match (if s.ctx.partialBytes = 0 then none else s.ctx.index) with
  | some i => .ok i
  | none => do
    s.vready [idx]
    pure (s.vecReg idx).val.toNat

/-- Loads of lanes from the scratchpad, each guarded by itself (R142; log 95): their bytes in order, and the first poison. -/
def localGather (s : State) (e : Nat) (lanes : List Lane) : State × List Byte × Option Nat :=
  lanes.foldl (fun (x : State × List Byte × Option Nat) l =>
    let (u, bytes, po) := x.1.spadLoad s.cur.part s.cur.core s.cur.ctx l.va e
    (u, x.2.1 ++ bytes, match x.2.2 with | some q => some q | none => po)) (s, [], none)

def gathBody (s : State) (t : ElemType) (v : VReg) (seg : Seg) (a : Reg) (idx : VReg) : Step := do
  s.ready [a]
  s.acquired
  s.inWindow [v, idx]
  let ix ← s.gathIndex idx
  let fresh := s.ctx.partialBytes = 0
  if fresh then s.vfree v
  let e := elemBits t / 8
  let lanes ← s.gathLanes seg a ix e rightR
  let p := s.phys v
  if (s.seg seg).isK then
    let (u, bytes, poison) := s.localGather e lanes
    let u := ((u.consume [a]).vecStart p fresh).localLanes p (4 + bankConflicts lanes) s.ctx.partialBytes.toNat bytes poison
    pure (u.vecLoaded p 4)
  else
    s.vecPerform true 1 lanes id (fun t ls => (t.vecStart p fresh).vecLoads p ls)
      (fun t => t.modCtx fun c => { c with index := some ix })
      (fun t => (t.consume [a]).vecLoaded p 4)

def scatBody (s : State) (t : ElemType) (v : VReg) (seg : Seg) (a : Reg) (idx : VReg) : Step := do
  s.ready [a]
  s.acquired
  s.inWindow [v, idx]
  s.vready [v, idx]
  let e := elemBits t / 8
  let lanes ← s.gathLanes seg a (s.vecReg idx).val.toNat e rightW
  let val := (s.vecReg v).val
  let finish (t : State) : State := ((t.consume [a]).modCtx fun c => { c with partialBytes := 0 }).advance 4
  if (s.seg seg).isK then
    pure (finish (lanes.foldl (fun u l => u.spadStore s.cur.part s.cur.core s.cur.ctx l.va (vecBytes val l.off e) s.ctx.pc) s))
  else
    s.vecPerform false 2 lanes id (fun t ls => t.issueLanes (fun l => .store (vecBytes val l.off l.len) false) ls) id finish

end State

def execLdv (v : VReg) (seg : Seg) (a : Reg) (off : BitVec 7) (s : State) : Out :=
  .next (s.settle (s.ldvBody 4 v seg a (off.toInt * 64)))
def execLdvLit (v : VReg) (seg : Seg) (a : Reg) (lit : Word64) (s : State) : Out :=
  .next (s.settle (s.ldvBody 12 v seg a lit.toInt))
def execStv (v : VReg) (seg : Seg) (a : Reg) (off : BitVec 7) (s : State) : Out :=
  .next (s.settle (s.stvBody 4 v seg a (off.toInt * 64)))
def execStvLit (v : VReg) (seg : Seg) (a : Reg) (lit : Word64) (s : State) : Out :=
  .next (s.settle (s.stvBody 12 v seg a lit.toInt))
def execGath (t : ElemType) (v : VReg) (seg : Seg) (a : Reg) (idx : VReg) (s : State) : Out :=
  .next (s.settle (s.gathBody t v seg a idx))
def execScat (t : ElemType) (v : VReg) (seg : Seg) (a : Reg) (idx : VReg) (s : State) : Out :=
  .next (s.settle (s.scatBody t v seg a idx))

end Sys2Proof.Machine
end

