-- ==== Sys2Proof/Machine/Matrix.lean ====
section
/-!
DEFINITION. Matrix steps (R298 to R307), accumulator commands and the codebook (R308 to R310), and batches as instructions (R314).
-/
namespace Sys2Proof.Machine

/-! ## Operand types (R299) -/

/-- The integer class. -/
def isIntClass : ElemType → Bool
  | .i8 | .ui8 | .i4 => true
  | _ => false

def isEightBit : ElemType → Bool
  | .e4m3 | .e5m2 | .i8 | .ui8 => true
  | _ => false

/-- The row rate ρ. -/
def rowRate (a b : ElemType) : Nat :=
  if isEightBit a && (isEightBit b || decide (b = .i4) || decide (b = .cb4)) then 2 else 1

/-- The bytes of `n` elements. -/
def elemBytes (t : ElemType) (n : Nat) : Nat := (n * elemBits t + 7) / 8

/-- A value of an array input, flushed (R31); a codebook entry is a BF16 input. -/
def arrayFloat (t : ElemType) (n : Nat) : FVal :=
  match formatOf t with
  | some f => decodeFloat f true n
  | none => decodeFloat bf16 true n

/-! ## Issue (R301, R302) -/

/-- What an `mma` or `mmar` names. -/
structure MatIssue where
  h : Header
  d : Reg
  a : Reg
  b : Option Reg
  m : Nat
  k : Nat
  n : Nat
  atype : ElemType
  btype : ElemType
  aplace : Place
  bplace : Place
  idx : Option VReg
  zero : Bool
  apitch : Nat
  bpitch : Nat

/-- The limit of a place: the scratchpad's bytes, or the tile's byte count of a slot that the slot rule admits. -/
def State.placeLimit (s : State) : Place → Except Stop Nat
  | .spad => .ok 65536
  | .slot t => do
    let x ← s.slotRule t
    pure x.size

/-- A step's range in a place: rows of `len` bytes at offset `v` plus multiples of a pitch, the last at `last`. -/
def checkRange (v : Word64) (last len lim : Nat) : Except Stop Unit :=
  if sOff v < 0 ∨ (lim : Int) < sOff v + last + len then .error (.trap causeOperand v) else .ok ()

namespace State

/-- The source rows of A: the index lanes of a gathered step, or 0 to M − 1. -/
def sourceRows (s : State) (m : Nat) : Option VReg → List Nat
  | some v => (List.range m).map fun i => laneOf (s.vecReg v).val 16 i
  | none => List.range m

/-- The checks of R302 and the queueing of a step. -/
def matrixBody (s : State) (len : Nat) (x : MatIssue) : Step := do
  let idx := x.idx.toList
  s.inWindow idx
  s.ready ([x.d, x.a] ++ x.b.toList)
  let d := s.val x.d
  if bitsOf d.toNat 63 29 ≠ 0 ∨ bitsOf d.toNat 15 13 ≠ 0 then throw (.trap causeOperand d)
  let abase := bitsOf d.toNat 12 0
  let cp := if bitsOf d.toNat 28 16 = 0 then x.n else bitsOf d.toNat 28 16
  if (1 < x.m ∧ cp < x.n) ∨ 8192 < abase + (x.m - 1) * cp + x.n then throw (.trap causeOperand d)
  let alim ← s.placeLimit x.aplace
  let blim ← if x.b.isSome then s.placeLimit x.bplace else pure 0
  let ra := elemBytes x.atype x.k
  let ap := if x.apitch = 0 then ra else x.apitch
  s.vready idx
  let rows := s.sourceRows x.m x.idx
  if 1 < x.m ∧ ap < ra then trapN causeOperand x.apitch
  let a := s.val x.a
  checkRange a (rows.foldl max 0 * ap) ra alim
  let rb := elemBytes x.btype x.n
  let bp := if x.bpitch = 0 then rb else x.bpitch
  let boff := match x.b with | some b => s.val b | none => 0
  if x.b.isSome then
    if 1 < x.k ∧ bp < rb then trapN causeOperand x.bpitch
    checkRange boff ((x.k - 1) * bp) rb blim
  s.dispatchRoom
  let (t, id) ← s.joinBatch
  let y : MatStep :=
    { part := s.cur.part, tid := s.curTid, gen := s.ctx.gen, shadow := s.cur.shadow, uid := s.ctx.uid, pc := s.ctx.pc, member := id, reuse := x.b.isNone, h := x.h,
      bound := s.nextAccess, m := x.m, k := x.k, n := x.n, atype := x.atype, btype := x.btype, aplace := x.aplace,
      bplace := x.bplace, aoff := a.toNat, boff := boff.toNat, apitch := ap, bpitch := bp, rows := rows, abase := abase,
      cpitch := cp, zero := x.zero }
  let t := if x.b.isSome then
      t.modCurCore fun C => { C with weights := { C.weights with lastK := x.k, lastN := x.n, lastBtype := x.btype } }
    else t
  pure (((t.consume ([x.d, x.a] ++ x.b.toList)).dispatch (.step y)).advance len)

/-- A place of an operand. -/
def placeOf (src : Bool) (t : Slot) : Place := if src then .slot t else .spad

/-- `mma` (R301). -/
def mmaIssue (h : Header) (d a b : Reg) (f : MmaFields) (lit : Word64) : MatIssue :=
  { h := h, d := d, a := a, b := some b, m := f.mm1.toNat + 1, k := f.km1.toNat + 1, n := f.nm1.toNat + 1, atype := f.atype,
    btype := f.btype, aplace := placeOf f.asrc f.aslot, bplace := placeOf f.bsrc f.bslot,
    idx := if f.gath then some f.idx else none, zero := f.zero, apitch := bitsOf lit.toNat 31 0, bpitch := bitsOf lit.toNat 63 32 }

/-- `mmar` (R301, R302): K, N and BTYPE are those of the core's latest `mma`. -/
def mmarIssue (s : State) (h : Header) (d a : Reg) (f : MmarFields) (lit : Word64) : MatIssue :=
  let w := s.curCore.weights
  { h := h, d := d, a := a, b := none, m := f.mm1.toNat + 1, k := w.lastK, n := w.lastN, atype := f.atype, btype := w.lastBtype,
    aplace := placeOf f.asrc f.aslot, bplace := .spad, idx := if f.gath then some f.idx else none, zero := f.zero,
    apitch := bitsOf lit.toNat 31 0, bpitch := bitsOf lit.toNat 63 32 }

end State

/-! ## Timing (R300) -/

def MatStep.kblocks (x : MatStep) : Nat := (x.k + 15) / 16
def MatStep.passes (x : MatStep) : Nat := if x.reuse then 1 else ((x.n + 15) / 16) * x.kblocks

/-- The cycles of a pass. -/
def MatStep.width (x : MatStep) : Nat := max ((x.m + rowRate x.atype x.btype - 1) / rowRate x.atype x.btype) 16

/-- Column block and k block of a pass (R303). -/
def MatStep.block (x : MatStep) : Nat × Nat := (x.pass / x.kblocks, x.pass % x.kblocks)

/-- Whether a started step has its latch, or passes, still to come. -/
def MatStep.running (x : MatStep) : Bool := x.started.isSome && x.error.isNone && decide (x.pass < x.passes)

/-- Whether the latch of an `mma` is still to come, which counts as a pass (R306). -/
def MatStep.latching (x : MatStep) : Bool := !x.reuse && x.latched.isNone

/-! ## Passes (R303 to R307) -/

namespace State

/-- Bytes of an operand of a step, or the poisoned scratchpad address or tile byte offset (R303, R307). -/
def readOperand (s : State) (x : MatStep) (place : Place) (a n : Nat) : State × Except Nat (List Byte) :=
  let core := coreOf x.tid
  match place with
  | .spad =>
    match s.operandSpad x.part core (ctxOf x.tid) x.olds a n with
    | (s, _, some l) => (s, .error l)
    | (s, b, none) => (s, .ok b)
  | .slot t =>
    let y := s.slotOf x.part core t.val
    match y.poisoned a n with
    | some l => (s, .error l)
    | none => let (s, b) := overlayOld x.part x.olds place a s (y.read a n); (s, .ok b)

/-- Rows of elements: where each starts, how many elements, of which type. -/
def readRows (s : State) (x : MatStep) (place : Place) (t : ElemType) (count : Nat) : List Nat → State × Except Nat (List (List Nat))
  | [] => (s, .ok [])
  | a :: rest =>
    match s.readOperand x place a (elemBytes t count) with
    | (s, .error l) => (s, .error l)
    | (s, .ok b) =>
      let v := natOfBytes b
      let row := (List.range count).map fun i => v / 2 ^ (elemBits t * i) % 2 ^ elemBits t
      match s.readRows x place t count rest with
      | (s, .ok l) => (s, .ok (row :: l))
      | (s, .error l) => (s, .error l)

end State

/-- A weight as it is latched: a CB4 code as its codebook entry (R28). -/
def latched (cb : Codebook) (t : ElemType) (n : Nat) : Nat := if t = .cb4 then ((cb.entries[n]?).getD 0).toNat else n

/-- The word of one element of a floating pass: the block's chain, then the accumulator (R39). -/
def floatElement (at_ bt : ElemType) (old : Option Nat) (row col : List Nat) : Nat × Flags :=
  let products := (List.zip row col).map fun y => fmul (arrayFloat at_ y.1) (arrayFloat bt y.2)
  let (c, f) := chainFp32 (products ++ List.replicate (16 - products.length) (FVal.zero, 0)) FVal.zero
  let acc := match old with | some w => decodeFloat fp32 false w | none => FVal.zero
  let (r, g) := addFp32 acc c
  ((encodeFloat fp32 false r).1, f ||| g)

/-- The word of one element of an integer pass. -/
def intElement (at_ bt : ElemType) (old : Option Nat) (row col : List Nat) : Nat :=
  let c := (List.zip row col).foldl (fun n y => n + intLane at_ y.1 * intLane bt y.2) 0
  wrapTo 32 (signedOf 32 (old.getD 0) + c)

/-- Column `j` of rows. -/
def column (b : List (List Nat)) (j : Nat) : List Nat := b.map fun r => (r[j]?).getD 0

/-- The accumulator words of a pass with their flags: rows of A and of B for its block (R303). -/
def passWords (x : MatStep) (acc : SMap (BitVec 32)) (a b : List (List Nat)) (nb : Nat) (first : Bool) (count : Nat) :
    List (Nat × Nat × Flags) :=
  (List.zip (List.range a.length) a).flatMap fun i =>
    (List.range count).map fun j =>
      let w := x.abase + i.1 * x.cpitch + 16 * nb + j
      let old := if first then none else some (acc.getD w 0).toNat
      if isIntClass x.atype then (w, intElement x.atype x.btype old i.2 (column b j), 0)
      else
        let (v, f) := floatElement x.atype x.btype old i.2 (column b j)
        (w, v, f)

namespace State

/-- Change the head of a quad's matrix section. -/
def modHead (s : State) (p q : Nat) (x : MatStep) : State :=
  s.modQuad p q fun Q =>
    { Q with matrix := match Q.matrix with | h :: t => { h with cmd := .step x } :: t | [] => [] }

/-- The rows of B that a pass reads. -/
def readWeights (s : State) (x : MatStep) : State × Except Nat (List (List Nat)) :=
    let (nb, kb) := x.block
    let kn := min 16 (x.k - 16 * kb)
    let nn := min 16 (x.n - 16 * nb)
    let starts := (List.range kn).map fun k => x.boff + (16 * kb + k) * x.bpitch + elemBytes x.btype (16 * nb)
    match s.readRows x x.bplace x.btype nn starts with
    | (s, .ok l) => (s, .ok (l.map fun r => r.map (latched x.codebook x.btype)))
    | r => r

/-- The rows of B that a pass uses: of an `mmar`, and of the first pass of an `mma`, the latched ones. -/
def passWeights (s : State) (x : MatStep) : State × Except Nat (List (List Nat)) :=
  if x.reuse then
    let w := (s.core x.part (coreOf x.tid)).weights
    (s, .ok ((List.range w.k).map fun k => (List.range w.n).map fun j => (w.b[k * w.n + j]?).getD 0))
  else match x.latched with
    | some b => if x.pass = 0 then (s, .ok b) else s.readWeights x
    | none => s.readWeights x

/-- The rows of A and of B that a pass uses: a pass that is run again has the inputs of its first run (R305). -/
def passInputs (s : State) (x : MatStep) : State × Except Nat (List (List Nat) × List (List Nat)) :=
  match x.inputs with
  | some i => (s, .ok i)
  | none =>
    let kb := x.block.2
    match s.readRows x x.aplace x.atype (min 16 (x.k - 16 * kb))
        (x.rows.map fun r => x.aoff + r * x.apitch + elemBytes x.atype (16 * kb)) with
    | (s, .error l) => (s, .error l)
    | (s, .ok a) =>
      match s.passWeights x with
      | (s, .error l) => (s, .error l)
      | (s, .ok b) => (s, .ok (a, b))

/-- Write the words of a pass (R303); a word that is read goes on carrying an error of its own (R309). -/
def writeAcc (s : State) (p core : Nat) (words : List (Nat × Nat × Flags)) (first : Bool) : State :=
  s.modCore p core fun C =>
    { C with
      acc := words.foldl (fun m w => SMap.put m w.1 (BitVec.ofNat 32 w.2.1)) C.acc
      accPoison := if first then words.foldl (fun n w => NSet.del n w.1) C.accPoison else C.accPoison }

/-- An error ends a step: no later pass runs, and it completes at the end of the latch or pass that found it. -/
def failStep (s : State) (p q : Nat) (x : MatStep) (kind detail : Nat) : State :=
  s.modHead p q { x with error := some { kind := kind, detail := detail } }

/-- The latch of an `mma` ends (R298, R303): the first block of B is read, decoded where a codebook says what it is, and stands in
the core's weight context, if it is the whole of B. A poisoned codebook fails the step (R307). -/
def endLatch (s : State) (p q : Nat) (x : MatStep) : State :=
  match (if x.btype = .cb4 then x.codebook.poison else none) with
  | some l => s.failStep p q x 2 l
  | none =>
    match s.readWeights x with
    | (s, .error l) => s.failStep p q x 2 l
    | (s, .ok b) =>
      let s := if 16 < x.k ∨ 16 < x.n then s
        else s.modCore x.part (coreOf x.tid) fun C =>
          { C with weights := { C.weights with stationary := false, k := x.k, n := x.n, btype := x.btype, b := b.flatten } }
      s.modHead p q { x with latched := some b, passEnds := x.passEnds + x.width }

/-- Count a rerun (R305, R394, R395). -/
def countRerun (s : State) (p q : Nat) (pc : BitVec 50) : State :=
  (s.modCaldera (calderaOf q) fun c =>
    let e := c.softErr
    { c with softErr := { e with reruns := if e.reruns = BitVec.allOnes 16 then e.reruns else e.reruns + 1 } }).recordDet p 3 pc

/-- The end of a pass (R303, R305, R307): with a mismatch it is run again, or fails the step. -/
def endPass (s : State) (p q : Nat) (x : MatStep) (mismatch : Bool) : State :=
  let core := coreOf x.tid
  let (nb, kb) := x.block
  match s.passInputs x with
  | (s, .error l) => s.failStep p q x 2 l
  | (s, .ok (a, b)) =>
    if mismatch then
      if x.reruns = 0 then
        (s.countRerun p q x.pc).modHead p q { x with reruns := 1, passEnds := x.passEnds + x.width, inputs := some (a, b) }
      else s.failStep p q x 1 ((x.pass % 256) * 2 ^ 13 + x.abase)
    else
      let first := x.zero && decide (kb = 0)
      let words := passWords x (s.core p core).acc a b nb first (min 16 (x.n - 16 * nb))
      let f := words.foldl (fun f w => f ||| w.2.2) x.flags
      let more := x.pass + 1 < x.passes
      (s.writeAcc p core words first).modHead p q
        { x with pass := x.pass + 1, reruns := 0, inputs := none, flags := f, passEnds := x.passEnds + (if more then x.width else 24) }

/-- Whether the head of the section may start (R98, R300). -/
def startDue (s : State) (p q : Nat) (x : MatStep) : Bool :=
  x.started.isNone && decide ((s.quad p q).matrixFree ≤ (s.part p).cycle) && s.acquireDone p x.tid x.bound x.shadow x.h

/-- A step starts (R300, R303, R304): an `mma` replaces its core's weight context; an `mmar` without weights fails. -/
def startStep (s : State) (p q : Nat) (x : MatStep) : State :=
  let core := coreOf x.tid
  let now := (s.part p).cycle
  if x.reuse then
    let w := (s.core p core).weights
    if w.stationary && decide (isIntClass w.btype = isIntClass x.atype) then
      let x := { x with k := w.k, n := w.n, btype := w.btype, started := some now }
      s.modHead p q { x with passEnds := now + x.width }
    else s.modHead p q { x with started := some now, passEnds := now + 1, error := some { kind := 3, detail := 0 } }
  else
    let s := s.modCore p core fun C => { C with weights := { C.weights with stationary := false, b := [] } }
    s.modHead p q { x with started := some now, passEnds := now + 16 }

/-- The head of a section, when it is a step. -/
def headStep (s : State) (p q : Nat) : Option MatStep :=
  match (s.quad p q).matrix with
  | h :: _ => match h.cmd with | .step x => some x | _ => none
  | [] => none

/-- Whether a latch or a pass of a started step has to end in this cycle. -/
def passDue (s : State) (p : Nat) (x : MatStep) : Bool := x.running && decide (x.passEnds ≤ (s.part p).cycle)

/-- Whether a latch or a pass is under way, its rerun included: a freeze runs it to its end (R306). -/
def passUnderWay (s : State) (p : Nat) (x : MatStep) : Bool :=
  x.running && decide (0 < x.reruns ∨ x.passEnds < (s.part p).cycle + (if x.latching then 16 else x.width))

/-- Whether a step has to complete in this cycle. -/
def completeDue (s : State) (p : Nat) (x : MatStep) : Bool :=
  x.started.isSome && (x.error.isSome || decide (x.passes ≤ x.pass)) && decide (x.passEnds ≤ (s.part p).cycle)

/-- Whether the latch or the pass at hand has to end now. -/
def passEnding (s : State) (p : Nat) (x : MatStep) : Bool :=
  match (s.part p).run with
  | .live => s.passDue p x
  | .freezing => s.passUnderWay p x
  | .idle | .frozen => false

/-- The matrix section goes on: the head starts, or its latch or pass under way ends. -/
def passStep (s : State) (p q : Nat) (mismatch : Bool) : State :=
  match s.headStep p q with
  | none => s
  | some x =>
    if s.live p && s.startDue p q x then s.startStep p q x
    else if !s.passEnding p x then s
    else if x.latching then s.endLatch p q x
    else s.endPass p q x mismatch

/-- A step completes (R300, R303): its weights become stationary, its flags are merged, and its member is done. -/
def completeStep (s : State) (p q : Nat) : State :=
  match s.headStep p q with
  | none => s
  | some x =>
    if !s.live p || !s.completeDue p x then s
    else
      let s := s.modQuad p q fun Q => { Q with matrix := Q.matrix.drop 1, matrixFree := (s.part p).cycle }
      let good := x.error.isNone && !x.reuse && decide (x.k ≤ 16 ∧ x.n ≤ 16)
      let s := if good then s.modCore p (coreOf x.tid) fun C => { C with weights := { C.weights with stationary := true } } else s
      s.completeMember p x.tid x.gen x.member x.flags x.error

/-! ## Accumulator commands (R308 to R310) -/

/-- Whether the head of a section is a command that has to take effect in this cycle. -/
def effectDue (s : State) (p q : Nat) : Bool :=
  s.live p && decide ((s.quad p q).matrixFree ≤ (s.part p).cycle) &&
    (match (s.quad p q).matrix with | h :: _ => !isStepCmd h | [] => false)

/-- Sixteen accumulator words from one on. -/
def accWords (C : Core) (i : Nat) : BitVec 512 := ofLanes 32 ((List.range 16).map fun j => (C.acc.getD (i + j) 0).toNat)

/-- The sixteen lanes of an `acrd`. A lane whose index is negative names no word (R4) and is a free value (log 135). -/
def accLanes (s : State) (p : Nat) (C : Core) (i : Int) : State × BitVec 512 :=
  if 0 ≤ i then (s, accWords C i.toNat)
  else
    let missing := min 16 (-i).toNat
    let (s, v) := s.chooseFor p (2 ^ (32 * missing))
    (s, (accWords C 0 <<< (32 * missing)) ||| BitVec.ofNat 512 v)

/-- An accumulator command at the head of its section takes effect. An error in a word that `acrd` reads poisons its result, with
an address that the spec does not give (log 13). -/
def effectStep (s : State) (p q : Nat) : State :=
  if !s.effectDue p q then s
  else match (s.quad p q).matrix with
    | [] => s
    | h :: rest =>
      let core := coreOf h.tid
      let now := (s.part p).cycle
      let done (s : State) (n : Nat) : State := s.modQuad p q fun Q => { Q with matrix := rest, matrixFree := now + n }
      match h.cmd with
      | .aclr i n =>
        (done s ((n + 15) / 16)).modCore p core fun C =>
          { C with acc := C.acc.keep fun k _ => decide (k < i ∨ i + n ≤ k), accPoison := C.accPoison.filter fun k => decide (k < i ∨ i + n ≤ k) }
      | .acwr i data =>
        (done s 1).modCore p core fun C =>
          { C with
            acc := (List.range 16).foldl (fun m (j : Nat) =>
              if 0 ≤ i + (j : Int) then SMap.put m (i + (j : Int)).toNat (BitVec.ofNat 32 (laneOf data 32 j)) else m) C.acc
            accPoison := C.accPoison.filter fun k => decide ((k : Int) < i ∨ i + 16 ≤ k) }
      | .acrd v i =>
        let C := s.core p core
        let bad := C.accPoison.any fun k => decide (i ≤ (k : Int) ∧ (k : Int) < i + 16)
        let (s, lanes) := s.accLanes p C i
        let (s, po) := if bad then let (s, a) := s.chooseFor p (2 ^ 52); (s, some a) else (s, none)
        (done s 1).modQuad p q fun Q => { Q with results := Q.results ++
          [{ access := h.access, tid := h.tid, gen := h.gen, shadow := h.shadow, due := now + 4, kind := .vec v lanes po, flags := 0 }] }
      | .cbld .. => done s 1
      | .vec _ | .step _ => s

/-- How many words from `i.toNat` on an `aclr` of `n` words from `i` on clears: those of `i` to `i + n - 1` that exist (R309; log 135). -/
def clearedWords (i n : Int) : Nat := (i + n).toNat - i.toNat

/-- `aclr` (R309), its comparisons signed (R4). -/
def aclrBody (s : State) (a b : Reg) : Step := do
  s.ready [a, b]
  let i := (s.val a).toInt
  let n := (s.val b).toInt
  if 8192 ≤ i then throw (.trap causeOperand (s.val a))
  if 8192 - i < n then throw (.trap causeOperand (s.val b))
  s.acquired
  s.dispatchRoom
  pure (((s.consume [a, b]).dispatchAccess (.aclr i.toNat (clearedWords i n))).advance 4)

/-- The index of `acrd` and `acwr`, its comparison signed (R4, R309). -/
def accIndex (s : State) (a : Reg) : Except Stop Int :=
  if 8176 < (s.val a).toInt then .error (.trap causeOperand (s.val a)) else .ok (s.val a).toInt

/-- A vector register turns empty until its result is written. -/
def vpending (s : State) (d : VReg) : State := s.modVreg (s.phys d) fun x => { val := x.val, full := false }

/-- The vector register that a 4-bit field names. -/
def lowVreg (d : Reg) : VReg := ⟨d.val, Nat.lt_trans d.isLt (by decide)⟩

def acrdBody (s : State) (d a : Reg) : Step := do
  let v := lowVreg d
  s.inWindow [v]
  s.ready [a]
  let i ← s.accIndex a
  s.vfree v
  s.acquired
  s.dispatchRoom
  pure ((((s.consume [a]).vpending v).dispatchAccess (.acrd (s.phys v) i)).advance 4)

def acwrBody (s : State) (d a : Reg) : Step := do
  let v := lowVreg d
  s.inWindow [v]
  s.ready [a]
  let i ← s.accIndex a
  s.vready [v]
  s.acquired
  s.dispatchRoom
  pure (((s.consume [a]).dispatchAccess (.acwr i (s.vecReg v).val)).advance 4)

/-- `cbld` (R310). -/
def cbldBody (s : State) (seg : Seg) (a : Reg) : Step := do
  s.ready [a]
  s.acquired
  let g := s.seg seg
  let addr ← g.check (sOff (s.val a)) 32 rightR
  aligned addr 32
  s.dispatchRoom
  if g.isK then
    let (t, b, po) := s.spadLoad s.cur.part s.cur.core s.cur.ctx addr 32
    pure (((t.consume [a]).dispatch (.cbld t.nextAccess (some { bytes := b, poison := po }))).advance 4)
  else
    let (t, ph) ← s.translate 1 false addr 32
    let t := t.noteSinkLoad ph.pa
    let id := t.nextAccess
    pure ((((t.consume [a]).issueAccess (t.access (.load (.codebook 0)) ph addr 32 none) false).dispatch (.cbld id none)).advance 4)

/-! ## `commit` and `waitb` (R314) -/

def commitBody (s : State) : Step :=
  if s.ctx.openBatch.isEmpty then .ok (s.advance 4)
  else if s.ctx.committed.length = 8 then .error (.park s (.batches 7))
  else .ok ((s.modCtx Ctx.commit).advance 4)

def waitbBody (s : State) (n : Nat) : Step := do
  if n < s.ctx.committed.length then throw (.park s (.batches n))
  s.errorReport
  pure (s.advance 4)

end State

def execMma (h : Header) (d a b : Reg) (f : MmaFields) (s : State) : Out :=
  .next (s.settle (s.matrixBody 12 (State.mmaIssue h d a b f 0)))
def execMmaPitch (h : Header) (d a b : Reg) (f : MmaFields) (lit : Word64) (s : State) : Out :=
  .next (s.settle (s.matrixBody 20 (State.mmaIssue h d a b f lit)))
def execMmar (h : Header) (d a : Reg) (f : MmarFields) (s : State) : Out :=
  .next (s.settle (s.matrixBody 12 (s.mmarIssue h d a f 0)))
def execMmarPitch (h : Header) (d a : Reg) (f : MmarFields) (lit : Word64) (s : State) : Out :=
  .next (s.settle (s.matrixBody 20 (s.mmarIssue h d a f lit)))
/-- R303, R305: `mismatch` is the checksum's verdict, which comes from outside. -/
def execMatrixPass (p q : Nat) (mismatch : Bool) (s : State) : Out := .next (s.passStep p q mismatch)
def execMatrixStepComplete (p q : Nat) (s : State) : Out := .next (s.completeStep p q)
def execAclr (a b : Reg) (s : State) : Out := .next (s.settle (s.aclrBody a b))
def execAcrd (d a : Reg) (s : State) : Out := .next (s.settle (s.acrdBody d a))
def execAcwr (d a : Reg) (s : State) : Out := .next (s.settle (s.acwrBody d a))
def execAccCommandEffect (p q : Nat) (s : State) : Out := .next (s.effectStep p q)
def execCbld (seg : Seg) (a : Reg) (s : State) : Out := .next (s.settle (s.cbldBody seg a))
def execCommit (s : State) : Out := .next (s.settle s.commitBody)
def execWaitb (n : Fin 16) (s : State) : Out := .next (s.settle (s.waitbBody n.val))

end Sys2Proof.Machine
end

