-- ==== Sys2Proof/Machine/Vent.lean ====
section
/-!
DEFINITION. Vents (R323 to R336): `mvb`, its translation, its rows and its completion, and `bstat`.
-/
namespace Sys2Proof.Machine

/-! ## A command -/

def VentCmd.weightBits (x : VentCmd) : Nat := elemBits x.wtype
/-- Bytes of a row, and of a vector of activations in the scratchpad (R326, R327). -/
def VentCmd.rowLen (x : VentCmd) : Nat := x.c * x.weightBits / 8
def VentCmd.actBytes (x : VentCmd) : Nat := if x.wtype = .i8 then 1 else 2
def VentCmd.vecStep (x : VentCmd) : Nat := 64 * ((x.c * x.actBytes + 63) / 64)
/-- Virtual addresses of a weight row, and of the word of a row and a vector. -/
def VentCmd.rowVa (x : VentCmd) (r : Nat) : Nat := (x.wseg.base.toNat + x.woff + r * x.st) % 2 ^ 52
def VentCmd.wordVa (x : VentCmd) (r v : Nat) : Nat := (x.dseg.base.toNat + x.doff + 4 * (v * x.m + r)) % 2 ^ 52
/-- Bytes of the weight range and of the results. -/
def VentCmd.weightLen (x : VentCmd) : Nat := (x.m - 1) * x.st + x.rowLen
def VentCmd.destLen (x : VentCmd) : Nat := 4 * x.v * x.m

namespace State

/-! ## Issue (R328) -/

/-- `mvb` (R326, R328). -/
def mvbBody (s : State) (len : Nat) (h : Header) (d a b : Reg) (f : MvbFields) (lit : Word64) : Step := do
  let some k := freeKey s.curQuad.vents 16 | throw (.park s .ventRoom)
  s.ready [a, b, d]
  s.acquired
  let wg := s.seg f.wseg
  let dg := s.seg f.dseg
  let act := s.val b
  let cb := decide (f.wtype = .cb4)
  let cboff := bitsOf lit.toNat 15 0
  let x : VentCmd :=
    { part := s.cur.part, tid := s.curTid, gen := s.ctx.gen, shadow := s.cur.shadow, uid := s.ctx.uid, pc := s.ctx.pc, asid := s.asid, h := h, bound := s.nextAccess,
      order := s.nextAccess, member := 0, wseg := wg, dseg := dg, woff := (sOff (s.val a)).toNat, doff := (sOff (s.val d)).toNat,
      act := act.toNat, v := f.vm1.val + 1, c := f.cm1.toNat + 1, m := f.rm1.toNat + 1, st := 64 * 2 ^ f.slog.val, wtype := f.wtype,
      accum := f.accum, cboff := cboff }
  if 65536 < x.act + x.v * x.vecStep then throw (.trap causeOperand act)
  if cb ∧ bitsOf lit.toNat 63 16 ≠ 0 then throw (.trap causeOperand lit)
  let w0 ← wg.check (sOff (s.val a)) x.weightLen rightB
  let d0 ← dg.check (sOff (s.val d)) x.destLen (if dg.isK then rightW else rightA)
  let meets (lo n : Nat) : Bool := decide (lo < d0 + x.destLen ∧ d0 < lo + n)
  if dg.isK && (meets x.act (x.v * x.vecStep) || (cb && meets cboff 32)) then throw (.trap causeOperand (s.val d))
  aligned w0 x.st
  aligned d0 4
  aligned x.act 64
  if cb then aligned cboff 32
  let (t, id) ← s.joinBatch
  let t : State := { t with nextAccess := t.nextAccess + 1 }
  pure (((t.consume [a, b, d]).modCurQuad fun Q => { Q with vents := Q.vents.put k { x with member := id } }).advance len)

/-! ## Translation (R329) -/

def modVent (s : State) (p q k : Nat) (f : VentCmd → VentCmd) : State :=
  s.modQuad p q fun Q => { Q with vents := match Q.vents.find? k with | some x => Q.vents.put k (f x) | none => Q.vents }

/-- A command ends, complete or failed (R332, R334): its entry frees. -/
def endVent (s : State) (p q k : Nat) (x : VentCmd) : State :=
  ((s.endReads p (.vent q k)).modQuad p q fun Q => { Q with vents := Q.vents.del k }).completeMember p x.tid x.gen x.member x.flags x.error

/-- A command fails before it streams, with the reason at an address (R335). -/
def failVent (s : State) (p q k : Nat) (x : VentCmd) (addr reason : Nat) : State :=
  s.endVent p q k { x with error := some { kind := 5, detail := addr / 64 * 64 + reason } }

/-- Parts of a range by page of an address space; the first argument bounds their number. -/
def rangePages (s : State) (asid : Nat) : Nat → Nat → Nat → List (Nat × Nat)
  | 0, _, _ => []
  | fuel + 1, va, n =>
    if n = 0 then []
    else
      let z := s.pageSize asid va
      let k := min n (z - va % z)
      (va, k) :: s.rangePages asid fuel ((va + k) % 2 ^ 52) (n - k)

/-- Translate the part of a range that lies in one page, as far as a command does not hold it yet: what it then holds, and what fails. An
entry of a smaller page, from before the region's pages grew, translates no more than that page. The first argument bounds their
number. Weight pages have to be ROWBLOCK (R329). -/
def ventPart (p q k : Nat) (x : VentCmd) (weights : Bool) :
    Nat → State → List VentPage → Nat → Nat → State × List VentPage × Option (Option WalkFail × Nat)
  | 0, s, held, _, _ => (s, held, none)
  | fuel + 1, s, held, va, n =>
    if n = 0 then (s, held, none)
    else match held.find? fun g => decide (g.va ≤ va ∧ va < g.va + g.size) with
      | some g =>
        let m := min n (g.va + g.size - va)
        ventPart p q k x weights fuel s held (va + m) (n - m)
      | none =>
        match s.entryFor (.vent q k) p q x.tid x.asid va with
        | (s, .error e) => (s, held, some (some e, va))
        | (s, .ok e) =>
          if weights && !e.bl then (s, held, some (none, va / s.pageSize x.asid va * s.pageSize x.asid va))
          else
            let m := min n (pageBytes e.ps - va % pageBytes e.ps)
            ventPart p q k x weights fuel (s.modHome q fun h => { h with tlb := touchTlb h.tlb e })
              (held ++ [{ va := va, size := m, pa := e.translate va, row := e.bl }]) (va + m) (n - m)

/-- Translate the pages of a range (R329) that a command does not hold yet: the pages that it then holds, and the first that fails. -/
def ventPages (s : State) (p q k : Nat) (x : VentCmd) (weights : Bool) (held : List VentPage) :
    List (Nat × Nat) → State × List VentPage × Option (Option WalkFail × Nat)
  | [] => (s, held, none)
  | (va, n) :: rest =>
    match ventPart p q k x weights (n / blockBytes + 2) s held va n with
    | (s, held, none) => s.ventPages p q k x weights held rest
    | r => r

/-- What a page that fails costs a command (R329, R155). -/
def ventPageFails (s : State) (p q k : Nat) (x : VentCmd) (acc : Nat) (e : Option WalkFail × Nat) : State :=
  match e with
  | (some (.fault kind), va) =>
    (s.enterFault p (calderaOf q) { kind := kind, acc := acc, thread := x.tid, asid := x.asid, va := va }).modVent p q k
      fun x => { x with stalled := some va }
  | (some .poison, va) => s.failVent p q k x va 1
  | (some .held, _) => s
  | (some _, va) => s.failVent p q k x va 2
  | (none, va) => s.failVent p q k x va 3

/-- Read scratchpad granules whole; a guarded one reads zeros and is logged (R329). -/
def ventGranules (p core ctx : Nat) (olds : List OldByte) : Nat → State → Nat → State × List Byte × Option Nat
  | 0, s, _ => (s, [], none)
  | n + 1, s, a =>
    let (s, b, po) := s.operandSpad p core ctx olds a 64
    let (s, t, l) := ventGranules p core ctx olds n s (a + 64)
    (s, b ++ t, po.orElse fun _ => l)

/-- Read the activations and the codebook (R329, R333), and stream; the reads wait for the banks of the scratchpad (R170). -/
def ventStreams (s : State) (p q k : Nat) (x : VentCmd) : State :=
  let core := coreOf x.tid
  let now := (s.part p).cycle
  if s.bankTaken p core x.act (x.v * x.vecStep) || (decide (x.wtype = .cb4) && s.bankTaken p core x.cboff 32) then s
  else
  let (s, ab, apo) := ventGranules p core (ctxOf x.tid) x.olds (x.v * x.vecStep / 64) s x.act
  match apo with
  | some l => s.failVent p q k x l 5
  | none =>
    if x.wtype = .cb4 then
      let (s, cb, cpo) := s.operandSpad p core (ctxOf x.tid) x.olds x.cboff 32
      match cpo with
      | some l => s.failVent p q k x l 4
      | none =>
        s.modVent p q k fun x => { x with state := .streaming, entered := now, acts := ab, codebook := codebookOf cb, olds := [] }
    else s.modVent p q k fun x => { x with state := .streaming, entered := now, acts := ab, olds := [] }

/-- The command that a vent engine works on: the earliest that does not stream yet. -/
def ventHead (Q : Quad) (x : VentCmd) : Bool :=
  decide (x.state ≠ .streaming) && Q.vents.all fun y => decide (y.2.state = .streaming ∨ x.order ≤ y.2.order)

/-- Translate what a command does not hold yet, and stream once it holds every page; its translations are held until it ends
(R329). -/
def ventTranslate (s : State) (p q k : Nat) : State :=
  match (s.quad p q).vents.find? k with
  | none => s
  | some x =>
    if !s.live p || x.stalled.isSome || !ventHead (s.quad p q) x || !s.acquireDone p x.tid x.bound x.shadow x.h then s
    else
      let hold (s : State) (l : List VentPage) : State := s.modVent p q k fun x => { x with state := .translating, pages := l }
      let wl := s.rangePages x.asid (x.weightLen / blockBytes + 2) (x.rowVa 0) x.weightLen
      match s.ventPages p q k x true x.pages wl with
      | (s, l, some e) => (hold s l).ventPageFails p q k x 6 e
      | (s, l, none) =>
        let dl := if x.dseg.isK then [] else s.rangePages x.asid (x.destLen / blockBytes + 2) (x.wordVa 0 0) x.destLen
        match s.ventPages p q k x false l dl with
        | (s, l, some e) => (hold s l).ventPageFails p q k x 5 e
        | (s, l, none) => (hold s l).ventStreams p q k x

end State

/-! ## Rows (R330, R331) -/

/-- The physical address, before its layout, and the layout of a byte of the command's ranges; its pages are held (R329). -/
def VentCmd.place (x : VentCmd) (va : Nat) : Nat × Bool :=
  match x.pages.find? fun g => decide (g.va ≤ va ∧ va < g.va + g.size) with
  | some g => (g.pa + (va - g.va), g.row)
  | none => (0, true)

/-- Whether a slice cache has evicted a dirty line of its own accord before a vent of a deterministic partition reads it (R16, R97; log 150). -/
def State.evictedFor (s : State) (p l : Nat) : Bool :=
  (s.part p).det && Config.detEvict ((s.part p).cycle - (s.part p).launchedAt) l

/-- The bytes of a line as the banks hold them (R97). -/
def State.bankLine (s : State) (pa n : Nat) : List Byte :=
  match s.bank.find? (pa / 64) with
  | some b => (b.drop (pa % 64)).take n
  | none => s.readMem pa n

/-- Bank bytes of a range of one granule, and the first poisoned virtual line. -/
def VentCmd.readBanks (x : VentCmd) : Nat → State → Nat → Nat → State × List Byte × Option Nat
  | 0, s, _, _ => (s, [], none)
  | fuel + 1, s, va, n =>
    if n = 0 then (s, [], none)
    else
      let k := min n (64 - va % 64)
      let (pa0, row) := x.place va
      let (s, pa) := s.placed row pa0
      let s := if s.evictedFor x.part (pa / 64) then s.cleanLines fun l => decide (l = pa / 64) else s
      let b := s.bankLine pa k
      let bad := if s.isPoisoned pa then some (va / 64 * 64) else none
      let (s, t, l) := x.readBanks fuel s (va + k) (n - k)
      (s, b ++ t, bad.orElse fun _ => l)

/-- The vault and the vent of a row (R323, R324). -/
def VentCmd.vent (x : VentCmd) (r : Nat) : Nat × Nat :=
  let pa := (x.place (x.rowVa r)).1
  (homeOf pa, pa / 4096 % 16)

/-- Whether a command has a row, below a bound, that a vent has still to read. -/
def VentCmd.rowAt (x : VentCmd) (vent : Nat × Nat) (n : Nat) : Bool :=
  decide (x.state = .streaming) && (List.range n).any fun i => !x.rowsDone.contains i && decide (VentCmd.vent x i = vent)

/-- A weight's value (R31, R40): codebook entries are BF16. -/
def ventWeight (t : ElemType) (cb : List (BitVec 16)) (n : Nat) : FVal :=
  match formatOf t with
  | some f => decodeFloat f true n
  | none => decodeFloat bf16 true ((cb[n]?).getD 0).toNat

/-- The sum of a row and a vector: 32 bits and flags (R40). -/
def VentCmd.sum (x : VentCmd) (weights : List Nat) (v : Nat) : Nat × Flags :=
  let acts := x.acts.drop (v * x.vecStep)
  if x.wtype = .i8 then
    let n := natOfBytes (acts.take x.c)
    let t := (List.zip (List.range x.c) weights).foldl (fun (t : Int) y => t + signedOf 8 y.2 * signedOf 8 (n / 2 ^ (8 * y.1))) 0
    (wrapTo 32 t, 0)
  else
    let n := natOfBytes (acts.take (2 * x.c))
    let (r, f) := ventSum ((List.zip (List.range x.c) weights).map fun y =>
      fmul (ventWeight x.wtype x.codebook y.2) (decodeFloat bf16 true (n / 2 ^ (16 * y.1) % 2 ^ 16)))
    let (b, g) := encodeFloat fp32 false r
    (b, f ||| g)

namespace State

/-- A sum is applied to its word of the scratchpad (R331); the flags of its addition. -/
def ventScratch (s : State) (p : Nat) (x : VentCmd) (a sum : Nat) : State × Flags :=
  let core := coreOf x.tid
  let (v, f) := if !x.accum then (sum, 0)
    else
      let old := natOfBytes (s.spadBytes p core a 4)
      if x.wtype = .i8 then ((old + sum) % 2 ^ 32, (0 : Flags))
      else
        let (r, f) := addFp32 (decodeFloat fp32 false old) (decodeFloat fp32 false sum)
        let (b, g) := encodeFloat fp32 false r
        (b, f ||| g)
  if (s.core p core).guarded.contains (a / 64) then (s.logGuard p core (ctxOf x.tid) a true, 0)
  else (s.spadStoreLine p core (ctxOf x.tid) a (bytesOfNat 4 v) x.pc, f)

/-- A sum is posted to its word's home (R331), an access that the counters count (R163, R328), through the cached entry of its page. -/
def ventPost (s : State) (p q k : Nat) (x : VentCmd) (r v sum : Nat) : State :=
  let va := x.wordVa r v
  let (pa0, row) := x.place va
  let s := match s.cached q x.asid va with | some e => s.countAccess q e va pa0 | none => s
  let (s, pa) := s.placed row pa0
  s.sendAccess
    { part := p, issuer := .vent q k, tid := x.tid, uid := x.uid, order := (x.order, v * x.m + r),
      kind := .red (if x.wtype = .i8 then .add else .fadd) .w32 (BitVec.ofNat 64 sum), pa := pa, size := 4, asid := x.asid, va := va,
      counted := false, src := q, dst := homeOf pa, stage := .home, issuedAt := (s.part p).cycle, pc := x.pc.toNat }

/-- Deliver the sums of a row, by vector. -/
def ventDeliver (s : State) (p q k : Nat) (x : VentCmd) (r : Nat) (sums : List (Nat × Nat × Flags)) : State × Flags :=
  sums.foldl (fun (a : State × Flags) y =>
    if x.dseg.isK then
      let (s, f) := a.1.ventScratch p x (x.wordVa r y.1) y.2.1
      (s, a.2 ||| y.2.2 ||| f)
    else (a.1.ventPost p q k x r y.1 y.2.1, a.2 ||| y.2.2)) (s, 0)

/-- Whether an earlier command of the thread has still to apply a sum to a word that a row of this one writes (R331). -/
def ventBehind (Q : Quad) (x : VentCmd) (r : Nat) : Bool :=
  x.dseg.isK && Q.vents.any fun y =>
    decide (y.2.tid = x.tid ∧ y.2.order < x.order) && y.2.dseg.isK &&
      (List.range x.v).any fun v =>
        let a := x.wordVa r v
        let b := y.2.wordVa 0 0
        decide (b ≤ a ∧ a < b + y.2.destLen) && !y.2.rowsDone.contains ((a - b) / 4 % y.2.m)

/-- Whether a sum of a row waits for a bank of the scratchpad (R170). -/
def sumWaits (s : State) (p : Nat) (x : VentCmd) (r : Nat) : Bool :=
  x.dseg.isK && (List.range x.v).any fun v => s.bankTaken p (coreOf x.tid) (x.wordVa r v) 4

/-- The place of a command's sub-commands in the order of R213. -/
def ventAge (s : State) (x : VentCmd) : Nat × Nat × Nat := (messageAge (s.part x.part).cycle x.entered, x.tid, x.order)

/-- Whether a vent has rows of sub-commands to take before those of a command (R330), of those that may be in its way (R16). -/
def ventTaken (s : State) (x : VentCmd) (vent : Nat × Nat) : Bool :=
  s.parts.any fun P => decide (P.2.run = .live) && s.sharesNet x.part P.1 && P.2.quads.any fun Q => Q.2.vents.any fun y =>
    y.2.rowAt vent y.2.m && goesBefore (s.ventAge y.2) (s.ventAge x)

def modVentCount (s : State) (p vault : Nat) (f : VentCount → VentCount) : State :=
  s.modPart p fun P => { P with ventCounts := P.ventCounts.put vault (f (P.ventCounts.getD vault {})) }

/-- The lowest failing line of a command's weights (R335). -/
def lowerError (e : Option MemberError) (line : Nat) : Option MemberError :=
  match e with
  | some d => some { kind := 5, detail := min d.detail (line + 1) }
  | none => some { kind := 5, detail := line + 1 }

/-- A row ends (R330, R331, R334): its sums are delivered, or a poisoned line drops them. All of its lines are read at this step (R97;
log 108). -/
def ventRow (s : State) (p q k r : Nat) : State :=
  match (s.quad p q).vents.find? k with
  | none => s
  | some x =>
    if !s.live p || decide (x.state ≠ .streaming ∨ x.m ≤ r) || x.rowsDone.contains r || ventBehind (s.quad p q) x r || x.rowAt (VentCmd.vent x r) r || s.ventTaken x (VentCmd.vent x r) ||
        s.sumWaits p x r then s
    else
      let (s, b, bad) := x.readBanks (x.rowLen / 64 + 2) s (x.rowVa r) x.rowLen
      let s := s.modVentCount p (VentCmd.vent x r).1 fun c =>
        { c with rows := if c.rows = BitVec.allOnes 32 then c.rows else c.rows + 1 }
      match bad with
      | some l => s.modVent p q k fun x => { x with rowsDone := NSet.add x.rowsDone r, error := lowerError x.error l }
      | none =>
        let n := natOfBytes b
        let w := (List.range x.c).map fun i => n / 2 ^ (x.weightBits * i) % 2 ^ x.weightBits
        let (s, f) := s.ventDeliver p q k x r ((List.range x.v).map fun v => (v, x.sum w v))
        s.modVent p q k fun x => { x with rowsDone := NSet.add x.rowsDone r, flags := x.flags ||| f }

/-- A command completes (R332). -/
def ventComplete (s : State) (p q k : Nat) : State :=
  match (s.quad p q).vents.find? k with
  | none => s
  | some x =>
    if s.live p && decide (x.state = .streaming ∧ x.rowsDone.length = x.m) && s.releaseDone p x.tid (.vent q k) x.h then s.endVent p q k x
    else s

/-! ## Pacing and corrected errors (R20, R336; log 99) -/

/-- Pacing withholds a vent cycle, or none, from the row that a command reads next. -/
def paceVent (s : State) (p : Nat) (x : VentCmd) : State :=
  match if x.state = .streaming then (List.range x.m).find? (fun r => !x.rowsDone.contains r) else none with
  | none => s
  | some r =>
    let (s, n) := s.choose 2
    s.modVentCount p (VentCmd.vent x r).1 fun c => { c with paced := BitVec.ofNat 16 (min 65535 (c.paced.toNat + n)) }

/-- A cycle of pacing for the vents of a throughput partition. -/
def paceVents (s : State) (p : Nat) : State :=
  (s.part p).quads.foldl (fun s Q => Q.2.vents.foldl (fun s x => s.paceVent p x.2) s) s

/-- Whether a row of a command that its vents are reading lies, in part, in a line of memory. -/
def ventReads (s : State) (x : VentCmd) (line : Nat) : Bool :=
  decide (x.state = .streaming) && (List.range x.m).any fun r => !x.rowsDone.contains r &&
    (List.range (x.rowLen / 64 + 2)).any fun i =>
      let va := x.rowVa r / 64 * 64 + 64 * i
      let (pa0, row) := x.place (max va (x.rowVa r))
      decide (va < x.rowVa r + x.rowLen) && decide ((s.placed row pa0).2 / 64 = line)

/-- Whether the vents of a running partition are reading a line. -/
def ventsRead (s : State) (p line : Nat) : Bool := s.live p && (s.part p).quads.any fun Q => Q.2.vents.any fun x => s.ventReads x.2 line

/-- A corrected error that a vent read of a partition meets in a line is counted for the partition (R336). -/
def countVentError (s : State) (p line : Nat) : State :=
  s.modVentCount p (homeOf (line * 64)) fun c => { c with corr := BitVec.ofNat 16 (min 65535 (c.corr.toNat + 1)) }

/-! ## `bstat` (R336) -/

/-- The thread's own status. -/
def ventStatus (s : State) : Nat :=
  let l := s.curQuad.vents.keep fun _ x => decide (x.tid = s.curTid ∧ x.gen = s.ctx.gen)
  let oldest := l.foldl (fun (m : Option VentCmd) y =>
    match m with
    | none => some y.2
    | some x => if y.2.order < x.order then some y.2 else some x) none
  min l.length 255 * 2 ^ 56 + (match oldest with | some x => x.rowsDone.length | none => 0)

/-- `bstat` (R336). A vault's counters come in the fourth cycle after the issue (log 116). -/
def bstatBody (s : State) (d a : Reg) : Step := do
  s.ready [a]
  s.free d
  let v := (s.val a).toNat
  if v = 0 then pure (((s.consume [a]).write d (BitVec.ofNat 64 s.ventStatus)).advance 4)
  else if v / 8192 = 2 ^ 50 then
    let c := s.curPart.ventCounts.getD (v % 8192) {}
    pure ((((s.consume [a]).writePending d).answerAfter 4 (.reg d (c.rows ++ c.paced ++ c.corr))).advance 4)
  else throw (.trap causeOperand (s.val a))

end State

def execMvb (h : Header) (d a b : Reg) (f : MvbFields) (s : State) : Out := .next (s.settle (s.mvbBody 12 h d a b f 0))
def execMvbCb4 (h : Header) (d a b : Reg) (f : MvbFields) (lit : Word64) (s : State) : Out :=
  .next (s.settle (s.mvbBody 20 h d a b f lit))
def execVentTranslation (p q k : Nat) (s : State) : Out := .next (s.ventTranslate p q k)
def execVentRow (p q k row : Nat) (s : State) : Out := .next (s.ventRow p q k row)
def execVentCommandComplete (p q k : Nat) (s : State) : Out := .next (s.ventComplete p q k)
def execBstat (d a : Reg) (s : State) : Out := .next (s.settle (s.bstatBody d a))

end Sys2Proof.Machine
end

