-- ==== Sys2Proof/Machine/Window.lean ====
section
/-!
DEFINITION. Device time and the window unit (R352 to R367): the discipline of `DTIME`, geysers and their ticks, streams and
their windows, token ingress, and `timrd`, `tickw`, `winq` and `wintake`.
-/
namespace Sys2Proof.Machine

/-! ## Geysers (R354, R355) -/

namespace Geyser

def field (g : Geyser) (hi lo : Nat) : Nat := bitsOf g.regs.toNat hi lo
def func (g : Geyser) : Nat := g.field 4 0
def en (g : Geyser) : Bool := g.regs.getLsbD 5
def grace (g : Geyser) : Nat := g.field 39 16
def period (g : Geyser) : Nat := g.field 95 64
/-- START in nanoseconds. -/
def start (g : Geyser) : Nat := g.field 175 128 * 10 ^ 9 + g.field 127 96
/-- The ticks whose fire times have come at a `DTIME` in nanoseconds. -/
def firedBy (g : Geyser) (ns : Nat) : Nat :=
  if ns < g.start + g.grace then 0 else (ns - (g.start + g.grace)) / g.period + 1
/-- Whether a tick is due. -/
def due (g : Geyser) (ns : Nat) : Bool := g.en && decide (g.fired < g.firedBy ns)
/-- The current tick, in 48 bits. -/
def current48 (g : Geyser) : Nat := (g.fired + 2 ^ 48 - 1) % 2 ^ 48
/-- Whether R354 refuses to set EN. -/
def refused (g : Geyser) : Bool :=
  decide (g.period < 1000 ∨ g.period ≤ g.grace ∨ 999999999 < g.field 127 96 ∨ g.field 191 176 ≠ 0 ∨ g.field 63 40 ≠ 0 ∨
    g.field 15 6 ≠ 0)

end Geyser

def Windows.geyser (w : Windows) (g : Nat) : Geyser := w.geysers.getD g {}
/-- Hub `DTIME` in nanoseconds. -/
def Windows.ns (w : Windows) : Nat := w.dtime / 2 ^ 16
/-- Whether any firing is due. -/
def Windows.firingDue (w : Windows) : Bool := w.geysers.any fun g => g.2.due w.ns

/-! ## Windows (R358, R361) -/

/-- First and last tick of an open stream's window. -/
def Windows.first (w : Windows) (o : OpenStream) : Int := (w.geyser o.geyser).fired + o.ahead - o.w
def Windows.last (w : Windows) (o : OpenStream) : Int := (w.geyser o.geyser).fired + o.ahead - 1

/-- The state of a tick. -/
inductive TickState
  | expired
  | early
  | slot (x : WinSlot)
  deriving DecidableEq, Repr

def Windows.tick (w : Windows) (o : OpenStream) (k : Nat) : TickState :=
  if (k : Int) < w.first o then .expired
  else if w.last o < k then .early
  else .slot (o.slots.getD (k % o.w) {})

/-- Add one to a 32-bit counter that saturates. -/
def bump (c : BitVec 32) : BitVec 32 := if c = BitVec.allOnes 32 then c else c + 1
/-- Add a number to a counter that saturates. -/
def bumpBy (c : BitVec 32) (n : Nat) : BitVec 32 := BitVec.ofNat 32 (min (c.toNat + n) (2 ^ 32 - 1))

/-- A slot whose tick has left the window: EMPTY, the mark clear, a copy still running. -/
def WinSlot.cleared (x : WinSlot) : WinSlot := { copying := x.copying }
/-- Whether a slot holds a token that was never taken. -/
def WinSlot.untaken (x : WinSlot) : Bool := decide (x.state ≠ .empty) && !x.taken

/-- Clear the slots of an open stream that satisfy a test; every untaken token in them counts as EXPIRED. -/
def Stream.clear (x : Stream) (o : OpenStream) (which : Nat → Bool) : Stream :=
  let n := o.slots.countP fun k y => which k && y.untaken
  { x with
    opened := some { o with slots := o.slots.mapVal fun k y => if which k then y.cleared else y }
    counts := { x.counts with expired := bumpBy x.counts.expired n } }

/-- Move the windows that a geyser indexes from `old` fired ticks to `new`. -/
def Stream.move (g old new : Nat) (x : Stream) : Stream :=
  match x.opened with
  | none => x
  | some o =>
    if o.geyser ≠ g then x
    else
      let b : Int := old + o.ahead - o.w
      x.clear o fun k => decide (b + ((k : Int) - b) % o.w < new + o.ahead - o.w)

namespace State

def modGeyser (s : State) (g : Nat) (f : Geyser → Geyser) : State :=
  s.modWindows fun w => { w with geysers := w.geysers.put g (f (w.geyser g)) }

def modStream (s : State) (n : Nat) (f : Stream → Stream) : State :=
  s.modWindows fun w => { w with streams := w.streams.put n (f (w.streams.getD n {})) }

/-- The window unit answers a request. -/
def answerWindow (s : State) (id : Nat) (x : Access) (a : Answer) : State := s.setAccess id { x with stage := .answered, answer := a }

/-- Answer a `tickw` (R364), and record it (R367). -/
def answerTick (s : State) (id : Nat) (x : Access) (status j : Nat) : State :=
  (s.recordDet x.part 6 (BitVec.ofNat 50 x.pc)).answerWindow id x (.data (bytesOfNat 8 (status * 2 ^ 60 + j)))

/-- The `tickw` requests held on a geyser: the tick, and the access with its number. -/
def heldTicks (s : State) (g : Nat) : List (Nat × Nat × Access) :=
  s.accesses.filterMap fun y =>
    match y.2.kind, y.2.stage with
    | .window 0 _ a b, .watch _ => if a.toNat = g ∧ y.2.answer = .none then some (b.toNat, y.1, y.2) else none
    | _, _ => none

/-- Put a held request before those of later ticks. -/
def insertTick (x : Nat × Nat × Access) : List (Nat × Nat × Access) → List (Nat × Nat × Access)
  | [] => [x]
  | y :: t => if x.1 < y.1 then x :: y :: t else y :: insertTick x t

/-- Answer the `tickw` requests held on a geyser that satisfy a test, in ascending order of their ticks (R355); of a frozen partition the
answer waits for its resumption. -/
def answerHeld (s : State) (g : Nat) (which : Nat → Bool) (status : Nat) (j : Nat → Nat) : State :=
  (((s.heldTicks g).filter fun y => which y.1).foldl (fun l y => insertTick y l) []).foldl (fun s y =>
    if (s.part y.2.2.part).run = .frozen then s.setAccess y.2.1 { y.2.2 with answer := .ack }
    else s.answerTick y.2.1 y.2.2 status (j y.1)) s

/-- Fire every tick of a geyser that is due, in ascending order: windows move and held requests are answered (R355, R358). -/
def fireGeyser (s : State) (g : Nat) : State :=
  let x := s.windows.geyser g
  if !x.due s.windows.ns then s
  else
    let n := x.firedBy s.windows.ns
    let s := s.modGeyser g fun x => { x with fired := n }
    let s := s.modWindows fun w => { w with streams := w.streams.mapVal fun _ y => y.move g x.fired n }
    s.answerHeld g (fun k => decide (k < n)) 0 fun k => k

def fireAll (s : State) : State := s.windows.geysers.foldl (fun s g => s.fireGeyser g.1) s

/-- Whether a held `tickw` has had its answer while its partition was frozen (R364): its tick has fired or its geyser is off, here, or
here while the partition was in a record (R397). -/
def tickAnswered (s : State) (x : Access) (a b : Word64) : Bool :=
  let g := s.windows.geyser a.toNat
  decide (x.answer = .ack) || (decide (x.answer = .none) && (!g.en || decide (b.toNat < g.fired)))

/-- The answers that a partition's resumption delivers (R364): LATE, with the tick then current. -/
def resumeTicks (s : State) (p : Nat) : State :=
  let s := s.fireAll
  s.accesses.foldl (fun s y =>
    match y.2.kind, y.2.stage with
    | .window 0 _ a b, .watch _ =>
      if y.2.part = p ∧ s.tickAnswered y.2 a b then s.answerTick y.1 y.2 1 (s.windows.geyser a.toNat).current48 else s
    | _, _ => s) s

/-- Whether a function may write a geyser: the physical function any, another function its own (R372). -/
def mayGeyser (s : State) (f g : Nat) : Bool := decide (f = 0) || decide ((s.windows.geyser g).func = f)

/-- A write of word `k` of a geyser's register set (R354); the ticks that are due fire before it (R355). -/
def writeGeyser (s : State) (f g k : Nat) (value : Word64) : State :=
  let s := s.fireGeyser g
  let x := s.windows.geyser g
  if 64 ≤ g ∨ 3 ≤ k ∨ s.mayGeyser f g = false ∨ s.bar0Responds f 0x4000 = false then s
  else if x.en then
    if k = 0 ∧ !value.getLsbD 5 then
      let s := s.modGeyser g fun x => { x with regs := x.regs &&& ~~~ (BitVec.ofNat 192 32) }
      s.answerHeld g (fun _ => true) 2 fun _ => x.current48
    else s
  else
    let value := if k = 0 ∧ f ≠ 0 then (value &&& ~~~ 31) ||| BitVec.ofNat 64 x.func else value
    let mask : BitVec 192 := (BitVec.allOnes 64).setWidth 192 <<< (64 * k)
    let regs := (x.regs &&& ~~~ mask) ||| (value.setWidth 192 <<< (64 * k))
    let y : Geyser := { regs := regs, fired := x.fired }
    if !y.en then s.modGeyser g fun _ => y
    else if y.refused then s
    else
      let s := s.modGeyser g fun _ => { y with fired := y.firedBy s.windows.ns }
      s.modWindows fun w => { w with streams := w.streams.mapVal fun _ z =>
        match z.opened with
        | some o => if o.geyser = g then z.clear o fun _ => true else z
        | none => z }

/-! ## Device time (R352, R353) -/

/-- A forward step of `DTIME`: it fires every tick it passes (R355). -/
def stepTime (s : State) (n : Nat) : State := (s.modWindows fun w => { w with dtime := w.dtime + n }).fireAll

/-- A message of IEEE 1588 gives the offset of the master from `DTIME`, in units of 2^-16 ns (R353). -/
def discipline (s : State) (offset : Int) : State :=
  if s.windows.ptpcfg.toNat % 4 = 0 then s
  else
    let s := s.modWindows fun w => { w with holdover := false }
    if offset < -(10 * dtimeSecond : Nat) then
      (s.modWindows fun w => { w with backstep := true }).postEvent 0 4 0 (offset.natAbs / 2 ^ 16)
    else if (10 ^ 6 * 2 ^ 16 : Nat) < offset then
      (s.modWindows fun w => { w with backstep := false, slew := 0 }).stepTime offset.toNat
    else s.modWindows fun w => { w with backstep := false, locked := true, slew := offset }

/-- `PTPCFG` (R377). -/
def writePtpcfg (s : State) (f : Nat) (value : Word64) : State :=
  if f ≠ 0 ∨ bitsOf value.toNat 7 6 = 3 then s
  else s.modWindows fun w =>
    let w := { w with ptpcfg := value.setWidth 16 }
    let w := if w.locked then { w with locked := false, slew := 0 } else w
    if value.toNat % 4 = 0 then { w with holdover := true } else w

/-- The time that a layout of R352 gives, in units of 2^-16 ns. -/
def timeOf (v : Nat) : Nat := bitsOf v 95 48 * dtimeSecond + bitsOf v 47 0

/-- The high write of a host setting (R372): it only moves `DTIME` forward. -/
def setTime (s : State) (f : Nat) (value : Word64) : State :=
  let v := s.windows.dtimeLow.toNat + value.toNat % 2 ^ 32 * 2 ^ 64
  let t := timeOf v
  if f ≠ 0 ∨ 999999999 < bitsOf v 47 16 ∨ t ≤ s.windows.dtime then s else s.stepTime (t - s.windows.dtime)

/-! ## Streams (R357) -/

/-- The pages of a sink area, translated once, at the open; or why not: a page that is absent, not pinned or not the function's, or a
walk that has to wait. -/
def sinkPages (f q asid : Nat) : Nat → State → Nat → State × Except WalkFail (List (Nat × Bool))
  | 0, s, _ => (s, .ok [])
  | n + 1, s, va =>
    match s.entryFor .sink f q 0 asid va with
    | (s, .error e) => (s, .error e)
    | (s, .ok e) =>
      let b := e.translate va / blockBytes
      if !e.pin || !s.tenantOk f b b then (s, .error .refused)
      else match sinkPages f q asid n s (va + 4096) with
        | (s, .error e) => (s, .error e)
        | (s, .ok t) => (s, .ok ((e.translate va, e.bl) :: t))

/-- The stream that a descriptor describes. -/
def streamOf (f v : Nat) : OpenStream :=
  { func := f, sink := bitsOf v 115 64, asid := bitsOf v 63 55, ports := bitsOf v 54 53, slotlog := bitsOf v 25 22,
    ahead := bitsOf v 21 16, w := bitsOf v 12 6, geyser := bitsOf v 5 0, pages := [] }

/-- Whether a descriptor breaks R357; a sink area that runs past the address space has pages that are absent. -/
def badStream (s : State) (f v : Nat) : Bool :=
  let o := streamOf f v
  decide (bitsOf v 511 116 ≠ 0 ∨ bitsOf v 52 26 ≠ 0 ∨ bitsOf v 15 13 ≠ 0 ∨ o.ports = 0 ∨ o.slotlog < 6 ∨ 12 < o.slotlog ∨
    o.w = 0 ∨ 64 < o.w ∨ o.w ≤ o.ahead ∨ o.sink % 4096 ≠ 0 ∨ 2 ^ 52 < o.sink + o.w * 2 ^ o.slotlog ∨ (s.windows.geyser o.geyser).func ≠ f)

def noteOpen (s : State) (f : Nat) (refused : Bool) : State := s.modFunc f fun x => { x with streamRefused := refused }

/-- Open a stream (R357, R372). A write whose walk has to wait is taken up again. -/
def openStream (s : State) (f : Nat) (value : Word64) : State :=
  let n := bitsOf value.toNat 59 52
  let a := bitsOf value.toNat 51 6 * 64
  if ((s.windows.streams.getD n {}).opened.isSome || !s.ownsBlocks f (a / blockBytes) (a / blockBytes) || s.isPoisoned a) then
    s.noteOpen f true
  else
    let v := natOfBytes (s.readMem a 64)
    let o := streamOf f v
    if s.badStream f v then s.noteOpen f true
    else match sinkPages f (s.hubQuad f) o.asid ((o.w * 2 ^ o.slotlog + 4095) / 4096) s o.sink with
      | (s, .error .held) => { s with inputs := .reopen f value :: s.inputs }
      | (s, .error _) => s.noteOpen f true
      | (s, .ok pages) =>
        (s.modStream n fun x => { opened := some { o with pages := pages }, func := f, openings := x.openings + 1 }).noteOpen f false

/-- Close a stream: its tokens are dropped and its number is free. The ticks that are due fire before it (R355, R356). -/
def closeStream (s : State) (f : Nat) (value : Word64) : State :=
  let s := s.fireAll
  let n := bitsOf value.toNat 59 52
  match (s.windows.streams.getD n {}).opened with
  | none => s.noteOpen f true
  | some o =>
    if o.func ≠ f then s.noteOpen f true
    else
      let s := s.modStream n fun x => { x with opened := none }
      (s.modWindows fun w => { w with held := w.held.filter fun h => decide (h.stream ≠ n) }).noteOpen f false

/-! ## Ingress (R359, R360) -/

def countDrop (s : State) (port : Nat) : State :=
  s.modWindows fun w => { w with drops := w.drops.put port (bump (w.drops.getD port 0)) }

def countStream (s : State) (n : Nat) (f : StreamCount → StreamCount) : State :=
  s.modStream n fun x => { x with counts := f x.counts }

/-- The most significant byte first. -/
def bigEndian (b : List Byte) : Nat := b.foldl (fun n x => 256 * n + x.toNat) 0

/-- The physical address of a byte of a sink area, and the layout of its page. -/
def sinkAt (o : OpenStream) (off : Nat) : Nat × Bool :=
  let x := o.pages.getD (off / 4096) (0, false)
  (x.1 + off % 4096, x.2)

/-- Write a payload block by block, each with its end-to-end check (R360). -/
def writePayload (o : OpenStream) : Nat → State → Nat → List Byte → List Bool → State
  | 0, s, _, _, _ => s
  | fuel + 1, s, off, b, ok =>
    if b.isEmpty then s
    else
      let x := sinkAt o off
      let (s, pa) := s.placed x.2 x.1
      let s := s.enterBlock pa (b.take 64) (ok.headD true)
      writePayload o fuel s (off + 64) (b.drop 64) (ok.drop 1)

/-- Place a token of an open stream (R360); of a geyser whose PERIOD is zero the tick is an open value. -/
def placeToken (s : State) (t : HeldToken) : State :=
  let n := t.stream
  match (s.windows.streams.getD n {}).opened with
  | none => s
  | some o =>
    let g := s.windows.geyser o.geyser
    let expired (s : State) : State := s.countStream n fun c => { c with expired := bump c.expired }
    if t.time < g.start * 2 ^ 16 then expired s
    else
      let (s, k) := if g.period = 0 then ({ s with choices := s.choices + 1 }, Config.pick s.choices)
        else (s, (t.time - g.start * 2 ^ 16) / (g.period * 2 ^ 16))
      match s.windows.tick o k with
      | .early => s.countStream n fun c => { c with early := bump c.early }
      | .expired => expired s
      | .slot x =>
        if x.state ≠ .empty ∨ x.taken then s.countStream n fun c => { c with dup := bump c.dup }
        else if x.copying.isSome then s.modWindows fun w => { w with held := w.held ++ [t] }
        else
          let i := k % o.w
          let blocks := (t.payload.length + 63) / 64
          let late := decide (k < g.fired)
          let bad := (t.intact.take blocks).any fun b => !b
          let s := writePayload o (blocks + 1) s (i * 2 ^ o.slotlog) t.payload t.intact
          let y : WinSlot := { state := if late then .late else .present, len := t.payload.length, p := bad }
          s.modStream n fun z =>
            { z with
              opened := z.opened.map fun o => { o with slots := o.slots.put i y }
              counts := { z.counts with arrived := bump z.counts.arrived, late := if late then bump z.counts.late else z.counts.late } }

/-- Whether a request has been applied in the present nanosecond, so that no arrival is (R356). -/
def arrivalsOver (s : State) : Bool :=
  match s.windows.lastRequest with
  | some x => decide (x.1 = s.windows.ns)
  | none => false

/-- A datagram reaches a function's media port on an Ethernet port (R359). -/
def datagramArrives (s : State) (port f : Nat) (d : List Byte) (intact : List Bool) : State :=
  if s.arrivalsOver then s
  else
    let s := s.fireAll
    let n := bigEndian ((d.drop 1).take 1)
    let len := bigEndian ((d.drop 2).take 2)
    let pt := bigEndian ((d.drop 4).take 12)
    if d.length < 16 then s.countDrop port
    else match (s.windows.streams.getD n {}).opened with
      | none => s.countDrop port
      | some o =>
        if o.func ≠ f ∨ o.ports.testBit port = false then s.countDrop port
        else if d.headD 0 ≠ 1 ∨ len ≠ d.length - 16 ∨ 2 ^ o.slotlog < len ∨ 999999999 < bitsOf pt 47 16 then
          s.countStream n fun c => { c with bad := bump c.bad }
        else s.placeToken { stream := n, time := timeOf pt, payload := d.drop 16, intact := intact }

/-! ## Requests (R356, R364 to R366) -/

/-- Whether the window unit may apply a request now: no firing is due, and no request has been applied in the same nanosecond that
this one goes before in the order of R213. -/
def requestReady (s : State) (x : Access) : Bool :=
  let age (p issued tid : Nat) : Nat × Nat × Nat := (messageAge (s.part p).cycle issued, tid, 1)
  decide (x.stage = .home) && !s.windows.firingDue &&
    (match s.windows.lastRequest with
     | some (ns, p, c, t) => !(decide (ns = s.windows.ns) && goesBefore (age x.part x.issuedAt x.tid) (age p c t))
     | none => true)

/-- The masks that `winq` answers (R365). -/
def windowMasks (w : Windows) (o : OpenStream) (k0 : Nat) : Word64 × Word64 :=
  (List.range 64).foldl (fun (m : Word64 × Word64) i =>
    match w.tick o (k0 + i) with
    | .slot x =>
      if x.taken then m
      else match x.state with
        | .present => (m.1 ||| BitVec.ofNat 64 (2 ^ i), m.2)
        | .late => (m.1, m.2 ||| BitVec.ofNat 64 (2 ^ i))
        | .empty => m
    | _ => m) (0, 0)

/-- The bytes that a `wintake` copies, and whether a line is poisoned, which is copied as zeros (R366, R399). -/
def tokenBytes (o : OpenStream) : Nat → State → Nat → Nat → State × List Byte × Bool
  | 0, s, _, _ => (s, [], false)
  | fuel + 1, s, off, n =>
    if n = 0 then (s, [], false)
    else
      let k := min n 64
      let x := sinkAt o off
      let (s, pa) := s.placed x.2 x.1
      let bad := s.isPoisoned pa
      let (s, t, more) := tokenBytes o fuel s (off + 64) (n - k)
      (s, (if bad then List.replicate k 0 else s.readMem pa k) ++ t, bad || more)

/-- The open stream that a request names, while it is the one that the issue found (R365, R366). -/
def requestStream (s : State) (x : Access) (n : Nat) : Option OpenStream :=
  let y := s.windows.streams.getD n {}
  if y.openings = x.opening then y.opened.filter fun o => decide (o.func = x.part) else none

/-- The step of a `wintake` at the window unit (R366). -/
def takeToken (s : State) (id : Nat) (x : Access) (d : Reg) (a b : Word64) : State :=
  let n := a.toNat % 256
  let k := a.toNat / 2 ^ 16
  let refuse (s : State) (st : Nat) : State := s.answerWindow id x (.data (bytesOfNat 8 (st * 2 ^ 60)))
  match s.requestStream x n with
  | none => refuse s 6
  | some o =>
    match s.windows.tick o k with
    | .expired => refuse s 3
    | .early => refuse s 4
    | .slot y =>
      if y.taken then refuse s 5
      else if y.state = .empty then refuse s 2
      else
        let i := k % o.w
        let (s, bytes, bad) := tokenBytes o 65 s (i * 2 ^ o.slotlog) y.len
        let st := if y.state = .late then 1 else 0
        let v := BitVec.ofNat 64 (st * 2 ^ 60 + (if y.p || bad then 2 ^ 59 else 0) + y.len)
        let s := s.modStream n fun z =>
          { z with opened := z.opened.map fun o => { o with slots := o.slots.put i { y with taken := true, copying := some id } } }
        s.setAccess id { x with kind := .take d (b.toNat % 2 ^ 16) v bytes }

/-- The window unit applies a request. -/
def applyRequest (s : State) (id : Nat) : State :=
  match s.accesses.find? id with
  | none => s
  | some x =>
    match x.kind with
    | .window op d a b =>
      if !s.requestReady x then s
      else
        let s := s.modWindows fun w => { w with lastRequest := some (w.ns, x.part, x.issuedAt, x.tid) }
        if op = 0 then
          let g := s.windows.geyser a.toNat
          if !g.en then s.answerTick id x 2 g.current48
          else if b.toInt < (g.fired : Int) then s.answerTick id x 1 g.current48
          else s.setAccess id { x with stage := .watch (s.part x.part).cycle }
        else if op = 1 then
          match s.requestStream x (a.toNat % 256) with
          | some o =>
            let m := windowMasks s.windows o (a.toNat / 2 ^ 16)
            s.answerWindow id x (.status m.1 m.2)
          | none => s.answerWindow id x (.status 0 0)
        else s.takeToken id x d a b
    | _ => s

/-- The tokens that wait in the hub for the end of a copy are placed, in the order in which they came: after the firings that are due,
and not in a nanosecond in which a request has been applied (R356, R366). -/
def placeHeld (s : State) : State :=
  if s.windows.held.isEmpty || s.arrivalsOver then s
  else
    let s := s.fireAll
    s.windows.held.foldl (fun s t => s.placeToken t) (s.modWindows fun w => { w with held := [] })

/-- A `wintake` copy ends (R366): its bytes stand in the scratchpad, the answer goes, and a token that waited for the slot may be
placed. -/
def endTake (s : State) (id : Nat) : State :=
  match s.accesses.find? id with
  | none => s
  | some x =>
    match x.kind, x.stage with
    | .take _ addr v bytes, .home =>
      let s := (List.range ((bytes.length + 63) / 64)).foldl (fun s i =>
        s.spadStoreLine x.part (coreOf x.tid) (ctxOf x.tid) (addr + 64 * i) ((bytes.drop (64 * i)).take 64) (BitVec.ofNat 50 x.pc)) s
      let s := s.answerWindow id x (.data (bytesOfNat 8 v.toNat))
      (s.modWindows fun w => { w with streams := w.streams.mapVal fun _ z =>
        { z with opened := z.opened.map fun o =>
            { o with slots := o.slots.mapVal fun _ y => if y.copying = some id then { y with copying := none } else y } } }).placeHeld
    | _, _ => s

/-! ## The instructions (R363 to R367) -/

/-- Send a request of the thread at hand to the window unit, of an opening of a stream; its answer holds the thread's later
accesses. The interfaces do not count it (R205; log 27). -/
def requestWindow (s : State) (op : Nat) (d : Reg) (a b : Word64) (opening : Nat) : State :=
  let id := s.nextAccess
  let x : Access :=
    { part := s.cur.part, issuer := s.issuer, tid := s.curTid, order := (id, 0), gen := s.ctx.gen, kind := .window op d a b,
      src := s.quadNo, dst := s.quadNo, bound := id, stage := .home, issuedAt := s.now, entered := s.now, pc := s.ctx.pc.toNat,
      uid := s.ctx.uid, opening := opening }
  (({ s with nextAccess := id + 1 } : State).setAccess id x).modCtx fun c => { c with acquiring := NSet.add c.acquiring id }

/-- The register after a register. -/
def nextReg (d : Reg) : Reg := Fin.ofNat 16 (d.val + 1)

/-- `timrd` (R363): the caldera's copy, which is never behind what the thread has read elsewhere. -/
def timrdBody (s : State) (d : Reg) : Step := do
  s.free d
  s.free (nextReg d)
  let k := calderaOf s.quadNo
  let (t, time) := s.readDtime k s.ctx.lastTime
  let t := t.modCtx fun c => { c with lastTime := time }
  let t := t.recordDet t.cur.part 6 t.ctx.pc
  pure (((t.write d (BitVec.ofNat 64 (time / dtimeSecond % 2 ^ 48))).write (nextReg d)
    (BitVec.ofNat 64 (time % dtimeSecond))).advance 4)

/-- `tickw` (R364). The comparison of its tick is signed (R4): a negative tick has fired. No geyser has a negative number (log 135). -/
def tickwBody (s : State) (d a b : Reg) : Step := do
  s.ready [a, b]
  s.free d
  let ga := s.val a
  let gb := s.val b
  if 63 < ga.toNat ∨ (s.windows.geyser ga.toNat).func ≠ s.cur.part then throw (.trap causeOperand ga)
  if 2 ^ 48 ≤ gb.toInt then throw (.trap causeOperand gb)
  pure (((((s.consume [a, b])).writePending d).requestWindow 0 d ga gb 0).advance 4)

/-- The stream that G[A] names, open for the issuer's function, with the number of its opening (R365). -/
def streamOperand (s : State) (a : Word64) : Except Stop (OpenStream × Nat) :=
  let x := s.windows.streams.getD (a.toNat % 256) {}
  match x.opened with
  | some o => if bitsOf a.toNat 15 8 ≠ 0 ∨ o.func ≠ s.cur.part then .error (.trap causeOperand a) else .ok (o, x.openings)
  | none => .error (.trap causeOperand a)

def winqBody (s : State) (d a : Reg) : Step := do
  s.ready [a]
  s.free d
  s.free (nextReg d)
  s.acquired
  let o ← s.streamOperand (s.val a)
  let t := s.recordDet s.cur.part 7 s.ctx.pc
  pure (((((t.consume [a]).writePending d).writePending (nextReg d)).requestWindow 1 d (s.val a) 0 o.2).advance 4)

def wintakeBody (s : State) (d a b : Reg) : Step := do
  s.ready [a, b]
  s.free d
  s.acquired
  let o ← s.streamOperand (s.val a)
  let gb := s.val b
  if 65536 < gb.toNat + 2 ^ o.1.slotlog then throw (.trap causeOperand gb)
  if gb.toNat % 64 ≠ 0 then throw (.trap causeAlign gb)
  let t := s.recordDet s.cur.part 7 s.ctx.pc
  pure ((((t.consume [a, b]).writePending d).requestWindow 2 d (s.val a) gb o.2).advance 4)

end State

def execTimrd (d : Reg) (s : State) : Out := .next (s.settle (s.timrdBody d))
def execTickw (d a b : Reg) (s : State) : Out := .next (s.settle (s.tickwBody d a b))
def execWinq (d a : Reg) (s : State) : Out := .next (s.settle (s.winqBody d a))
def execWintake (d a b : Reg) (s : State) : Out := .next (s.settle (s.wintakeBody d a b))
def execWindowRequest (id : Nat) (s : State) : Out := .next (s.applyRequest id)
def execWintakeCopyDone (id : Nat) (s : State) : Out := .next (s.endTake id)
def execGeyserTick (g : Nat) (s : State) : Out := .next (s.fireGeyser g)
/-- A write that sets EN. -/
def execGeyserEnable (f g : Nat) (value : Word64) (s : State) : Out := .next (s.writeGeyser f g 0 (value ||| 32))
/-- A write that clears EN. -/
def execGeyserDisable (f g : Nat) (value : Word64) (s : State) : Out := .next (s.writeGeyser f g 0 (value &&& ~~~ 32))
def execGeyserFieldWrite (f g k : Nat) (value : Word64) (s : State) : Out := .next (s.writeGeyser f g k value)
def execTokenArrival (port f : Nat) (datagram : List Byte) (intact : List Bool) (s : State) : Out :=
  .next (s.datagramArrives port f datagram intact)
/-- R377: a frame that is neither an IEEE 1588 message nor a datagram to a media port. -/
def execFrameDrop (port : Nat) (s : State) : Out := .next (s.countDrop port)
def execPtpMessage (offset : Int) (s : State) : Out := .next (s.discipline offset)
/-- R353: with no master, `DTIME` runs free. -/
def execHoldover (s : State) : Out :=
  .next (s.modWindows fun w => { w with holdover := true, locked := false, slew := 0 })
def execPtpcfgWrite (f : Nat) (value : Word64) (s : State) : Out := .next (s.writePtpcfg f value)
def execDtimesetLow (f : Nat) (value : Word64) (s : State) : Out :=
  .next (if f = 0 then s.modWindows fun w => { w with dtimeLow := value } else s)
def execDtimesetHigh (f : Nat) (value : Word64) (s : State) : Out := .next (s.setTime f value)
/-- A write of STREAMOPEN (R372). -/
def execStreamOpen (f : Nat) (value : Word64) (s : State) : Out := .next (if s.bar0Responds f 0x28 then s.openStream f value else s)
def execStreamClose (f : Nat) (value : Word64) (s : State) : Out := .next (if s.bar0Responds f 0x28 then s.closeStream f value else s)

end Sys2Proof.Machine
end

