-- ==== Sys2Proof/Machine/Wake.lean ====
section
/-!
DEFINITION. When the event that a parked thread awaits has occurred, and its return to RUNNABLE (R108).
-/
namespace Sys2Proof.Machine
namespace State

/-- Whether the event that the thread at hand awaits has occurred. -/
def waitOver (s : State) (w : Wait) : Bool :=
  let p := s.cur.part
  let core := s.cur.core
  let tid := s.curTid
  let gen := s.ctx.gen
  match w with
  | .full r => (s.reg r).full || (s.reg r).poison.isSome
  | .settled r => !(s.reg r).pending
  | .vfull v => (s.vreg p core v).full
  | .vsettled v => (s.vreg p core v).settled
  | .byPark => s.ctx.wake
  | .access id => (s.accesses.find? id).isNone
  | .earlier sc => !s.pendingBefore p s.issuer core s.nextAccess sc
  | .quiet copies => !(s.accessPending p tid || s.mergePending p tid gen || (copies && (s.copyPending p tid gen || s.answerDue p tid gen)))
  | .halted n =>
    let c := s.context p core n
    decide (c.state = .halted) && !s.mergePending p (core * 16 + n) c.gen
  | .portRoom => decide (s.portUsed p core < 8)
  | .dispatchRoom => decide (s.curCore.dispatch.length < queueRoom)
  | .copyRoom => (freeKey s.curQuad.copies 32).isSome
  | .ventRoom => (freeKey s.curQuad.vents 16).isSome
  | .tourRoom => (freeKey s.curQuad.tours 32).isSome
  | .batches n => decide (s.ctx.committed.length ≤ n)
  | .slot t => let x := s.slotHere t; decide (x.state = .ready ∨ x.mark ≠ .none)
  | .slotReads t => !s.slotHeld p core t.val
  | .tourEnd seq => !(s.curPart.quads.any fun q => q.2.tours.any fun y => decide (y.2.seq = seq))
  | .kvMiss =>
    let h := s.curCore.shadow
    decide (h.missing ≠ some s.cur.ctx) && !(h.waiting.any fun m => decide (m.ctx = s.cur.ctx))
  | .bankSums => !s.sumsPending p tid
  | .writeBacks => !s.writeBacksPending p tid
  | .rcastFree => s.curCore.rcasting.isNone
  | .channelIdle r => match s.chan r with | some c => !c.busy | none => true
  | .reply => s.ctx.reply.isSome && !s.replyPending
  | .program l seq => let x := s.fum l; x.program.isNone || decide (x.seq.toNat ≠ seq)
  | .crossing => s.ownCrossing.isNone
  | .array => !s.vectorPending p tid gen
  | .walks => s.walks.all fun w => !decide (w.part = p ∧ w.tid = tid ∧ w.shadow = s.cur.shadow) || w.result.isSome

/-- A parked thread whose event has occurred becomes RUNNABLE; a thread that `park` parked takes its wake (R118). -/
def wakeThread (s : State) : State :=
  match s.ctx.state with
  | .parked w =>
    if s.waitOver w then
      s.modCtx fun c => { c with state := .runnable, wake := c.wake && !decide (w = .byPark) }
    else s
  | _ => s

/-- The threads of a partition's cores that stand in a context, and the shadow sets that run. -/
def threadsOf (P : Partition) : List (Nat × Bool) :=
  P.quads.flatMap fun q => q.2.cores.flatMap fun c =>
    let core := q.1 * 4 + c.1
    (c.2.ctxs.map fun x => (core * 16 + x.1, false)) ++
      (match c.2.shadow.missing with | some n => [(core * 16 + n, true)] | none => [])

/-- Every thread of a partition whose event has occurred becomes RUNNABLE. -/
def wakeAll (s : State) (p : Nat) : State :=
  (threadsOf (s.part p)).foldl (fun s t => s.asThread p t.1 t.2 wakeThread) s

end State
end Sys2Proof.Machine
end

