-- ==== Sys2Proof/Machine/Partition.lean ====
section
/-!
DEFINITION. Partitions in time (R18, R19, R119, R250, R390): pre-emption, quanta, freezing, scrubbing and resuming; and halts
of a whole core or of the module (R20, R108, R398).
-/
namespace Sys2Proof.Machine

/-- The quads of a shape. -/
def shapeQuads (shape : List (Nat × Nat)) : List Nat := shape.flatMap fun r => List.range' r.1 r.2

/-- Whether two shapes share a quad. -/
def shapesMeet (a b : List (Nat × Nat)) : Bool := a.any fun x => b.any fun y =>
  decide (0 < x.2 ∧ 0 < y.2 ∧ x.1 < y.1 + y.2 ∧ y.1 < x.1 + x.2)

/-- Whether a partition waits for its quads and no host request holds it back. -/
def Partition.waits (P : Partition) : Bool := P.waiting.isSome && !P.preempt

/-- Whether `P` comes before `O` among those that wait: by priority, then by how long they have waited (R250). -/
def Partition.precedes (P O : Partition) : Bool :=
  decide (O.prio < P.prio) || (decide (O.prio = P.prio) && decide (P.waiting.getD 0 < O.waiting.getD 0))

namespace State

/-- Whether another partition of at least a priority waits for some quad of a partition. -/
def contended (s : State) (p prio : Nat) : Bool :=
  s.parts.any fun x => decide (x.1 ≠ p ∧ prio ≤ x.2.prio) && x.2.waits && shapesMeet x.2.shape (s.part p).shape

/-- Whether a partition is to give up its quads to one that waits: of higher priority, or of any once it holds no live region
itself (R250). -/
def outranked (s : State) (p : Nat) : Bool :=
  let P := s.part p
  s.contended p (if P.regions.isEmpty then 0 else P.prio + 1)

/-- A request to pre-empt (R19, R250): of a waiting launch, or otherwise of the host, which holds the partition frozen. -/
def requestPreempt (s : State) (p : Nat) : State :=
  s.modPart p fun P =>
    { P with
      preempt := P.preempt || !s.outranked p
      run := if P.run = .live then .freezing else P.run }

/-- Whether a partition's quantum has passed since it last resumed; 1 µs is 2,250 cycles (R3). -/
def quantumOver (s : State) (p : Nat) : Bool :=
  let P := s.part p
  decide (P.run = .live ∧ 0 < P.quantum ∧ P.resumed + P.quantum * 2250 ≤ P.cycle)

/-- A quantum expires: the partition is pre-empted; with no partition waiting its quantum starts again, and with one of lower priority
it has passed for the next of its own that comes to wait (R250). -/
def expireQuantum (s : State) (p : Nat) : State :=
  if !s.quantumOver p then s
  else if s.contended p (s.part p).prio then s.modPart p fun P => { P with run := .freezing }
  else if s.contended p 0 then s
  else s.modPart p fun P => { P with resumed := P.cycle }

/-! ## What a freeze completes (R103, R119, R223, R250, R287, R306; log 42) -/

/-- Whether an access has a step that a freeze waits for: its messages are delivered, its home applies it, and its answer reaches its
issuer. A watch and a refused deposit are saved as they stand. -/
def accessMoves (s : State) (id : Nat) (x : Access) : Bool :=
  match x.stage with
  | .held => s.mayLaunch id x
  | .leg _ _ | .ansLeg _ _ => true
  | .home | .queued _ => s.unblocked id x
  | .answered => !s.portHolds id x
  | .watch _ | .refusedAt _ => false

/-- Whether a migrating thread has a step that a freeze waits for. One that its destination cannot take, and what stands behind it,
is saved where it is (R223). -/
def travellerMoves (s : State) (p k : Nat) (t : Traveller) : Bool :=
  if t.leg.isSome then !onLastLeg t || (s.firstOf p t.channel && !s.flitRefused p t)
  else decide ((s.core p t.target).arriving.head? = some k) && decide (s.takeArrival p t.target k t ≠ s)

/-- Whether a fill that has begun has a step left, short of the pager's answer (R119). -/
def fillMoves (s : State) (p core n : Nat) (c : Ctx) : Bool :=
  decide (c.state = .loading) && decide (s.loadedStep p core n ≠ s)

/-- Whether a walk of a partition has a step left: an entry to read, or its end. -/
def walkMoves (s : State) (p : Nat) (w : Walk) : Bool :=
  decide (w.part = p) && w.result.isNone && decide (s.walk w ≠ (s, .failed .held))

/-- Whether a part's split that has begun has a step left (R346). -/
def splitMoves (s : State) (p region part : Nat) (x : CellPart) : Bool :=
  decide (x.state = .splitting) && decide (s.splitStep p region part ≠ s)

/-- Whether a partition's quad has begun a step that a freeze completes. -/
def quadMoves (s : State) (p q : Nat) (Q : Quad) : Bool :=
  Q.locals.any (s.localDue p) || Q.results.any (s.vectorDue p) ||
    (match s.headStep p q with | some x => s.passUnderWay p x | none => false) || (Q.tours.any fun t => t.2.hop.isSome) ||
    Q.cores.any fun c => c.2.ctxs.any fun x => s.fillMoves p (q * 4 + c.1) x.1 x.2

/-- Whether the machine has begun a step of a partition that it can still complete. -/
def draining (s : State) (p : Nat) : Bool :=
  let P := s.part p
  s.accesses.any (fun x => decide (x.2.part = p) && s.accessMoves x.1 x.2) || P.travellers.any (fun t => s.travellerMoves p t.1 t.2) ||
    !P.arrivals.isEmpty || (!P.det && !P.changes.isEmpty) || P.quads.any (fun q => s.quadMoves p q.1 q.2) ||
    s.walks.any (s.walkMoves p) || (P.cellmaps.any fun m => m.2.parts.any fun x => s.splitMoves p m.1 x.1 x.2) ||
    P.regions.any fun r => s.foldReady p r.1

/-- A partition freezes (R103, R119): its cores have halted at an instruction boundary, and what has begun has been completed, with the
ticks that are due by then (R355, R364). Its quads stand still as they are; a circuit under way counts for no waiter (R207). Unless the
host holds it, it waits to resume. -/
def freezePartition (s : State) (p : Nat) : State :=
  let P := s.part p
  if P.run ≠ .freezing then s
  else
  let s := s.fireAll
  if s.draining p then s
  else
    let s := s.modPart p fun P =>
      { (List.range 8).foldl (fun P k => countWaiters k false P) P with
        run := .frozen, tokens := [], paused := false, rested := false, drainChoices := 0 }
    if P.regions.isEmpty || P.preempt then s else s.awaitQuads p

/-- Whether a waiting partition is the next for each of its quads, and none of them is held. -/
def mayTake (s : State) (p : Nat) : Bool :=
  let P := s.part p
  P.waits && !P.holdsQuads && s.parts.all fun x =>
    decide (x.1 = p) || !shapesMeet x.2.shape P.shape || (!x.2.holdsQuads && !(x.2.waits && x.2.precedes P))

/-- The sinter engine finishes with a quad that passes to the partition that waits for it (R18, R389): dirty lines of its
slice are written back, but for those of a deterministic partition (R16; log 150), and what a partition that never ran finds there is zero. A partition that is frozen, and holds no live
region, finds its own image there, as one that holds some does: the spec does not say which (log 100). -/
def scrubQuad (s : State) (q : Nat) : State :=
  match s.parts.first? fun p P => P.hasQuad q && s.mayTake p && decide (s.owner.getD q 0 ≠ p) with
  | none => s
  | some x =>
    let s := ({ s with owner := s.owner.put q x.1 } : State).cleanLines fun l => decide (homeOf (l * 64) = q) && !s.detLine l
    if x.2.run = .idle then s.setQuad x.1 q {} else s

/-- A waiting partition runs (R250, R390): every quad of it is its own. A parked thread whose event came while the partition was
frozen is RUNNABLE (R119). -/
def resumePartition (s : State) (p : Nat) : State :=
  let P := s.part p
  if !s.serves p ∨ !s.mayTake p ∨ (shapeQuads P.shape).any fun q => decide (s.owner.getD q 0 ≠ p) then s
  else
    let s := s.modPart p fun P => { P with run := .live, waiting := none, resumed := P.cycle }
    ((s.resumeTicks p).activateAll p).wakeAll p

/-! ## Shapes (R15; log 87) -/

/-- Whether runs of quads rise, do not meet, and lie inside the module. -/
def shapeOk : List (Nat × Nat) → Bool
  | [] => true
  | r :: t => decide (0 < r.2 ∧ r.1 + r.2 ≤ 8192) && (match t with | n :: _ => decide (r.1 + r.2 ≤ n.1) | [] => true) && shapeOk t

/-- A quad that its partition no longer holds: its contexts are FREE, and what was issued in them names no later thread (R46). -/
def vacated (Q : Quad) : Quad :=
  { cores := Q.cores.mapVal fun _ C => { ctxs := C.ctxs.mapVal fun _ c => { gen := c.gen + 1 } } }

/-- The driver names a partition's quads, while it holds none of them and no region is live: the spec gives every partition a set of
quads (R15) and no step that gives it. -/
def setShape (s : State) (p : Nat) (quads : List (Nat × Nat)) : State :=
  let P := s.part p
  if P.holdsQuads || P.waiting.isSome || !P.regions.isEmpty || quads.isEmpty || !shapeOk quads then s
  else s.modPart p fun P => { P with shape := quads, quads := P.quads.mapVal fun q Q => if quads.any fun r => decide (r.1 ≤ q ∧ q < r.1 + r.2) then Q else vacated Q }

/-! ## Machine errors (R108, R249, R398) -/

/-- A thread of a halted core that stands in no context is gone, and unbound (R108, R338): its entries and its crossing go. -/
def loseThread (s : State) (p uid : Nat) : State :=
  let es := (s.part p).quads.flatMap fun q => (q.2.cells.filter fun e => decide (e.uid = uid)).map fun e => (q.1, e)
  let s := es.foldl (fun s e => s.removeEntry p (e.1 * 4 + coreInQuad e.2.core) e.2 0) s
  s.modPart p fun P => { P with crossings := P.crossings.keep fun k _ => !es.any fun e => decide (e.2.crossing = some k) }

/-- A migrating thread that is gone leaves the network and the arrivals that wait at its destination. -/
def loseTraveller (s : State) (p k : Nat) (t : Traveller) : State :=
  let s := match t.leg with
    | some (n, _) => s.leaveLeg p t.src t.dst n
    | none => s.leaveNet p (quadOfCore t.target)
  let s := s.modCore p t.target fun C =>
    { C with
      arriving := C.arriving.filter fun x => decide (x ≠ k)
      spillRefused := C.spillRefused.filter fun x => decide (x.2 ≠ .inl k)
      ring := if C.arriving.head? = some k then { C.ring with stalled := C.ring.stalled.filter Prod.snd } else C.ring }
  (s.modPart p fun P => { P with
    travellers := P.travellers.del k
    crossings := match t.crossing with | some c => P.crossings.del c | none => P.crossings }).loseThread p t.ctx.uid

/-- The threads of a halted core that stand in no context (R108): MIGRATING, QUEUED and SPILLED. -/
def loseThreads (s : State) (p core : Nat) : State :=
  let C := s.core p core
  let unread := C.spillRefused.filterMap fun x => match x.2 with | .inl _ => none | .inr t => some t
  let gone := C.queue.map (fun t => t.ctx.uid) ++ C.ring.threads.map (fun x => x.uid) ++ unread.map fun t => t.ctx.uid
  let s := unread.foldl (fun s _ => s.leaveNet p (quadOfCore core)) s
  let s := s.modCore p core fun C =>
    { C with
      queue := [], ring := { C.ring with threads := [], stalled := none }
      spillRefused := C.spillRefused.filter fun x => x.2.isLeft }
  let s := (s.endReads p (.refill core)).endReads p (.spill core)
  let s := s.removeWalks fun w => decide (w.part = p ∧ coreOf w.tid = core ∧ w.engine = none)
  let s := gone.foldl (fun s u => s.loseThread p u) s
  ((s.part p).travellers.keep fun _ t => decide (coreOf t.origin = core)).foldl (fun s t => s.loseTraveller p t.1 t.2) s

/-- A core halts on a machine error: every thread of it is HALTED, in a context or lost with its queue. -/
def haltCore (s : State) (p core : Nat) : State :=
  let s := s.modCore p core fun C => { C with dead := true, shadow := { C.shadow with missing := none, state := .free, waiting := [] } }
  let s := s.loseThreads p core
  let s := (List.range' 1 15).foldl (fun s n => s.haltThread p core n .machine 0 0) s
  s.haltThread p core 0 .machine 0 0

/-- Every core of the partitions that hold their quads. -/
def runningCores (s : State) : List (Nat × Nat) :=
  s.parts.flatMap fun x => if x.2.holdsQuads then
    (shapeQuads x.2.shape).flatMap fun q => (List.range 4).map fun c => (x.1, q * 4 + c) else []

/-- A die reaches 115 °C: every core is halted, and the calderas are powered down (R398). -/
def haltModule (s : State) : State :=
  let s := s.runningCores.foldl (fun s c => s.haltCore c.1 c.2) s
  { s with power := { s.power with down := true } }

end State

/-- CTRL of a function does not respond in RECOVERY, but for the physical function's (R386). -/
def execPreemptRequest (p : Nat) (s : State) : Out := .next (if s.bar0Responds p 0x20 then s.requestPreempt p else s)
def execQuantumExpiry (p : Nat) (s : State) : Out := .next (s.expireQuantum p)
def execPartitionFreeze (p : Nat) (s : State) : Out := .next (s.freezePartition p)
def execPartitionResume (p : Nat) (s : State) : Out := .next (s.resumePartition p)
def execSinterScrub (q : Nat) (s : State) : Out := .next (s.scrubQuad q)
def execMachineError (p core : Nat) (s : State) : Out := .next (s.haltCore p core)
/-- R20, R398: pacing changes no result; what it does is done at the ends of cycles. -/
def execPowerPacing (s : State) : Out := .next { s with power := { s.power with pacing := true } }
def execThermalPacing (s : State) : Out := .next { s with power := { s.power with thermal := true } }
def execPacingEnd (s : State) : Out := .next { s with power := { s.power with pacing := false, thermal := false } }
def execThermalHalt (s : State) : Out := .next s.haltModule

end Sys2Proof.Machine
end

