-- ==== Sys2Proof/Machine/Image.lean ====
section
/-!
DEFINITION. A frozen partition as EXPORT saves it and IMPORT takes it (R119, R397): what stands beside it, and its commands and its
accesses under the destination's function and under numbers that the module has not given yet.
-/
namespace Sys2Proof.Machine

/-! ## Numbers of accesses, given anew: each grows by `n` -/

def Wait.renumber (n : Nat) : Wait → Wait
  | .access id => .access (id + n)
  | w => w

def ThreadState.renumber (n : Nat) : ThreadState → ThreadState
  | .parked w => .parked (w.renumber n)
  | t => t

def Ctx.renumber (n : Nat) (c : Ctx) : Ctx :=
  { c with state := c.state.renumber n, acquiring := c.acquiring.map (· + n), fill := c.fill.map fun f => { f with order := f.order + n } }

/-- A command of the array, as the function `p`'s. -/
def ArrayCmd.renumber (p n : Nat) : ArrayCmd → ArrayCmd
  | .step x => .step { x with part := p, bound := x.bound + n }
  | .cbld id r => .cbld (id + n) r
  | c => c

def Queued.renumber (p n : Nat) (q : Queued) : Queued := { q with access := q.access.map (· + n), cmd := q.cmd.renumber p n }

def Core.renumber (p n : Nat) (C : Core) : Core :=
  { C with
    ctxs := C.ctxs.mapVal fun _ c => c.renumber n
    shadow := { C.shadow with state := C.shadow.state.renumber n, acquiring := C.shadow.acquiring.map (· + n) }
    rcasting := C.rcasting.map (· + n)
    dispatch := C.dispatch.map (Queued.renumber p n) }

def Quad.renumber (p n : Nat) (Q : Quad) : Quad :=
  { Q with
    cores := Q.cores.mapVal fun _ C => C.renumber p n
    tours := Q.tours.mapVal fun _ t => { t with part := p, bound := t.bound + n }
    copies := Q.copies.mapVal fun _ c => { c with part := p, bound := c.bound + n }
    vents := Q.vents.mapVal fun _ x => { x with part := p, bound := x.bound + n, order := x.order + n }
    matrix := Q.matrix.map (Queued.renumber p n)
    results := Q.results.map fun x => { x with access := x.access.map (· + n) }
    locals := Q.locals.map fun x => { x with access := x.access.map (· + n) } }

/-- An access of a saved partition, as the function `p`'s. -/
def Access.renumber (p n : Nat) (x : Access) : Access :=
  { x with part := p, order := (x.order.1 + n, x.order.2), bound := x.bound + n }

/-- What a record holds, as the function `p`'s. -/
def Saved.renumber (p n : Nat) (x : Saved) : Saved :=
  { part := { x.part with quads := x.part.quads.mapVal fun _ Q => Q.renumber p n }
    accesses := x.accesses.map fun y => (y.1 + n, y.2.renumber p n)
    held := x.held.map fun y => (y.1, { y.2 with part := p, order := (y.2.order.1 + n, y.2.order.2) })
    walks := x.walks.map fun w => { w with part := p }
    faults := x.faults.map fun e => (e.1, { e.2 with part := p })
    faultWait := x.faultWait
    pendingFaults := x.pendingFaults
    registry := x.registry.map fun e => (e.1, { e.2 with part := p })
    programs := x.programs
    next := x.next + n
    seq := x.seq }

/-- Whether a walk is a fumarole's. -/
def Walk.ofFumarole (w : Walk) : Bool := w.engine.any Issuer.isFumarole

namespace State

/-- A frozen partition with what stands beside it: its watches, its refused deposits and whatever else of it is unanswered, its held
reductions, its failed walks, its faults, and its tiles in the registries. Its programs on links stay with their fumaroles, and the record
names them. -/
def savePartition (s : State) (p : Nat) : Saved :=
  let P := s.part p
  let per {α : Type} (f : Caldera → List α) : List (Nat × α) := s.calderas.flatMap fun c => (f c.2).map fun e => (c.1, e)
  { part := { P with fetched := P.fetched.filter fun f => !f.issuer.isFumarole }
    accesses := s.accesses.keep fun _ x => decide (x.part = p) && !x.issuer.isFumarole
    held := s.homes.flatMap fun h => (h.2.held.filter fun x => decide (x.part = p)).map fun x => (h.1, x)
    walks := s.walks.filter fun w => decide (w.part = p) && !w.ofFumarole
    faults := per fun c => c.faults.filter fun e => decide (e.part = p)
    faultWait := per fun c => (c.faultWait.filter fun e => decide (e.1 = p)).map Prod.snd
    pendingFaults := (s.func p).pendingFaults
    registry := per fun c => c.registry.filter fun e => decide (e.part = p)
    programs := s.fumaroles.filterMap fun f => f.2.program.bind fun g =>
      if g.part = p ∧ g.orphan = false then some (f.1, f.2.seq.toNat, g) else none
    next := s.nextAccess
    seq := s.nextSeq }

/-- A partition is gone from beside its function, but for what its programs on links still do. -/
def dropPartition (s : State) (p : Nat) : State :=
  let kept (i : Issuer) (q : Nat) : Bool := decide (q ≠ p) || i.isFumarole
  ({ s with
    accesses := s.accesses.keep fun _ y => kept y.issuer y.part
    walks := s.walks.filter fun w => decide (w.part ≠ p) || w.ofFumarole
    homes := s.homes.mapVal fun _ h => { h with held := h.held.filter fun y => decide (y.part ≠ p) }
    calderas := s.calderas.mapVal fun _ c =>
      { c with
        faults := c.faults.filter fun e => decide (e.part ≠ p)
        faultWait := c.faultWait.filter fun e => decide (e.1 ≠ p)
        registry := c.registry.filter fun e => decide (e.part ≠ p) }
    fumaroles := s.fumaroles.mapVal fun _ x =>
      { x with program := x.program.map fun g => if g.part = p then { g with orphan := true } else g } } : State).modFunc p
    fun x => { x with pendingFaults := [] }

/-- A program that the record of a partition names is that partition's again, or has ended since EXPORT, and its flags are merged into the
saved image (R46). One of a partition of another function is not. -/
def rejoin (s : State) (p : Nat) (y : Nat × Nat × FumProgram) : State :=
  let f := s.fum y.1
  if y.2.2.part ≠ p then s
  else if f.seq.toNat = y.2.1 ∧ f.program.any (fun g => decide (g.part = p ∧ g.uid = y.2.2.uid)) then
    s.modFum y.1 fun f => { f with program := f.program.map fun g => { g with orphan := false } }
  else s.mergeInto y.2.2 (f.endedFlags.getD y.2.1 0)

/-- A function is given a saved partition, frozen as it was, in place of what it had (log 12). The flags of the programs that the one
before it runs on links reach no context any more, as every context of it is gone, but for those that the record names (R46). -/
def restorePartition (s : State) (p : Nat) (x : Saved) : State :=
  let x := x.renumber p s.nextAccess
  let fum := (s.part p).fetched.filter fun f => f.issuer.isFumarole
  let s := s.dropPartition p
  let s : State := { s with
    nextAccess := x.next
    nextSeq := max s.nextSeq x.seq
    accesses := x.accesses.foldl (fun m y => SMap.put m y.1 y.2) s.accesses
    walks := s.walks ++ x.walks }
  let s := x.held.foldl (fun s y => s.modHome y.1 fun h => { h with held := h.held ++ [y.2] }) s
  let s := x.faults.foldl (fun s y => s.modCaldera y.1 fun c => { c with faults := c.faults ++ [y.2] }) s
  let s := x.faultWait.foldl (fun s y => s.modCaldera y.1 fun c => { c with faultWait := c.faultWait ++ [(p, y.2)] }) s
  let s := x.registry.foldl (fun s y => s.modCaldera y.1 fun c => { c with registry := c.registry ++ [y.2] }) s
  let s := s.modFunc p fun y => { y with pendingFaults := x.pendingFaults }
  x.programs.foldl (fun s y => s.rejoin p y)
    (s.setPart p { x.part with run := .frozen, waiting := none, preempt := false, fetched := fum ++ x.part.fetched })

end State
end Sys2Proof.Machine
end

