-- ==== Sys2Proof/Machine/Host.lean ====
section
/-!
DEFINITION. The host interface (R371 to R376, R388, R391, R394, R397): the BAR2 window, the registers of BAR0, virtual
functions, dirty tracking, quotes, and the export and import of a frozen partition.
-/
namespace Sys2Proof.Machine

/-- A partition read from the body of a record that another module wrote (R397; log 12). -/
opaque importPartition : List Byte → Option Saved

namespace State

/-! ## BAR2 (R371) -/

/-- The physical address of an offset in a function's BAR2. -/
def bar2Addr (s : State) (f offset : Nat) : Nat := if f = 0 then offset else (s.func f).pblo.toNat * blockBytes + offset

/-- Whether a function's BAR2 reaches a physical address; in RECOVERY it does not respond (R386). -/
def bar2Reaches (s : State) (f pa : Nat) : Bool :=
  decide (s.firmware.state ≠ .recovery) && s.ownsBlocks f (pa / blockBytes) (pa / blockBytes)

/-- Write a range line by line; a line whose end-to-end check fails is poisoned, and the driver is told (R161, R393). -/
def hostStore (f : Nat) (intact : Bool) : Nat → State → Nat → List Byte → State
  | 0, s, _, _ => s
  | fuel + 1, s, pa, b =>
    if b.isEmpty then s
    else
      let n := 64 - pa % 64
      let s := if s.bar2Reaches f pa then s.enterBlock pa (b.take n) intact else s
      hostStore f intact fuel s (pa + n) (b.drop n)

/-- The lines of a range are checked as the host reads them (R393). -/
def checkRead (f : Nat) : Nat → State → Nat → Nat → State
  | 0, s, _, _ => s
  | fuel + 1, s, pa, n =>
    if n = 0 then s
    else
      let k := min n (64 - pa % 64)
      checkRead f fuel (if s.bar2Reaches f pa then s.leaveBlock pa else s) (pa + k) (n - k)

/-- The bytes of a range as the host reads them: all ones where the window does not reach; none where a line is poisoned. -/
def hostLoad (s : State) (f : Nat) : Nat → Nat → Nat → Option (List Byte)
  | 0, _, _ => some []
  | fuel + 1, pa, n =>
    if n = 0 then some []
    else
      let k := min n (64 - pa % 64)
      let b? := if !s.bar2Reaches f pa then some (List.replicate k (255 : Byte))
        else if s.isPoisoned pa then none else some (s.readMem pa k)
      match b?, s.hostLoad f fuel (pa + k) (n - k) with
      | some b, some t => some (b ++ t)
      | _, _ => none

/-! ## Virtual functions (R375, R376, R391) -/

/-- Whether two functions' block or ASID ranges overlap. -/
def Func.overlaps (a b : Func) : Bool :=
  decide (a.pblo.toNat ≤ b.pbhi.toNat ∧ b.pblo.toNat ≤ a.pbhi.toNat) || decide (a.aslo.toNat ≤ b.ashi.toNat ∧ b.aslo.toNat ≤ a.ashi.toNat)

/-- A VFCTL write is discarded. -/
def vfError (s : State) (v : Nat) : State := s.modFunc v fun x => { x with err := true }

/-- Enable a function with the ranges it now has: its blocks are zeroed before its launch word is served (R391). After a
failed boot only the physical function is enabled (R386). -/
def enableVf (s : State) (v : Nat) (x : Func) : State :=
  if s.firmware.state = .failed ∨ s.funcs.any (fun y => decide (y.1 ≠ v ∧ y.1 ≠ 0) && y.2.en && State.Func.overlaps x y.2) then s.vfError v
  else s.modFunc v fun _ => { x with en := true, err := false, scrubbing := true }

/-- Set or clear TRACK (R376): a set starts the rounds anew. -/
def trackVf (s : State) (v : Nat) (on : Bool) : State :=
  s.modFunc v fun x =>
    if on && !x.track then { x with track := true, round := 0, marks := [], err := false } else { x with track := on, err := false }

/-- A write of word `k` of VFCTL by the physical function (R375); one that is not discarded clears ERR. A write of ROUND, which only
counts, is discarded (log 70). -/
def writeVfctl (s : State) (v k : Nat) (value : Word64) : State :=
  let x := s.func v
  let w := value.toNat
  if v = 0 ∨ 31 < v ∨ s.bar0Responds 0 0x200 = false then s
  else if k = 0 then
    let lo := BitVec.ofNat 23 (bitsOf w 22 0)
    let hi := BitVec.ofNat 23 (bitsOf w 54 32)
    if x.en then
      if !value.getLsbD 63 then s.modFunc v fun x => { x with en := false, err := false, scrubbing := false }
      else if lo ≠ x.pblo ∨ hi ≠ x.pbhi then s.vfError v
      else s.modFunc v fun x => { x with err := false }
    else
      let y := { x with pblo := lo, pbhi := hi }
      if value.getLsbD 63 then s.enableVf v y else s.modFunc v fun _ => { y with err := false }
  else if k = 1 then
    if x.en then s.vfError v
    else s.modFunc v fun x => { x with aslo := BitVec.ofNat 9 (bitsOf w 8 0), ashi := BitVec.ofNat 9 (bitsOf w 24 16), err := false }
  else if k = 2 then
    (s.modFunc v fun x =>
      { x with dirty := BitVec.ofNat 52 (bitsOf w 51 6 * 64), snap := x.snap || value.getLsbD 62, err := false }).trackVf v (value.getLsbD 63)
  else if k = 3 then s.vfError v else s

/-- A function's blocks are zeroed (R391). -/
def zeroVf (s : State) (v : Nat) : State :=
  let x := s.func v
  if !x.scrubbing then s
  else
    let own (pa : Nat) : Bool := decide (x.pblo.toNat ≤ pa / blockBytes ∧ pa / blockBytes ≤ x.pbhi.toNat)
    let s := { s with
      mem := s.mem.filter fun c => !own c.1
      poison := s.poison.filter fun l => !own (l * 64)
      bank := s.bank.keep fun l _ => !own (l * 64)
      checks := s.checks.keep fun l _ => !own (l * 64)
      stale := s.stale.keep fun a _ => !own a
      layouts := s.layouts.keep fun b _ => !own (b * blockBytes) }
    s.modFunc v fun x => { x with scrubbing := false }

/-- OR a block's bit into the bitmap at a physical address. -/
def markBit (s : State) (at_ i : Nat) : State :=
  let b := Memory.read s.mem (at_ + i / 8)
  s.hubWrite (at_ + i / 8) [b ||| BitVec.ofNat 8 (2 ^ (i % 8))]

/-- A snapshot (R376): the marked blocks go into the bitmap, and the set starts anew. -/
def snapshotVf (s : State) (v : Nat) : State :=
  let x := s.func v
  if !x.snap then s
  else
    let s := x.marks.foldl (fun s b => s.markBit x.dirty.toNat (b - x.pblo.toNat)) s
    s.modFunc v fun x => { x with marks := [], round := x.round + 1, snap := false }

/-! ## BAR0 (R372) -/

/-- Whether a ring register's value names a ring inside its function's blocks, or no ring. -/
def ringOk (s : State) (f : Nat) (value : Word64) : Bool :=
  match ringOf value with
  | none => true
  | some (base, n) => s.ownsBlocks f (base / blockBytes) ((base + 63 + 16 * 2 ^ n) / blockBytes)

/-- The address space of a function's RAF file `a`, when the function has it. -/
def rafAsid (s : State) (f a : Nat) : Option Nat :=
  if f = 0 then
    if s.funcs.any fun y => decide (y.1 ≠ 0) && y.2.en && decide (y.2.aslo.toNat ≤ a ∧ a ≤ y.2.ashi.toNat) then none else some a
  else
    let x := s.func f
    if x.en && decide (x.aslo.toNat + a ≤ x.ashi.toNat) then some (x.aslo.toNat + a) else none

/-- A write of CTRL: DEBUG, and the host's request to pre-empt, which it withdraws by writing 0. -/
def writeCtrl (s : State) (f : Nat) (value : Word64) : State :=
  let s := s.modFunc f fun x => { x with debug := value.getLsbD 0 }
  let s := s.modPart f fun P => { P with preempt := value.getLsbD 1 }
  if (s.part f).run = .frozen ∧ !value.getLsbD 1 ∧ !(s.part f).regions.isEmpty then s.awaitQuads f else s

/-- A write of a register that has no step of its own. -/
def writeRegister (s : State) (f offset : Nat) (value : Word64) : State :=
  if !s.bar0Responds f offset then s
  else if offset = 0x08 then
    if s.ringOk f value then drainFaults 64 (s.modFunc f fun x => { x with faultq := value }) f else s
  else if offset = 0x10 then if s.ringOk f value then s.modFunc f fun x => { x with ansq := value } else s
  else if offset = 0x18 then if s.ringOk f value then s.modFunc f fun x => { x with eventq := value } else s
  else if offset = 0x20 then s.writeCtrl f value
  else if 0x10000 ≤ offset ∧ offset < 0x20000 then
    match s.rafAsid f ((offset - 0x10000) / 128) with
    | some a => { s with raf := s.raf.put (a * 16 + offset % 128 / 8) value }
    | none => s
  else s

/-- The states of the hub in the order of R386's table. -/
def bootIndex : BootState → Nat
  | .reset => 0 | .verify => 1 | .start => 2 | .run => 3 | .recovery => 4 | .failed => 5 | .verifyStaged => 1

/-- What a read of a register of BAR0 gives; it changes nothing. (The launch word's read has a step of its own.) -/
def readRegister (s : State) (f offset : Nat) : Word64 :=
  let x := s.func f
  let P := s.part f
  let w := s.windows
  let bit (b : Bool) (n : Nat) : Nat := if b then 2 ^ n else 0
  let pf (v : Nat) : Word64 := if f = 0 then BitVec.ofNat 64 v else 0
  if !s.bar0Responds f offset then 0
  else if offset = 0x08 then x.faultq
  else if offset = 0x10 then x.ansq
  else if offset = 0x18 then x.eventq
  else if offset = 0x20 then BitVec.ofNat 64 (bit x.debug 0 + bit P.preempt 1 + bit (decide (P.run = .frozen)) 8)
  else if offset = 0x28 then BitVec.ofNat 64 (bit x.streamRefused 0)
  else if offset = 0x30 then BitVec.ofNat 64 (s.firmware.hops1 + 256 * s.firmware.hops2)
  else if offset = 0x38 then BitVec.ofNat 64 (49152 + f)
  else if offset = 0x50 then pf w.ptpcfg.toNat
  else if offset = 0x58 then pf (bit w.holdover 0 + bit w.locked 1 + bit w.backstep 2)
  else if offset = 0x60 then pf (Config.bootCode (bootIndex s.firmware.state) % 8 + bit s.firmware.stagedBad 10 + s.firmware.buffer)
  else if offset = 0x68 then BitVec.ofNat 64 (bit x.quoteDone 0)
  else if 0x200 ≤ offset ∧ offset < 0x600 then
    let y := s.func ((offset - 0x200) / 32)
    let k := offset % 32 / 8
    if k = 0 then pf (y.pblo.toNat + 2 ^ 32 * y.pbhi.toNat + bit y.err 62 + bit y.en 63)
    else if k = 1 then pf (y.aslo.toNat + 2 ^ 16 * y.ashi.toNat)
    else if k = 2 then pf (y.dirty.toNat + bit y.snap 62 + bit y.track 63)
    else pf y.round.toNat
  else if 0x600 ≤ offset ∧ offset < 0x680 then
    let y := s.fum ((offset - 0x600) / 16)
    if offset % 16 = 0 then pf (y.owner.toNat + bit y.en 7 + 2 ^ 8 * y.rank.toNat + 2 ^ 24 * y.nrank.toNat)
    else pf (2 ^ 32 * LinkCode y.state + 2 ^ 48 * y.replays.toNat)
  else if 0x700 ≤ offset ∧ offset < 0x780 then
    let y := (s.caldera ((offset - 0x700) / 16)).softErr
    pf (y.reruns.toNat + 2 ^ 16 * y.uncorrectable.toNat + 2 ^ 32 * y.corrected.toNat)
  else if 0x1000 ≤ offset ∧ offset < 0x3000 then
    let y := w.streams.getD ((offset - 0x1000) / 32) {}
    let k := offset % 32 / 8
    let c := y.counts
    if y.func ≠ f then 0
    else if k = 0 then BitVec.ofNat 64 (c.arrived.toNat + 2 ^ 32 * c.late.toNat)
    else if k = 1 then BitVec.ofNat 64 (c.early.toNat + 2 ^ 32 * c.expired.toNat)
    else if k = 2 then BitVec.ofNat 64 (c.dup.toNat + 2 ^ 32 * c.bad.toNat)
    else 0
  else if 0x3000 ≤ offset ∧ offset < 0x3100 then
    let r := P.dcrecs.getD ((offset - 0x3000) / 16) {}
    if offset % 16 = 0 then BitVec.ofNat 64 (r.pc.toNat + 2 ^ 56 * r.code.toNat) else BitVec.ofNat 64 r.count.toNat
  else if 0x4000 ≤ offset ∧ offset < 0x4800 then
    BitVec.ofNat 64 ((w.geyser ((offset - 0x4000) / 32)).regs.toNat / 2 ^ (64 * (offset % 32 / 8)))
  else if 0x10000 ≤ offset ∧ offset < 0x20000 then
    match s.rafAsid f ((offset - 0x10000) / 128) with
    | some a => s.raf.getD (a * 16 + offset % 128 / 8) 0
    | none => 0
  else 0

/-! ## Export and import (R397) -/

/-- Write a record's bytes to the physical function's buffer, as far as its blocks go. -/
def storeRecord : Nat → State → Nat → List Byte → State
  | 0, s, _, _ => s
  | fuel + 1, s, pa, b =>
    if b.isEmpty then s
    else
      let n := 64 - pa % 64
      storeRecord fuel (if s.bar2Reaches 0 pa then s.storeLine pa (b.take n) else s) (pa + n) (b.drop n)

def writeRecord (s : State) (at_ : Nat) (bytes : List Byte) : State := storeRecord (bytes.length + 1) s at_ bytes

/-- EXPORT: a frozen function's partition goes into a record under its digest. -/
def exportPartition (s : State) (f : Nat) (value : Word64) : State :=
  let v := value.toNat % 32
  if f ≠ 0 then s
  else if (s.part v).run ≠ .frozen then s.vfError v
  else
    let body := Config.exportBody s.choices
    let bytes := bytesOfNat 48 (Config.sha384 body).toNat ++ body
    let s := { s with choices := s.choices + 1, exports := (bytes, s.savePartition v) :: s.exports }
    s.writeRecord (bitsOf value.toNat 63 12 * 4096) bytes

/-- The partition that the record at an address holds: one that this module has written there, or one of another module. -/
def recordAt (s : State) (at_ : Nat) : Option Saved :=
  match s.exports.find? fun x => decide (s.readMem at_ x.1.length = x.1) with
  | some x => some x.2
  | none =>
    let body := s.readMem (at_ + 48) (Config.importSize (s.readMem at_ 64))
    if natOfBytes (s.readMem at_ 48) = (Config.sha384 body).toNat then importPartition body else none

/-- IMPORT: a record whose digest holds and whose shape is the destination's becomes the destination's frozen partition, which
resumes as after R119. -/
def importRecord (s : State) (f : Nat) (value : Word64) : State :=
  let v := value.toNat % 32
  if f ≠ 0 then s
  else match s.recordAt (bitsOf value.toNat 63 12 * 4096) with
    | none => s.vfError v
    | some x =>
      if x.part.shape ≠ (s.part v).shape ∨ (s.part v).holdsQuads then s.vfError v
      else (s.restorePartition v x).awaitQuads v

/-! ## Quotes (R388) -/

/-- A write of QUOTE; while a quote is being made another is discarded. -/
def askQuote (s : State) (f : Nat) (value : Word64) : State :=
  let v := value.toNat
  if s.bar0Responds f 0x68 = false ∨ (s.func f).quote.isSome ∨ v % 64 ≠ 0 ∨ !s.ownsBlocks f (v / blockBytes) ((v + 64 + 20479) / blockBytes) then s
  else s.modFunc f fun x => { x with quote := some v, quoteDone := false }

/-- The fields of a function's VFCTL (R375). -/
def vfFields (x : Func) : List Nat :=
  let bit (b : Bool) : Nat := if b then 1 else 0
  [x.pblo.toNat, x.pbhi.toNat, bit x.err, bit x.en, x.aslo.toNat, x.ashi.toNat, x.dirty.toNat, bit x.snap, bit x.track, x.round.toNat]

/-- The DIGEST and the SVN of the image that runs. -/
def imageInFlash (s : State) : List Byte := s.firmware.flash.getD Config.flashImage

/-- The quote is written, and then QUOTE[0] is set. -/
def giveQuote (s : State) (f : Nat) : State :=
  match (s.func f).quote with
  | none => s
  | some v =>
    let img := s.imageInFlash
    let digest := BitVec.ofNat 384 (natOfBytes ((img.drop 64).take 48))
    let svn := natOfBytes ((img.drop 16).take 8)
    let b := (List.range 20480).map (Config.quoteByte digest svn (Config.serial :: vfFields (s.func f)) (s.readMem v 64))
    (s.hubWrite (v + 64) b).modFunc f fun x => { x with quote := none, quoteDone := true }

/-- A write of 0 to SOFTERR (R394). -/
def clearSoftErr (s : State) (f k : Nat) : State :=
  if f ≠ 0 ∨ s.bar0Responds 0 0x700 = false then s else s.modCaldera k fun c => { c with softErr := { recent := c.softErr.recent } }

end State

def execHostBar2Write (f offset : Nat) (bytes : List Byte) (intact : Bool) (s : State) : Out :=
  .next (State.hostStore f intact (bytes.length + 1) s (s.bar2Addr f offset) bytes)
def execHostBar2Read (f offset n : Nat) (s : State) : Out :=
  let t := State.checkRead f (n + 1) s (s.bar2Addr f offset) n
  .next { t with hostValue := t.hostLoad f (n + 1) (t.bar2Addr f offset) n }
/-- EN goes from 0 to 1. -/
def execVfEnable (v : Nat) (s : State) : Out :=
  .next (if v = 0 ∨ 31 < v ∨ (s.func v).en ∨ s.bar0Responds 0 0x200 = false then s else s.enableVf v (s.func v))
def execVfScrubDone (v : Nat) (s : State) : Out := .next (s.zeroVf v)
def execVfTrack (v : Nat) (on : Bool) (s : State) : Out := .next (if v = 0 ∨ 31 < v ∨ s.bar0Responds 0 0x200 = false then s else s.trackVf v on)
def execVfSnapshot (v : Nat) (s : State) : Out := .next (s.snapshotVf v)
def execVfctlWrite (v k : Nat) (value : Word64) (s : State) : Out := .next (s.writeVfctl v k value)
def execRegisterWrite (f offset : Nat) (value : Word64) (s : State) : Out := .next (s.writeRegister f offset value)
def execExportState (f : Nat) (value : Word64) (s : State) : Out := .next (s.exportPartition f value)
def execImportState (f : Nat) (value : Word64) (s : State) : Out := .next (s.importRecord f value)
def execQuoteRequest (f : Nat) (value : Word64) (s : State) : Out := .next (s.askQuote f value)
def execQuoteDone (f : Nat) (s : State) : Out := .next (s.giveQuote f)
def execSofterrClear (f caldera : Nat) (s : State) : Out := .next (s.clearSoftErr f caldera)

end Sys2Proof.Machine
end

