-- ==== Sys2Proof/Machine/Boot.lean ====
section
/-!
DEFINITION. Boot and trust (R384 to R386, R391): the hub's states, the verification of an image, and the start.
-/
namespace Sys2Proof.Machine

namespace State

/-! ## The image (R384, R385) -/

/-- Bytes `lo` to `hi` of an image. -/
def imageField (img : List Byte) (lo hi : Nat) : List Byte := (img.drop lo).take (hi + 1 - lo)

/-- The header's length and security version, 64 bits each after the magic. -/
def imageLength (img : List Byte) : Nat := natOfBytes (imageField img 8 15)
def imageSvn (img : List Byte) : Nat := natOfBytes (imageField img 16 23)

/-- Bytes ahead of the body. -/
def bodyStart : Nat := 17168

/-- The body, to the end that the header gives. -/
def imageBody (img : List Byte) : List Byte := (img.drop bodyStart).take (imageLength img - bodyStart)

/-- The fused minimum of the security version. -/
def svnMin (s : State) : Nat := max Config.fusedSvn s.firmware.svnRaised

/-- Whether the hub accepts an image (R385): both keys, both signatures, the digest and the security version. -/
def imageOk (s : State) (img : List Byte) : Bool :=
  let signed := imageField img 0 111
  let rsaKey := imageField img 112 511
  let slhKey := imageField img 896 943
  Config.sha384 rsaKey == Config.rsaDigest && Config.sha384 slhKey == Config.slhDigest &&
    Config.rsaVerify rsaKey signed (imageField img 512 895) && Config.slhVerify slhKey signed (imageField img 944 17167) &&
    decide (natOfBytes (imageField img 64 111) = (Config.sha384 (imageBody img)).toNat ∧ s.svnMin ≤ imageSvn img)

/-- An accepted image raises the fused minimum to its security version. -/
def acceptImage (s : State) (img : List Byte) (next : BootState) : State :=
  { s with firmware := { s.firmware with svnRaised := max s.firmware.svnRaised (imageSvn img), state := next } }

/-! ## The hub's states (R386) -/

/-- A reset of the hub: everything but flash and fuses is as at power-on, and the flash image is verified. What the model gives out anew,
also to what an EXPORT record of before holds, goes on (R397; log 12). -/
def resetHub (s : State) : State :=
  { State.reset with
    firmware := { flash := s.firmware.flash, svnRaised := s.firmware.svnRaised, state := .verify }
    inputs := s.inputs, exports := s.exports, clock := s.clock, choices := s.choices, nextSeq := s.nextSeq }

/-- Verification ends: of the image in flash, or of the staged one, which goes to flash when it is accepted. -/
def endVerify (s : State) : State :=
  match s.firmware.state with
  | .verify =>
    if s.imageOk s.imageInFlash then s.acceptImage s.imageInFlash .start
    else { s with firmware := { s.firmware with state := .recovery } }
  | .verifyStaged =>
    let img := s.firmware.staged
    if s.imageOk img then
      let s := s.acceptImage img .reset
      { s with firmware := { s.firmware with flash := some img, staged := [], stagedBad := false } }
    else { s with firmware := { s.firmware with state := .recovery, stagedBad := true } }
  | _ => s

/-- In RECOVERY the host stages an image (R386): the buffer's address, and with bit 9 the image that it holds. -/
def stageImage (s : State) (f : Nat) (value : Word64) (image : List Byte) : State :=
  if f ≠ 0 ∨ s.firmware.state ≠ .recovery then s
  else if !value.getLsbD 9 then { s with firmware := { s.firmware with buffer := bitsOf value.toNat 63 12 * 4096 } }
  else { s with firmware := { s.firmware with buffer := bitsOf value.toNat 63 12 * 4096, staged := image, state := .verifyStaged } }

/-- START ends (R386, R391): memory is zero and every quad is scrubbed, firmware has written the scope table with values that
the spec leaves to it within R92's limits, and the hub runs, or a caldera has failed its test. -/
def endStart (s : State) (failed : List Nat) : State :=
  if s.firmware.state ≠ .start then s
  else
    let s := { s with mem := [], poison := [], bank := [], layouts := [], checks := [], stale := [] }
    if !failed.isEmpty then
      { s with
        firmware := { s.firmware with state := .failed }
        funcs := s.funcs.mapVal fun f x => if f = 0 then x else { x with en := false, scrubbing := false } }
    else
      let (s, h2) := s.choose 63
      let (s, h1) := s.choose (h2 + 1)
      { s with firmware := { s.firmware with state := .run, hops1 := h1, hops2 := h2 } }

end State

def execPowerOn (s : State) : Out := .next s.resetHub
/-- A write of 1 to FWCTL[8] by the physical function. -/
def execFwReset (f : Nat) (s : State) : Out := .next (if f = 0 then s.resetHub else s)
def execFwStage (f : Nat) (value : Word64) (image : List Byte) (s : State) : Out := .next (s.stageImage f value image)
def execFwVerifyDone (s : State) : Out := .next s.endVerify
def execBootStartDone (failed : List Nat) (s : State) : Out := .next (s.endStart failed)

end Sys2Proof.Machine
end

