-- ==== Sys2Proof/Machine/Channel.lean ====
section
/-!
DEFINITION. Register-mapped channels (R225 to R229): `chmap`, `chunmap` and `chstat`. The shadow set has no channels (R105).
-/
namespace Sys2Proof.Machine

namespace State

/-- `chmap` (R225): the checks and the map. -/
def mapChannel (s : State) (d a : Reg) (dir : ChanDir) (word : Word64) : Step := do
  s.ownContext word
  s.ready [a]
  let v := (s.val a).toNat
  if (s.chan d).isSome then trapN causeOperand d.val
  if 2 ^ 23 ≤ v ∨ !s.curPart.hasCore (coreOf (v % 2 ^ 19)) then throw (.trap causeOperand (s.val a))
  if dir = .inn ∧ (s.reg d).pending then throw (.park s (.settled d))
  let s := (s.consume [a]).modCtx fun c => { c with chans := c.chans.put d.val { dir := dir, peer := v } }
  let s := match dir with
    | .inn => s.setReg d { val := s.val d, full := false, armed := true, poison := none }
    | .out => s
  pure (s.advance 4)

/-- `chunmap` (R227). That it does not wait for a result pending in an input channel's register, which R106 would have it do as a write,
and that the result overwrites the register when it comes, is the model's choice (log 126). -/
def unmapChannel (s : State) (d : Reg) (word : Word64) : Step := do
  s.ownContext word
  let unmap (s : State) : State := s.modCtx fun c => { c with chans := c.chans.del d.val }
  match s.chan d with
  | none => pure (s.advance 4)
  | some c =>
    match c.dir with
    | .out =>
      if c.busy then throw (.park s (.channelIdle d))
      else pure (((unmap s).setReg d { val := s.val d, full := true, armed := false, poison := none }).advance 4)
    | .inn =>
      let g := s.reg d
      let g := if g.full then { g with armed := false } else { val := 0, full := true, armed := false, poison := none }
      pure (((unmap s).setReg d g).advance 4)

/-- The status of a channel (R228). -/
def channelStatus (s : State) (r : Reg) : Word64 :=
  match s.chan r with
  | none => 0
  | some c =>
    let out := decide (c.dir = .out)
    BitVec.ofNat 64 (2 ^ 63 + (if out then 2 ^ 62 else 0) + (if (if out then c.busy else (s.reg r).full) then 2 ^ 61 else 0) +
      (if out then c.retry else 0) * 2 ^ 32 + c.peer)

/-- `chstat` (R228). -/
def channelQuery (s : State) (d a : Reg) : Step := do
  s.ready [a]
  s.free d
  let v := s.val a
  if v ≠ allOnes ∧ 16 ≤ v.toNat then throw (.trap causeOperand v)
  let w := if v = allOnes then s.curCore.deadDeposits.setWidth 64 else s.channelStatus (Fin.ofNat 16 v.toNat)
  pure (((s.consume [a]).write d w).advance 4)

end State

def execChmapOut (d a : Reg) (s : State) : Out := .next (s.settle (s.mapChannel d a .out (firstWord (.chmapOut d a))))
def execChmapIn (d a : Reg) (s : State) : Out := .next (s.settle (s.mapChannel d a .inn (firstWord (.chmapIn d a))))
def execChunmap (d : Reg) (s : State) : Out := .next (s.settle (s.unmapChannel d (firstWord (.chunmap d))))
def execChstat (d a : Reg) (s : State) : Out := .next (s.settle (s.channelQuery d a))

end Sys2Proof.Machine
end

