-- ==== Sys2Proof/Machine/Control.lean ====
section
/-!
DEFINITION. The control instructions (R133 to R137).
-/
namespace Sys2Proof.Machine

namespace State

/-- The target of a branch (R133): the offset counts words from the branch's own first word, modulo 2^52. -/
def target {n : Nat} (s : State) (off : BitVec n) : BitVec 50 := s.ctx.pc + off.signExtend 50

/-- Branch on a condition over registers that are read. -/
def branch {n : Nat} (s : State) (srcs : List Reg) (taken : Bool) (off : BitVec n) : Step := do
  s.ready srcs
  let t := s.consume srcs
  pure (if taken then t.jump (s.target off) else t.advance 4)

/-- The return address of a one-word instruction; that of the last word of the address space is 2^52, as R133 gives no modulus for it
(log 107). -/
def returnAddress (s : State) : Word64 := (s.ctx.pc.setWidth 64 + 1) <<< 2

/-- A jump through a register, with a register for the return address if there is one (R136). -/
def jumpReg (s : State) (a : Reg) (d : Option Reg) : Step := do
  s.ready [a]
  match d with
  | some d => s.free d
  | none => pure ()
  let t := s.val a
  if t.toNat % 4 ≠ 0 then throw (.trap causeAlign t)
  if 2 ^ 52 ≤ t.toNat then throw (.trap causeSegment t)
  let ret := s.returnAddress
  let s := s.consume [a]
  let s := match d with | some d => s.write d ret | none => s
  pure (s.jump (BitVec.ofNat 50 (t.toNat / 4)))

end State

def execBr (off : BitVec 23) (s : State) : Out := .next (s.settle (s.branch [] true off))
/-- R136: the return address goes to g15. -/
def execCall (off : BitVec 23) (s : State) : Out :=
  .next (s.settle (do
    s.free 15
    pure ((s.write 15 s.returnAddress).jump (s.target off))))
def execBeq (a b : Reg) (off : BitVec 11) (s : State) : Out :=
  .next (s.settle (s.branch [a, b] (decide (s.val a = s.val b)) off))
def execBne (a b : Reg) (off : BitVec 11) (s : State) : Out :=
  .next (s.settle (s.branch [a, b] (decide (s.val a ≠ s.val b)) off))
def execBlt (a b : Reg) (off : BitVec 11) (s : State) : Out :=
  .next (s.settle (s.branch [a, b] ((s.val a).slt (s.val b)) off))
def execBge (a b : Reg) (off : BitVec 11) (s : State) : Out :=
  .next (s.settle (s.branch [a, b] (!(s.val a).slt (s.val b)) off))
def execBltu (a b : Reg) (off : BitVec 11) (s : State) : Out :=
  .next (s.settle (s.branch [a, b] ((s.val a).ult (s.val b)) off))
def execBgeu (a b : Reg) (off : BitVec 11) (s : State) : Out :=
  .next (s.settle (s.branch [a, b] (!(s.val a).ult (s.val b)) off))
def execBz (a : Reg) (off : BitVec 15) (s : State) : Out := .next (s.settle (s.branch [a] (decide (s.val a = 0)) off))
def execBnz (a : Reg) (off : BitVec 15) (s : State) : Out := .next (s.settle (s.branch [a] (decide (s.val a ≠ 0)) off))
def execJr (a : Reg) (s : State) : Out := .next (s.settle (s.jumpReg a none))
def execJalr (d a : Reg) (s : State) : Out := .next (s.settle (s.jumpReg a (some d)))
/-- R137: the counter never wraps below 0, and the branch is taken while it is not 0. -/
def execLoop (a : Reg) (off : BitVec 15) (s : State) : Out :=
  .next (s.settle (do
    s.ready [a]
    s.free a
    let n := if s.val a = 0 then 0 else s.val a - 1
    let t := (s.consume [a]).write a n
    pure (if n ≠ 0 then t.jump (s.target off) else t.advance 4)))

end Sys2Proof.Machine
end

