-- ==== Sys2Proof/Machine/Copy.lean ====
section
/-!
DEFINITION. Copies (R180 to R184): `cpy`, `cpy2`, and the steps of the copy engine. A piece is the bytes of one row within one
destination line.
-/
namespace Sys2Proof.Machine

/-! ## Pieces -/

namespace State

/-- Whether two ranges of bytes meet. -/
def rangesMeet (a n b m : Nat) : Bool := decide (a < b + m ∧ b < a + n)

end State

/-- Virtual addresses of a row's source and destination. -/
def CopyCmd.dstRow (c : CopyCmd) (i : Nat) : Nat := (c.dseg.base.toNat + c.doff + i * c.dpitch) % 2 ^ 52

/-- Destination lines of a row. -/
def CopyCmd.rowLines (c : CopyCmd) (i : Nat) : Nat :=
  if c.width = 0 then 0 else (c.dstRow i + c.width - 1) / 64 + 1 - c.dstRow i / 64

/-- Row and line of a piece. -/
def CopyCmd.pieceAt (c : CopyCmd) (k : Nat) : Nat × Nat := (k / (c.width / 64 + 2), k % (c.width / 64 + 2))

/-- Whether a number names a piece. -/
def CopyCmd.isPiece (c : CopyCmd) (k : Nat) : Bool :=
  let (i, j) := c.pieceAt k
  decide (i < c.rows ∧ j < c.rowLines i)

/-- Where a piece starts in its row, and its length. -/
def CopyCmd.pieceSpan (c : CopyCmd) (k : Nat) : Nat × Nat :=
  let (i, j) := c.pieceAt k
  let a := c.dstRow i
  let lo := max a ((a / 64 + j) * 64)
  let hi := min (a + c.width) ((a / 64 + j + 1) * 64)
  (lo - a, hi - lo)

/-- How many pieces a command has. -/
def CopyCmd.pieceCount (c : CopyCmd) : Nat := (List.range c.rows).foldl (fun n i => n + c.rowLines i) 0

namespace State

def modCopy (s : State) (p q k : Nat) (f : CopyCmd → CopyCmd) : State :=
  s.modQuad p q fun Q => { Q with copies := match Q.copies.find? k with | some c => Q.copies.put k (f c) | none => Q.copies }

/-- A copy command ends, with or without an error (R183); the queue entry frees. -/
def endCopy (s : State) (p q k : Nat) (c : CopyCmd) (error : Option Nat) : State :=
  ((s.endReads p (.copy q k)).modQuad p q fun Q => { Q with copies := Q.copies.del k }).completeMember p c.tid c.gen c.member 0
    (error.map fun va => { kind := 4, detail := va })

/-- A copy command stalls on a page (R155). -/
def stallCopy (s : State) (p q k : Nat) (c : CopyCmd) (acc kind va : Nat) : State :=
  (s.enterFault p (calderaOf q) { kind := kind, acc := acc, thread := c.tid, asid := c.asid, va := va }).modCopy p q k
    fun c => { c with stalled := some va }

/-- How a copy reads the source of a piece. -/
def copyReader (p q k piece : Nat) (c : CopyCmd) : Reader :=
  { issuer := .copy q k, part := p, quad := q, tid := c.tid, tag := piece, asid := c.asid }

/-- Move one piece: its source is read at its homes, and once that has come the piece is written into its destination line. A
destination page that is refused, or has a POISON leaf, ends the command as a refused source does (log 96). -/
def movePiece (s : State) (p q k piece : Nat) (c : CopyCmd) : State :=
  let (i, _) := c.pieceAt piece
  let (o, n) := c.pieceSpan piece
  match s.engineRead (copyReader p q k piece c) c.sseg (c.soff + i * c.spitch + o : Nat) n with
  | (s, .held) => s
  | (s, .fault kind va) => s.stallCopy p q k c 4 kind va
  | (s, .refused va) => s.endCopy p q k c (some va)
  | (t, .bytes b po) =>
    let va := (c.dstRow i + o) % 2 ^ 52
    let moved (s : State) : State :=
      (s.useFetched p (.copy q k) piece).modCopy p q k fun c => { c with moved := NSet.add c.moved piece }
    if c.dseg.isK && t.bankTaken p (coreOf c.tid) va b.length then s
    else if c.dseg.isK then moved (t.engineSpad p c.tid va b po.isSome c.pc)
    else
      match s.translateNow (.copy q k) p q c.tid c.asid va with
      | (s, .error .held) => s
      | (s, .error (.fault kind)) => s.stallCopy p q k c 5 kind va
      | (s, .error _) => s.endCopy p q k c (some va)
      | (_, .ok _) =>
        match t.translateNow (.copy q k) p q c.tid c.asid va with
        | (t, .ok x) => moved (t.engineWrite (.copy q k) p q c.tid c.uid c.asid c.pc x va b po.isSome !c.h.rel)
        | (t, .error _) => t

/-- A step of the copy engine: a piece, or the completion (R98, R183). -/
def copyStep (s : State) (p q k : Nat) (piece : Option Nat) : State :=
  match (s.quad p q).copies.find? k with
  | none => s
  | some c =>
    if !s.live p || c.stalled.isSome || !s.acquireDone p c.tid c.bound c.shadow c.h then s
    else
      match piece with
      | some m => if c.isPiece m && !c.moved.contains m then s.movePiece p q k m c else s
      | none =>
        if c.moved.length = c.pieceCount && s.releaseDone p c.tid (.copy q k) c.h then s.endCopy p q k c none else s

/-! ## The instructions -/

/-- A source range that a read-once region has toured (R181). -/
def reread (s : State) (lo n : Nat) : Bool :=
  match s.region? with
  | some r => r.ronce && (s.firstToured s.cur.part s.ctx.handle.toNat (calderaOf s.quadNo) lo (lo + n)).isSome
  | none => false

/-- A copy of rows (R181, R182). `trapFirst` is the value of the operand trap that comes before the segment checks. ACQ in its header
orders the engine (R98) and holds none of the thread's later accesses (R94; log 119). -/
def copyBody (s : State) (len : Nat) (h : Header) (d a b : Reg) (dseg sseg : Seg) (srcs : List Reg) (trapFirst : Option Word64)
    (rows width sp dp : Nat) : Step := do
  s.ready ([a, b] ++ srcs)
  s.free d
  s.acquired
  let some k := freeKey s.curQuad.copies 32 | throw (.park s .copyRoom)
  if let some v := trapFirst then throw (.trap causeOperand v)
  let sg := s.seg sseg
  let dg := s.seg dseg
  let so := sOff (s.val b)
  let dof := sOff (s.val a)
  let last := rows - 1
  if 0 < width then
    let s0 ← sg.check so width rightR
    let _ ← sg.check (so + last * sp) width rightR
    let d0 ← dg.check dof width rightW
    let _ ← dg.check (dof + last * dp) width rightW
    if sg.isK = dg.isK && rangesMeet s0 (last * sp + width) d0 (last * dp + width) then throw (.trap causeOperand (s.val a))
    if !sg.isK && (List.range rows).any fun i => s.reread (s0 + i * sp) width then
      return ((s.consume ([a, b] ++ srcs)).write d 1).advance len
  let (t, id) ← s.joinBatch
  let c : CopyCmd :=
    { part := s.cur.part, tid := s.curTid, gen := s.ctx.gen, shadow := s.cur.shadow, uid := s.ctx.uid, pc := s.ctx.pc, asid := s.asid, h := h,
      bound := s.nextAccess,
      member := id, sseg := sg, dseg := dg, soff := so.toNat, doff := dof.toNat, rows := if width = 0 then 0 else rows,
      width := width, spitch := sp, dpitch := dp }
  pure ((((t.consume ([a, b] ++ srcs)).write d 0).modCurQuad fun Q => { Q with copies := Q.copies.put k c }).advance len)

/-- `cpy` of `n` bytes (R181). -/
def cpyBody (s : State) (len : Nat) (h : Header) (d a b : Reg) (dseg sseg : Seg) (srcs : List Reg) (n : Word64) : Step :=
  s.copyBody len h d a b dseg sseg srcs (if 2 ^ 40 ≤ n.toNat then some n else none) 1 n.toNat 0 0

/-- `cpy2` (R182): the pitches stand in one word. -/
def cpy2Body (s : State) (len : Nat) (h : Header) (d a b : Reg) (dseg sseg : Seg) (srcs : List Reg) (pitch : Word64)
    (rowsM1 : BitVec 16) (rowBytes : BitVec 24) : Step :=
  let sp := bitsOf pitch.toNat 31 0
  let dp := bitsOf pitch.toNat 63 32
  s.copyBody len h d a b dseg sseg srcs (if 0 < rowsM1.toNat ∧ dp < rowBytes.toNat then some pitch else none)
    (rowsM1.toNat + 1) rowBytes.toNat sp dp

end State

def execCpy (h : Header) (d a b : Reg) (dseg sseg : Seg) (c : Reg) (s : State) : Out :=
  .next (s.settle (s.cpyBody 12 h d a b dseg sseg [c] (s.val c)))
def execCpyLit (h : Header) (d a b : Reg) (dseg sseg : Seg) (lit : Word64) (s : State) : Out :=
  .next (s.settle (s.cpyBody 20 h d a b dseg sseg [] lit))
def execCpy2 (h : Header) (d a b : Reg) (dseg sseg : Seg) (c : Reg) (rowsM1 : BitVec 16) (rowBytes : BitVec 24) (s : State) : Out :=
  .next (s.settle (s.cpy2Body 12 h d a b dseg sseg [c] (s.val c) rowsM1 rowBytes))
def execCpy2Lit (h : Header) (d a b : Reg) (dseg sseg : Seg) (lit : Word64) (rowsM1 : BitVec 16) (rowBytes : BitVec 24)
    (s : State) : Out :=
  .next (s.settle (s.cpy2Body 20 h d a b dseg sseg [] lit rowsM1 rowBytes))
def execCopyComplete (p q slot : Nat) (piece : Option Nat) (s : State) : Out := .next (s.copyStep p q slot piece)

end Sys2Proof.Machine
end

