-- ==== Sys2Proof/Machine/Integer.lean ====
section
/-!
DEFINITION. The integer instructions (R120 to R132): register, literal and immediate forms over one table of values
(R124 to R130), each with a meaning of its own.
-/
namespace Sys2Proof.Machine

/-! ## Operands at a width (R121) -/

/-- The low bits of a register or literal that the width takes. -/
def lowOf (w : Width) (v : Word64) : Nat := v.toNat % 2 ^ w.bits

/-- What `write` stores: the result modulo 2^wid, sign-extended. -/
def extendTo (w : Width) (v : Nat) : Word64 :=
  match w with
  | .w32 => (BitVec.ofNat 32 v).signExtend 64
  | .w64 => BitVec.ofNat 64 v

/-- A sign-extended immediate at a width (R42). -/
def immSigned {n : Nat} (w : Width) (imm : BitVec n) : Nat := wrapTo w.bits imm.toInt

/-! ## Values (R124 to R130): a width in bits and operands below 2^width -/

/-- Bit `i` moved to bit `n - 1 - i`, over the low `n` bits. -/
def reverseBits : Nat → Nat → Nat
  | 0, _ => 0
  | n + 1, a => a % 2 * 2 ^ n + reverseBits n (a / 2)

/-- One bits among the low `n`. -/
def countOnes : Nat → Nat → Nat
  | 0, _ => 0
  | n + 1, a => a % 2 + countOnes n (a / 2)

/-- Trailing zero bits among the low `n`. -/
def trailingZeros : Nat → Nat → Nat
  | 0, _ => 0
  | n + 1, a => if a % 2 = 1 then 0 else trailingZeros n (a / 2) + 1

/-- One for a condition that holds. -/
def one (c : Bool) : Nat := if c then 1 else 0

def valAdd (_ a b : Nat) : Nat × Flags := (a + b, 0)
def valSub (wid a b : Nat) : Nat × Flags := (a + (2 ^ wid - b), 0)
def valMul (_ a b : Nat) : Nat × Flags := (a * b, 0)
def valMulh (wid a b : Nat) : Nat × Flags := (wrapTo wid (signedOf wid a * signedOf wid b / (2 ^ wid : Nat)), 0)
def valMulhu (wid a b : Nat) : Nat × Flags := (a * b / 2 ^ wid, 0)
/-- R125: division by zero writes all ones and sets DZ; the most negative value over −1 writes itself. -/
def valDiv (wid a b : Nat) : Nat × Flags :=
  if b = 0 then (2 ^ wid - 1, flagDz) else (wrapTo wid (Int.tdiv (signedOf wid a) (signedOf wid b)), 0)
def valDivu (wid a b : Nat) : Nat × Flags := if b = 0 then (2 ^ wid - 1, flagDz) else (a / b, 0)
/-- R125: a remainder of division by zero is the dividend. -/
def valRem (wid a b : Nat) : Nat × Flags :=
  if b = 0 then (a, flagDz) else (wrapTo wid (Int.tmod (signedOf wid a) (signedOf wid b)), 0)
def valRemu (_ a b : Nat) : Nat × Flags := if b = 0 then (a, flagDz) else (a % b, 0)
/-- R127: the exact value clipped to the signed range. -/
def clipped (wid : Nat) (v : Int) : Nat × Flags :=
  let (c, out) := clipTo (signedLo wid) (signedHi wid) v
  (wrapTo wid c, flagIf out flagSat)
def valAdds (wid a b : Nat) : Nat × Flags := clipped wid (signedOf wid a + signedOf wid b)
def valSubs (wid a b : Nat) : Nat × Flags := clipped wid (signedOf wid a - signedOf wid b)
def valAnd (_ a b : Nat) : Nat × Flags := (a &&& b, 0)
def valOr (_ a b : Nat) : Nat × Flags := (a ||| b, 0)
def valXor (_ a b : Nat) : Nat × Flags := (a ^^^ b, 0)
def valAndn (wid a b : Nat) : Nat × Flags := (a &&& (2 ^ wid - 1 - b), 0)
def valOrn (wid a b : Nat) : Nat × Flags := (a ||| (2 ^ wid - 1 - b), 0)
/-- R126: the count is taken modulo the width. -/
def valShl (wid a b : Nat) : Nat × Flags := (a * 2 ^ (b % wid), 0)
def valShr (wid a b : Nat) : Nat × Flags := (a / 2 ^ (b % wid), 0)
def valSar (wid a b : Nat) : Nat × Flags := (wrapTo wid (signedOf wid a / (2 ^ (b % wid) : Nat)), 0)
def valRol (wid a b : Nat) : Nat × Flags := ((a * 2 ^ (b % wid)) % 2 ^ wid ||| a / 2 ^ (wid - b % wid), 0)
def valRor (wid a b : Nat) : Nat × Flags := (a / 2 ^ (b % wid) ||| (a * 2 ^ (wid - b % wid)) % 2 ^ wid, 0)
def valMin (wid a b : Nat) : Nat × Flags := (if signedOf wid a ≤ signedOf wid b then a else b, 0)
def valMax (wid a b : Nat) : Nat × Flags := (if signedOf wid b ≤ signedOf wid a then a else b, 0)
def valMinu (_ a b : Nat) : Nat × Flags := (if a ≤ b then a else b, 0)
def valMaxu (_ a b : Nat) : Nat × Flags := (if b ≤ a then a else b, 0)
def valAbs (wid a : Nat) : Nat := (signedOf wid a).natAbs
def valClz (wid a : Nat) : Nat := wid - bitLength a
def valCtz (wid a : Nat) : Nat := trailingZeros wid a
def valPopc (wid a : Nat) : Nat := countOnes wid a
def valBrev (wid a : Nat) : Nat := reverseBits wid a
def valMov (_ a : Nat) : Nat := a
def valSeq (_ a b : Nat) : Nat × Flags := (one (decide (a = b)), 0)
def valSne (_ a b : Nat) : Nat × Flags := (one (decide (a ≠ b)), 0)
def valSlt (wid a b : Nat) : Nat × Flags := (one (decide (signedOf wid a < signedOf wid b)), 0)
def valSltu (_ a b : Nat) : Nat × Flags := (one (decide (a < b)), 0)
def valSle (wid a b : Nat) : Nat × Flags := (one (decide (signedOf wid a ≤ signedOf wid b)), 0)
def valSleu (_ a b : Nat) : Nat × Flags := (one (decide (a ≤ b)), 0)

/-- A field of LEN bits from POS (R130). -/
def valBfx (len pos a : Nat) : Nat := a / 2 ^ pos % 2 ^ len
/-- The field of the old destination replaced by the low bits of `a` (R130). -/
def valBfi (len pos old a : Nat) : Nat := old / 2 ^ (pos + len) * 2 ^ (pos + len) + a % 2 ^ len * 2 ^ pos + old % 2 ^ pos
/-- Sign extension from LEN bits to a width (R130). -/
def valSext (wid len a : Nat) : Nat := wrapTo wid (signedOf len a)

/-! ## Forms (R122) -/

namespace State

/-- Two register sources under major 0x00. -/
def regForm (s : State) (f : Nat → Nat → Nat → Nat × Flags) (w : Width) (d a b : Reg) : Step :=
  let r := f w.bits (lowOf w (s.val a)) (lowOf w (s.val b))
  s.alu 4 d [a, b] (extendTo w r.1) r.2

/-- A register and a 64-bit literal under major 0x01 (R43). -/
def litForm (s : State) (f : Nat → Nat → Nat → Nat × Flags) (w : Width) (d a : Reg) (lit : Word64) : Step :=
  let r := f w.bits (lowOf w (s.val a)) (lowOf w lit)
  s.alu 12 d [a] (extendTo w r.1) r.2

/-- A register and an immediate, already extended to the width. -/
def immForm (s : State) (f : Nat → Nat → Nat → Nat × Flags) (w : Width) (d a : Reg) (imm : Nat) : Step :=
  let r := f w.bits (lowOf w (s.val a)) imm
  s.alu 4 d [a] (extendTo w r.1) r.2

/-- One register source and no flag. -/
def unaryForm (s : State) (f : Nat → Nat → Nat) (w : Width) (d a : Reg) : Step :=
  s.alu 4 d [a] (extendTo w (f w.bits (lowOf w (s.val a)))) 0

end State

/-! ## The instructions -/

def execAdd (w : Width) (d a b : Reg) (s : State) : Out := .next (s.settle (s.regForm valAdd w d a b))
def execSub (w : Width) (d a b : Reg) (s : State) : Out := .next (s.settle (s.regForm valSub w d a b))
def execMul (w : Width) (d a b : Reg) (s : State) : Out := .next (s.settle (s.regForm valMul w d a b))
def execMulh (w : Width) (d a b : Reg) (s : State) : Out := .next (s.settle (s.regForm valMulh w d a b))
def execMulhu (w : Width) (d a b : Reg) (s : State) : Out := .next (s.settle (s.regForm valMulhu w d a b))
def execDiv (w : Width) (d a b : Reg) (s : State) : Out := .next (s.settle (s.regForm valDiv w d a b))
def execDivu (w : Width) (d a b : Reg) (s : State) : Out := .next (s.settle (s.regForm valDivu w d a b))
def execRem (w : Width) (d a b : Reg) (s : State) : Out := .next (s.settle (s.regForm valRem w d a b))
def execRemu (w : Width) (d a b : Reg) (s : State) : Out := .next (s.settle (s.regForm valRemu w d a b))
def execAdds (w : Width) (d a b : Reg) (s : State) : Out := .next (s.settle (s.regForm valAdds w d a b))
def execSubs (w : Width) (d a b : Reg) (s : State) : Out := .next (s.settle (s.regForm valSubs w d a b))
def execAnd (w : Width) (d a b : Reg) (s : State) : Out := .next (s.settle (s.regForm valAnd w d a b))
def execOr (w : Width) (d a b : Reg) (s : State) : Out := .next (s.settle (s.regForm valOr w d a b))
def execXor (w : Width) (d a b : Reg) (s : State) : Out := .next (s.settle (s.regForm valXor w d a b))
def execAndn (w : Width) (d a b : Reg) (s : State) : Out := .next (s.settle (s.regForm valAndn w d a b))
def execOrn (w : Width) (d a b : Reg) (s : State) : Out := .next (s.settle (s.regForm valOrn w d a b))
def execShl (w : Width) (d a b : Reg) (s : State) : Out := .next (s.settle (s.regForm valShl w d a b))
def execShr (w : Width) (d a b : Reg) (s : State) : Out := .next (s.settle (s.regForm valShr w d a b))
def execSar (w : Width) (d a b : Reg) (s : State) : Out := .next (s.settle (s.regForm valSar w d a b))
def execRol (w : Width) (d a b : Reg) (s : State) : Out := .next (s.settle (s.regForm valRol w d a b))
def execRor (w : Width) (d a b : Reg) (s : State) : Out := .next (s.settle (s.regForm valRor w d a b))
def execMin (w : Width) (d a b : Reg) (s : State) : Out := .next (s.settle (s.regForm valMin w d a b))
def execMax (w : Width) (d a b : Reg) (s : State) : Out := .next (s.settle (s.regForm valMax w d a b))
def execMinu (w : Width) (d a b : Reg) (s : State) : Out := .next (s.settle (s.regForm valMinu w d a b))
def execMaxu (w : Width) (d a b : Reg) (s : State) : Out := .next (s.settle (s.regForm valMaxu w d a b))
def execAbs (w : Width) (d a : Reg) (s : State) : Out := .next (s.settle (s.unaryForm valAbs w d a))
def execClz (w : Width) (d a : Reg) (s : State) : Out := .next (s.settle (s.unaryForm valClz w d a))
def execCtz (w : Width) (d a : Reg) (s : State) : Out := .next (s.settle (s.unaryForm valCtz w d a))
def execPopc (w : Width) (d a : Reg) (s : State) : Out := .next (s.settle (s.unaryForm valPopc w d a))
def execBrev (w : Width) (d a : Reg) (s : State) : Out := .next (s.settle (s.unaryForm valBrev w d a))
/-- R128: the test takes all 64 bits, and every source is read. -/
def execSel (w : Width) (d a b c : Reg) (s : State) : Out :=
  .next (s.settle (s.alu 4 d [c, a, b] (extendTo w (if s.val c ≠ 0 then lowOf w (s.val a) else lowOf w (s.val b))) 0))
def execMov (w : Width) (d a : Reg) (s : State) : Out := .next (s.settle (s.unaryForm valMov w d a))
def execSeq (w : Width) (d a b : Reg) (s : State) : Out := .next (s.settle (s.regForm valSeq w d a b))
def execSne (w : Width) (d a b : Reg) (s : State) : Out := .next (s.settle (s.regForm valSne w d a b))
def execSlt (w : Width) (d a b : Reg) (s : State) : Out := .next (s.settle (s.regForm valSlt w d a b))
def execSltu (w : Width) (d a b : Reg) (s : State) : Out := .next (s.settle (s.regForm valSltu w d a b))
def execSle (w : Width) (d a b : Reg) (s : State) : Out := .next (s.settle (s.regForm valSle w d a b))
def execSleu (w : Width) (d a b : Reg) (s : State) : Out := .next (s.settle (s.regForm valSleu w d a b))

def execAddLit (w : Width) (d a : Reg) (lit : Word64) (s : State) : Out :=
  .next (s.settle (s.litForm valAdd w d a lit))
def execSubLit (w : Width) (d a : Reg) (lit : Word64) (s : State) : Out :=
  .next (s.settle (s.litForm valSub w d a lit))
def execMulLit (w : Width) (d a : Reg) (lit : Word64) (s : State) : Out :=
  .next (s.settle (s.litForm valMul w d a lit))
def execMulhLit (w : Width) (d a : Reg) (lit : Word64) (s : State) : Out :=
  .next (s.settle (s.litForm valMulh w d a lit))
def execMulhuLit (w : Width) (d a : Reg) (lit : Word64) (s : State) : Out :=
  .next (s.settle (s.litForm valMulhu w d a lit))
def execDivLit (w : Width) (d a : Reg) (lit : Word64) (s : State) : Out :=
  .next (s.settle (s.litForm valDiv w d a lit))
def execDivuLit (w : Width) (d a : Reg) (lit : Word64) (s : State) : Out :=
  .next (s.settle (s.litForm valDivu w d a lit))
def execRemLit (w : Width) (d a : Reg) (lit : Word64) (s : State) : Out :=
  .next (s.settle (s.litForm valRem w d a lit))
def execRemuLit (w : Width) (d a : Reg) (lit : Word64) (s : State) : Out :=
  .next (s.settle (s.litForm valRemu w d a lit))
def execAddsLit (w : Width) (d a : Reg) (lit : Word64) (s : State) : Out :=
  .next (s.settle (s.litForm valAdds w d a lit))
def execSubsLit (w : Width) (d a : Reg) (lit : Word64) (s : State) : Out :=
  .next (s.settle (s.litForm valSubs w d a lit))
def execAndLit (w : Width) (d a : Reg) (lit : Word64) (s : State) : Out :=
  .next (s.settle (s.litForm valAnd w d a lit))
def execOrLit (w : Width) (d a : Reg) (lit : Word64) (s : State) : Out :=
  .next (s.settle (s.litForm valOr w d a lit))
def execXorLit (w : Width) (d a : Reg) (lit : Word64) (s : State) : Out :=
  .next (s.settle (s.litForm valXor w d a lit))
def execAndnLit (w : Width) (d a : Reg) (lit : Word64) (s : State) : Out :=
  .next (s.settle (s.litForm valAndn w d a lit))
def execOrnLit (w : Width) (d a : Reg) (lit : Word64) (s : State) : Out :=
  .next (s.settle (s.litForm valOrn w d a lit))
def execShlLit (w : Width) (d a : Reg) (lit : Word64) (s : State) : Out :=
  .next (s.settle (s.litForm valShl w d a lit))
def execShrLit (w : Width) (d a : Reg) (lit : Word64) (s : State) : Out :=
  .next (s.settle (s.litForm valShr w d a lit))
def execSarLit (w : Width) (d a : Reg) (lit : Word64) (s : State) : Out :=
  .next (s.settle (s.litForm valSar w d a lit))
def execRolLit (w : Width) (d a : Reg) (lit : Word64) (s : State) : Out :=
  .next (s.settle (s.litForm valRol w d a lit))
def execRorLit (w : Width) (d a : Reg) (lit : Word64) (s : State) : Out :=
  .next (s.settle (s.litForm valRor w d a lit))
def execMinLit (w : Width) (d a : Reg) (lit : Word64) (s : State) : Out :=
  .next (s.settle (s.litForm valMin w d a lit))
def execMaxLit (w : Width) (d a : Reg) (lit : Word64) (s : State) : Out :=
  .next (s.settle (s.litForm valMax w d a lit))
def execMinuLit (w : Width) (d a : Reg) (lit : Word64) (s : State) : Out :=
  .next (s.settle (s.litForm valMinu w d a lit))
def execMaxuLit (w : Width) (d a : Reg) (lit : Word64) (s : State) : Out :=
  .next (s.settle (s.litForm valMaxu w d a lit))
def execSeqLit (w : Width) (d a : Reg) (lit : Word64) (s : State) : Out :=
  .next (s.settle (s.litForm valSeq w d a lit))
def execSneLit (w : Width) (d a : Reg) (lit : Word64) (s : State) : Out :=
  .next (s.settle (s.litForm valSne w d a lit))
def execSltLit (w : Width) (d a : Reg) (lit : Word64) (s : State) : Out :=
  .next (s.settle (s.litForm valSlt w d a lit))
def execSltuLit (w : Width) (d a : Reg) (lit : Word64) (s : State) : Out :=
  .next (s.settle (s.litForm valSltu w d a lit))
def execSleLit (w : Width) (d a : Reg) (lit : Word64) (s : State) : Out :=
  .next (s.settle (s.litForm valSle w d a lit))
def execSleuLit (w : Width) (d a : Reg) (lit : Word64) (s : State) : Out :=
  .next (s.settle (s.litForm valSleu w d a lit))

def execAddImm (w : Width) (d a : Reg) (imm : BitVec 14) (s : State) : Out :=
  .next (s.settle (s.immForm valAdd w d a (immSigned w imm)))
def execMulImm (w : Width) (d a : Reg) (imm : BitVec 14) (s : State) : Out :=
  .next (s.settle (s.immForm valMul w d a (immSigned w imm)))
def execAndImm (w : Width) (d a : Reg) (imm : BitVec 14) (s : State) : Out :=
  .next (s.settle (s.immForm valAnd w d a imm.toNat))
def execOrImm (w : Width) (d a : Reg) (imm : BitVec 14) (s : State) : Out :=
  .next (s.settle (s.immForm valOr w d a imm.toNat))
def execXorImm (w : Width) (d a : Reg) (imm : BitVec 14) (s : State) : Out :=
  .next (s.settle (s.immForm valXor w d a imm.toNat))
def execShlImm (w : Width) (d a : Reg) (sh : BitVec 6) (s : State) : Out :=
  .next (s.settle (s.immForm valShl w d a sh.toNat))
def execShrImm (w : Width) (d a : Reg) (sh : BitVec 6) (s : State) : Out :=
  .next (s.settle (s.immForm valShr w d a sh.toNat))
def execSarImm (w : Width) (d a : Reg) (sh : BitVec 6) (s : State) : Out :=
  .next (s.settle (s.immForm valSar w d a sh.toNat))
def execRolImm (w : Width) (d a : Reg) (sh : BitVec 6) (s : State) : Out :=
  .next (s.settle (s.immForm valRol w d a sh.toNat))
def execRorImm (w : Width) (d a : Reg) (sh : BitVec 6) (s : State) : Out :=
  .next (s.settle (s.immForm valRor w d a sh.toNat))
def execSeqImm (w : Width) (d a : Reg) (imm : BitVec 11) (s : State) : Out :=
  .next (s.settle (s.immForm valSeq w d a (immSigned w imm)))
def execSneImm (w : Width) (d a : Reg) (imm : BitVec 11) (s : State) : Out :=
  .next (s.settle (s.immForm valSne w d a (immSigned w imm)))
def execSltImm (w : Width) (d a : Reg) (imm : BitVec 11) (s : State) : Out :=
  .next (s.settle (s.immForm valSlt w d a (immSigned w imm)))
def execSltuImm (w : Width) (d a : Reg) (imm : BitVec 11) (s : State) : Out :=
  .next (s.settle (s.immForm valSltu w d a imm.toNat))
def execSleImm (w : Width) (d a : Reg) (imm : BitVec 11) (s : State) : Out :=
  .next (s.settle (s.immForm valSle w d a (immSigned w imm)))
def execSleuImm (w : Width) (d a : Reg) (imm : BitVec 11) (s : State) : Out :=
  .next (s.settle (s.immForm valSleu w d a imm.toNat))

def execBfx (w : Width) (d a : Reg) (lenM1 pos : BitVec 6) (s : State) : Out :=
  .next (s.settle (s.unaryForm (fun _ x => valBfx (lenM1.toNat + 1) pos.toNat x) w d a))
/-- `bfi` reads its destination as a source. -/
def execBfi (w : Width) (d a : Reg) (lenM1 pos : BitVec 6) (s : State) : Out :=
  .next (s.settle (s.alu 4 d [d, a] (extendTo w (valBfi (lenM1.toNat + 1) pos.toNat (lowOf w (s.val d)) (lowOf w (s.val a)))) 0))
def execSext (w : Width) (d a : Reg) (lenM1 : BitVec 6) (s : State) : Out :=
  .next (s.settle (s.unaryForm (fun wid x => valSext wid (lenM1.toNat + 1) x) w d a))
def execZext (w : Width) (d a : Reg) (lenM1 : BitVec 6) (s : State) : Out :=
  .next (s.settle (s.unaryForm (fun _ x => valBfx (lenM1.toNat + 1) 0 x) w d a))
/-- R131. -/
def execMovi (d : Reg) (imm : BitVec 19) (s : State) : Out := .next (s.settle (s.alu 4 d [] (imm.signExtend 64) 0))
def execMoviLit (d : Reg) (lit : Word64) (s : State) : Out := .next (s.settle (s.alu 12 d [] lit 0))
/-- R132: the address, with no check of any kind. -/
def execSaddr (d : Reg) (seg : Seg) (imm : BitVec 14) (s : State) : Out :=
  .next (s.settle (s.alu 4 d [] (BitVec.ofNat 64 ((s.seg seg).addr imm.toInt)) 0))

end Sys2Proof.Machine
end

