-- ==== Sys2Proof/Machine/KeyValue.lean ====
section
/-!
DEFINITION. The key-value translation buffer and its miss handler (R165, R166, R186 to R188).
-/
namespace Sys2Proof.Machine

/-- The key that `kvtl` looks up. -/
def kvKey (a b : Word64) : Word64 := BitVec.ofNat 64 (a.toNat % 2 ^ 32 * 2 ^ 32 + b.toNat % 2 ^ 16)

/-- Put an entry in a buffer of 64, most recently used last: in place of its key's, in a free slot, or where 64 others are valid in
place of the least recently used (R187; log 114). -/
def kvInsert (l : List KvEntry) (e : KvEntry) : List KvEntry :=
  let rest := l.filter fun x => decide (x.key ≠ e.key)
  (if 64 ≤ rest.length then rest.drop 1 else rest) ++ [e]

namespace State

/-- A miss (R166): the thread parks, and the shadow set starts or the miss waits its turn. -/
def kvMissed (s : State) (key : Word64) : State :=
  let m : KvMiss :=
    { ctx := s.cur.ctx, seq := key.toNat / 2 ^ 32, blk := key.toNat % 2 ^ 16, pc := s.ctx.pc
      vec := match s.region? with | some r => r.kvmiss | none => 0 }
  if s.curCore.shadow.missing.isNone then s.startShadow s.cur.part s.cur.core m
  else s.modCurCore fun C => { C with shadow := { C.shadow with waiting := C.shadow.waiting ++ [m] } }

end State

/-- R186: a miss of the shadow set itself halts the thread that missed, with reason SHADOW and cause 0. -/
def execKvtl (d a b : Reg) (s : State) : Out :=
  .next (s.settle (do
    s.ready [a, b]
    s.free d
    let key := kvKey (s.val a) (s.val b)
    match s.curCore.kvtb.find? fun e => decide (e.key = key) with
    | none =>
      if s.cur.shadow then pure ((s.haltThread s.cur.part s.cur.core s.cur.ctx .shadow 0 0).idleShadow s.cur.part s.cur.core)
      else throw (.park (s.kvMissed key) .kvMiss)
    | some e =>
      let off := e.val.toNat % 2 ^ 40
      if e.val.getLsbD 62 then throw (.trap causePoison (BitVec.ofNat 64 off))
      let s := s.modCurCore fun C => { C with kvtb := kvInsert C.kvtb e }
      pure (((s.consume [a, b]).write d (BitVec.ofNat 64 off)).advance 4)))

/-- R187. -/
def execKvtw (a b : Reg) (s : State) : Out :=
  .next (s.settle (do
    s.ready [a, b]
    if bitsOf (s.val a).toNat 31 16 ≠ 0 then throw (.trap causeOperand (s.val a))
    if bitsOf (s.val b).toNat 61 40 ≠ 0 ∨ bitsOf (s.val b).toNat 5 0 ≠ 0 then throw (.trap causeOperand (s.val b))
    let key := s.val a
    let val := s.val b
    let t := s.modCurCore fun C =>
      { C with kvtb := if val.getLsbD 63 then kvInsert C.kvtb { key := key, val := val }
                       else C.kvtb.filter fun x => decide (x.key ≠ key) }
    pure ((t.consume [a, b]).advance 4)))

/-- R187: all ones clears the buffer. -/
def execKvti (a : Reg) (s : State) : Out :=
  .next (s.settle (do
    s.ready [a]
    let key := s.val a
    if key ≠ allOnes ∧ bitsOf key.toNat 31 16 ≠ 0 then throw (.trap causeOperand key)
    let t := s.modCurCore fun C =>
      { C with kvtb := if key = allOnes then [] else C.kvtb.filter fun x => decide (x.key ≠ key) }
    pure ((t.consume [a]).advance 4)))

/-- R188: legal only in the shadow set, which returns to idle; the thread that missed reissues its `kvtl`. -/
def execKret (s : State) : Out :=
  if s.cur.shadow then .next (s.endWalks.idleShadow s.cur.part s.cur.core)
  else .next (s.settle (.error (.trap causeIllegal (firstWord .kret))))

end Sys2Proof.Machine
end

