-- ==== Sys2Proof/Machine/Pager.lean ====
section
/-!
DEFINITION. The pager and memory errors: walks for the misses of threads (R147, R152), the pager's answers (R157, R373),
invalidations (R153), and ECC errors with the patrol read (R161, R392, R394, R399).
-/
namespace Sys2Proof.Machine

/-- The entry at the head of a function's ANSQ, and its index in the ring (R372, R373). -/
structure AnsqHead where
  base : Nat
  index : Nat
  entry : Nat
  deriving DecidableEq, Repr

namespace AnsqHead

def kind (h : AnsqHead) : Nat := bitsOf h.entry 127 126
def tag (h : AnsqHead) : Nat := bitsOf h.entry 125 110
def count (h : AnsqHead) : Nat := bitsOf h.entry 109 90
def reserved (h : AnsqHead) : Bool := decide (bitsOf h.entry 89 61 ≠ 0)
def asid (h : AnsqHead) : Nat := bitsOf h.entry 60 52
def va (h : AnsqHead) : Nat := bitsOf h.entry 51 0

end AnsqHead

namespace State

/-! ## Walks (R147, R152) -/

/-- A step of a walk: it sends the read of an entry, or once all have come it ends. The translation is cached, unless another walk of the
port has cached it meanwhile (log 101), or the failure is kept for the instruction or the engine. A thread's page fault is recorded
(R155); an engine records its own. -/
def completeWalk (s : State) (k : Nat) : State :=
  match s.walks[k]? with
  | none => s
  | some w =>
    if w.result.isSome then s
    else
      let ended (s : State) (f : WalkFail) : State :=
        { s.dropFetches w.part (.walk w.id) with walks := s.walks.set k { w with result := some f } }
      match s.walk w with
      | (s, .failed .held) => s
      | (s, .found e) =>
        let t : State := { s.dropFetches w.part (.walk w.id) with walks := s.walks.eraseIdx k }
        if (s.cached w.quad w.asid w.va).isSome then t else t.modHome w.quad fun h => { h with tlb := insertTlb h.tlb e }
      | (s, .failed (.fault kind)) =>
        let r : FaultRecord := { kind := kind, acc := w.acc, thread := w.tid, asid := w.asid, va := w.va }
        ended (if w.engine.isNone then s.enterFault w.part (calderaOf w.quad) r else s) (.fault kind)
      | (s, .failed f) => ended s f

/-- The walks of an address space that have not ended begin anew, as none may cache what an entry held before an invalidation (R153). -/
def restartWalks (s : State) (asid : Nat) : State :=
  let again (w : Walk) : Bool := decide (w.asid = asid) && w.result.isNone && !w.waiting
  let s := (s.walks.filter again).foldl (fun s w => s.dropFetches w.part (.walk w.id)) s
  { s with walks := s.walks.map fun w => if again w then { w with raf := s.raf.getD (w.asid * 16 + w.va / 2 ^ 48) 0 } else w }

/-! ## ANSQ (R373) -/

/-- The hub is the consumer of a function's ANSQ. -/
def ansqHead (s : State) (f : Nat) : Option AnsqHead :=
  match ringOf (s.func f).ansq with
  | none => none
  | some (base, n) =>
    let cons := s.ringCons base
    if s.ringProd base ≤ cons then none
    else
      let i := cons % 2 ^ n
      some { base := base, index := i, entry := natOfBytes (s.readMem (base + 64 + i * 16) 16) }

/-- The entry at the head has been taken: CONS advances. -/
def ansqTake (s : State) (h : AnsqHead) : State := s.hubWrite (h.base + 8) (bytesOfNat 8 (s.ringCons h.base + 1))

/-- The next entry when it is of a kind and well formed. -/
def ansqOf (s : State) (f kind : Nat) : Option AnsqHead :=
  match s.ansqHead f with
  | some h => if h.kind = kind ∧ !h.reserved then some h else none
  | none => none

/-! ## The waiters on a page (R156, R157) -/

/-- Whether an address of an address space lies on the page of an entry. -/
def onPage (s : State) (h : AnsqHead) (asid va : Nat) : Bool := decide (asid = h.asid) && s.samePage h.asid h.va va

/-- Whether some caldera's fault table holds the entry's page for a function. -/
def faultHeld (s : State) (f : Nat) (h : AnsqHead) : Bool :=
  s.calderas.any fun c => c.2.faults.any fun e => decide (e.part = f) && s.faultOn h.asid h.va e

/-- The page leaves the fault tables, and faults that waited for room go in (R156). -/
def releaseFault (s : State) (f : Nat) (h : AnsqHead) : State :=
  let s := { s with calderas := s.calderas.mapVal fun _ c =>
    { c with faults := c.faults.filter fun e => !(decide (e.part = f) && s.faultOn h.asid h.va e) } }
  s.calderas.foldl (fun s c =>
    c.2.faultWait.foldl (fun s w => s.tableFault w.1 c.1 w.2) (s.modCaldera c.1 fun c => { c with faultWait := [] })) s

/-- The threads of a partition that are DROPPED on a page, each with its own address: by core, and the shadow sets among
them. -/
def droppedOn (s : State) (p : Nat) (h : AnsqHead) : List (Nat × Bool × Nat) :=
  let on (t : ThreadState) : Option Nat := match t with
    | .dropped a va => if s.onPage h a va then some va else none
    | _ => none
  (s.part p).quads.flatMap fun q => q.2.cores.flatMap fun c =>
    let core := q.1 * 4 + c.1
    (c.2.ctxs.filterMap fun x => (on x.2.state).map fun va => (core * 16 + x.1, false, va)) ++
      (match c.2.shadow.missing, on c.2.shadow.state with
       | some n, some va => [(core * 16 + n, true, va)]
       | _, _ => [])

/-- The fills of a partition with a part that waits on a page: core, context and the part's address (R117). -/
def fillsOn (s : State) (p : Nat) (h : AnsqHead) : List (Nat × Nat × Nat) :=
  (s.part p).quads.flatMap fun q => q.2.cores.flatMap fun c =>
    let core := q.1 * 4 + c.1
    let asid := (c.2.ctxs.getD 0 {}).asid
    c.2.ctxs.filterMap fun x => x.2.fill.bind fun f =>
      (f.todo.find? fun o => s.onPage h asid (f.part o).1).map fun o => (core, x.1, (f.part o).1)

/-- The commands of a partition's engines that are stalled on a page. -/
structure StalledOn where
  copies : List (Nat × Nat × CopyCmd × Nat)
  tours : List (Nat × Nat × Tour)
  vents : List (Nat × Nat × VentCmd × Nat)
  rings : List (Nat × Nat × Bool)
  programs : List Nat

def stalledOn (s : State) (p : Nat) (h : AnsqHead) : StalledOn :=
  let at_ (asid : Nat) (v : Option Nat) : Option Nat := v.bind fun va => if s.onPage h asid va then some va else none
  let P := s.part p
  { copies := P.quads.flatMap fun q => q.2.copies.filterMap fun x => (at_ x.2.asid x.2.stalled).map fun va => (q.1, x.1, x.2, va)
    tours := P.quads.flatMap fun q => q.2.tours.filterMap fun x => (at_ x.2.asid x.2.stalled).map fun _ => (q.1, x.1, x.2)
    vents := P.quads.flatMap fun q => q.2.vents.filterMap fun x => (at_ x.2.asid x.2.stalled).map fun va => (q.1, x.1, x.2, va)
    rings := P.quads.flatMap fun q => q.2.cores.filterMap fun c =>
      c.2.ring.stalled.bind fun x => (at_ P.spillAsid (some x.1)).map fun va => (q.1 * 4 + c.1, va, x.2)
    programs := s.fumaroles.filterMap fun l => l.2.program.bind fun g =>
      if g.part = p then (at_ g.asid g.stalled).map fun _ => l.1 else none }

/-- The pager's answer for a page reaches the RCB writes that wait on it (R241): they are tried again, or discarded, and those
behind them go on. -/
def answerRcb (s : State) (p : Nat) (h : AnsqHead) (resolved : Bool) : State :=
  let answer (w : RcbWrite) : Option RcbWrite :=
    if w.fault && s.onPage h w.asid w.va then (if resolved then some { w with fault := false } else none) else some w
  (s.modPart p fun P => { P with rcbWrites := P.rcbWrites.filterMap answer }).retryRcb p

/-- The regions of a partition whose cell map waits on a page (R340). -/
def mapsOn (s : State) (p : Nat) (h : AnsqHead) : List Nat :=
  ((s.part p).regions.filter fun r => match r.2.mapFault with | some va => s.onPage h r.2.asid va | none => false).map Prod.fst

/-! ## RESOLVED and REFUSED (R157) -/

/-- The cell parts of a partition whose reserve step waits on a page (R345): region and part. -/
def partsOn (s : State) (p : Nat) (h : AnsqHead) : List (Nat × Nat) :=
  (s.part p).cellmaps.flatMap fun m =>
    match (s.part p).regions.find? m.1 with
    | some r => if s.onPage h r.asid (m.2.addr + 22) then (m.2.parts.filter fun x => x.2.stalled).map fun x => (m.1, x.1) else []
    | none => []

/-- RESOLVED: dropped threads reissue, and stalled commands, fills and writes retry. -/
def resolvePage (s : State) (f : Nat) (h : AnsqHead) : State :=
  let s := { s.releaseFault f h with walks := s.walks.filter fun (w : Walk) =>
    !(decide (w.part = f) && s.onPage h w.asid w.va && (match w.result with | some (.fault _) => true | _ => false)) }
  let s := (s.droppedOn f h).foldl (fun s t => s.asThread f t.1 t.2.1 fun s => s.modCtx fun c => { c with state := .runnable }) s
  let x := s.stalledOn f h
  let s := x.copies.foldl (fun s c => s.modCopy f c.1 c.2.1 fun c => { c with stalled := none }) s
  let s := x.tours.foldl (fun s t => s.modTour f t.1 t.2.1 fun t => { t with stalled := none }) s
  let s := x.vents.foldl (fun s v => s.modVent f v.1 v.2.1 fun v => { v with stalled := none }) s
  let s := x.rings.foldl (fun s r => s.modRing f r.1 fun r => { r with stalled := none }) s
  let s := x.programs.foldl (fun s l => s.modProgram l fun g => { g with stalled := none }) s
  let s := (s.fillsOn f h).foldl (fun s c => s.sendFill f c.1 c.2.1) s
  let s := s.answerRcb f h true
  let s := (s.mapsOn f h).foldl (fun s r => (s.modRegion f r fun r => { r with mapFault := none }).readMap f r) s
  let s := (s.partsOn f h).foldl (fun s x => s.retryPart f x.1 x.2) s
  s.modFunc f fun y => match y.packetFault with
    | some (a, va, _) => if s.onPage h a va then { y with packetFault := none } else y
    | none => y

/-- REFUSED: dropped threads take the access-refused trap, each with its own address, LOADING contexts fail their fill, and
stalled commands end as their chapters state. -/
def refusePage (s : State) (f : Nat) (h : AnsqHead) : State :=
  let s := { s.releaseFault f h with walks := s.walks.map fun (w : Walk) =>
    if (decide (w.part = f) && w.engine.isNone && s.onPage h w.asid w.va && (match w.result with | some (.fault _) => true | _ => false)) then
      { w with result := some .denied } else w }
  let s := (s.droppedOn f h).foldl (fun s t => s.asThread f t.1 t.2.1 fun s =>
    let s := s.modCtx fun c => { c with state := .runnable }
    s.takeTrap causeAccess (BitVec.ofNat 64 t.2.2) s.ctx.pc) s
  let x := s.stalledOn f h
  let s := x.copies.foldl (fun s c => s.endCopy f c.1 c.2.1 c.2.2.1 (some c.2.2.2)) s
  let s := x.tours.foldl (fun s t => s.failTour f t.1 t.2.1 t.2.2) s
  let s := x.vents.foldl (fun s v => s.failVent f v.1 v.2.1 v.2.2.1 v.2.2.2 2) s
  let s := x.rings.foldl (fun s r =>
    if r.2.2 then s.refuseRefill f r.1 causeAccess r.2.1 else s.refuseSpill f r.1 causeAccess r.2.1) s
  let s := x.programs.foldl (fun s l => s.endProgram l 2) s
  let s := (s.fillsOn f h).foldl (fun s c => s.modFill f c.1 c.2.1 fun y => { y with todo := [], refused := some (causeAccess, c.2.2) }) s
  let s := s.answerRcb f h false
  let s := (s.mapsOn f h).foldl (fun s r => s.refuseMap f r) s
  let s := (s.partsOn f h).foldl (fun s x => s.crowdPart f x.1 x.2) s
  s.modFunc f fun y => match y.packetFault with
    | some (a, va, _) => if s.onPage h a va then { y with packetFault := some (a, va, true) } else y
    | none => y

/-- An answer for a page with no fault outstanding changes nothing. -/
def answerPage (s : State) (f kind : Nat) (apply : State → AnsqHead → State) : State :=
  match s.ansqOf f kind with
  | none => s
  | some h => let t := s.ansqTake h; if s.faultHeld f h then apply t h else t

/-! ## Invalidation (R153) -/

/-- Whether a cached translation meets a range of an address space. -/
def meetsRange (e : TlbEntry) (asid lo hi : Nat) : Bool :=
  let z := pageBytes e.ps
  decide (e.asid = asid ∧ e.vpage * z < hi ∧ lo < (e.vpage + e.pages) * z)

/-- Remove the matching entries of every cache of the module; the accesses that they translated are waited for, and walks that may have
read an older table entry begin anew. -/
def invalidatePages (s : State) (f : Nat) : State :=
  match s.ansqOf f 2 with
  | none => s
  | some h =>
    let z := s.pageSize h.asid h.va
    let lo := h.va / z * z
    let hi := lo + (h.count + 1) * z
    let used := s.accesses.keep fun _ x => decide (x.size ≠ 0) &&
      (s.home x.src).tlb.any fun e => meetsRange e h.asid lo hi && e.covers x.asid x.va
    let s := (s.ansqTake h).restartWalks h.asid
    { s with
      homes := s.homes.mapVal fun _ m => { m with tlb := m.tlb.filter fun e => !meetsRange e h.asid lo hi }
      invalidations := s.invalidations ++
        [{ func := f, tag := h.tag, asid := h.asid, lo := lo, hi := hi, accesses := used.map Prod.fst }] }

/-- Whether a vent command holds pages of an invalidated range, which it does to its end (R329). -/
def ventsUse (s : State) (v : Invalidation) : Bool :=
  s.parts.any fun P => P.2.quads.any fun Q => Q.2.vents.any fun x =>
    decide (x.2.asid = v.asid) && x.2.pages.any fun g => decide (g.va < v.hi ∧ v.lo < g.va + g.size)

/-- Once the accesses of the removed entries are answered, TAG goes to the ring's DONE word. -/
def endInvalidation (s : State) (k : Nat) : State :=
  match s.invalidations[k]? with
  | none => s
  | some v =>
    if !v.accesses.isEmpty || s.ventsUse v then s
    else
      let s := { s with invalidations := s.invalidations.eraseIdx k }
      match ringOf (s.func v.func).ansq with
      | none => s
      | some (base, _) => s.hubWrite (base + 16) (bytesOfNat 8 v.tag)

/-- An entry of kind 3 is ignored; one with a reserved bit set is ignored and counted as an event. -/
def ignoreEntry (s : State) (f : Nat) : State :=
  match s.ansqHead f with
  | none => s
  | some h =>
    if h.reserved then (s.ansqTake h).postEvent f 6 0 h.index
    else if h.kind = 3 then s.ansqTake h
    else s

/-! ## Memory errors (R161, R392, R394, R399) -/

/-- Count a corrected error. -/
def countCorrected (s : State) (k : Nat) : State :=
  s.modCaldera k fun c => { c with softErr := { c.softErr with corrected := bump c.softErr.corrected } }

/-- Count an uncorrectable error; beyond 1,000 in 24 hours event 2 tells of each further one. -/
def countUncorrectable (s : State) (k detail : Nat) : State :=
  let now := s.windows.dtime
  let recent := now :: ((s.caldera k).softErr.recent.filter fun t => decide (now < t + 86400 * dtimeSecond))
  let s := s.modCaldera k fun c =>
    let n := c.softErr.uncorrectable
    { c with softErr := { c.softErr with recent := recent, uncorrectable := if n = BitVec.allOnes 16 then n else n + 1 } }
  if 1000 < recent.length then s.postEvent 0 2 0 detail else s

/-- The caldera in which a memory error stands, and its physical address where it has one. -/
def eccCaldera : EccPlace → Nat × Nat
  | .dram line | .vent _ line => (calderaOf (homeOf (line * 64)), line * 64)
  | .spad _ core _ | .acc _ core _ | .tile _ core _ _ | .vreg _ core _ | .reg _ core _ _ | .sram _ core =>
    (calderaOf (quadOfCore core), 0)

/-- A double-bit error poisons its line, accumulator word, tile granule or register; a register that holds no value yet takes the value
to come. In another SRAM of a quad nothing can be poisoned, and the core halts on a machine error (log 102). -/
def eccPoison (s : State) : EccPlace → State
  | .dram line | .vent _ line => s.poisonTold (line * 64)
  | .spad p core line => s.modCore p core fun C => { C with spadPoison := NSet.add C.spadPoison line }
  | .acc p core word => s.modCore p core fun C => { C with accPoison := NSet.add C.accPoison word }
  | .tile p core slot granule => s.modSlot p core slot fun t => { t with poison := NSet.add t.poison granule }
  | .vreg p core v =>
    if (s.vreg p core v).full then
      let (s, a) := s.chooseFor p (2 ^ 52)
      s.setVreg p core v { (s.vreg p core v) with poison := some a }
    else s
  | .reg p core n r =>
    let r : Reg := Fin.ofNat 16 r
    if ((s.context p core n).regs.get r).full then
      let (s, a) := s.chooseFor p (2 ^ 52)
      s.modContext p core n fun c => { c with regs := c.regs.set r { (c.regs.get r) with full := false, poison := some a } }
    else s
  | .sram p core => s.haltCore p core

/-- A corrected error in a vent read is counted for its partition (R336). -/
def correctedLine (s : State) : EccPlace → State
  | .vent p line => s.countVentError p line
  | .dram _ | .spad .. | .acc .. | .tile .. | .vreg .. | .reg .. | .sram .. => s

/-- Whether what reads a memory where an error is found does read it: a vent only while it has the line to read. -/
def errorMet (s : State) : EccPlace → Bool
  | .vent p line => s.ventsRead p line
  | .dram _ | .spad .. | .acc .. | .tile .. | .vreg .. | .reg .. | .sram .. => true

def memoryError (s : State) (x : EccPlace) (corrected : Bool) : State :=
  let (k, detail) := eccCaldera x
  if !s.errorMet x then s
  else if corrected then (s.correctedLine x).countCorrected k else (s.eccPoison x).countUncorrectable k detail

end State

def execTableWalk (k : Nat) (s : State) : Out := .next (s.completeWalk k)
def execPagerResolved (f : Nat) (s : State) : Out := .next (s.answerPage f 0 fun s h => s.resolvePage f h)
def execPagerRefused (f : Nat) (s : State) : Out := .next (s.answerPage f 1 fun s h => s.refusePage f h)
def execInvalidate (f : Nat) (s : State) : Out := .next (s.invalidatePages f)
def execInvalidationDone (k : Nat) (s : State) : Out := .next (s.endInvalidation k)
def execAnsqIgnored (f : Nat) (s : State) : Out := .next (s.ignoreEntry f)
def execEccError (place : EccPlace) (corrected : Bool) (s : State) : Out := .next (s.memoryError place corrected)
/-- R392: firmware reads a line and writes a correction back; its value does not change. -/
def execPatrolRead (line : Nat) (corrected : Bool) (s : State) : Out :=
  .next (if corrected then s.countCorrected (calderaOf (homeOf (line * 64))) else s)

end Sys2Proof.Machine
end

