-- ==== Sys2Proof/Machine/Fetch.lean ====
section
/-!
DEFINITION. Fetching (R49, R64 to R66): a word through s7, the words of an instruction, and the staggered instructions of a
repetition's buffer (R317).
-/
namespace Sys2Proof.Machine

namespace State

/-! ## A word (R64, R66) -/

/-- Whether a fetch by the thread at hand may miss a store (R66): no fence of the storing thread has covered the fetching core. -/
def misses (s : State) (w : StaleStore) : Bool :=
  !(w.fences.any fun f => decide (f.1 = s.cur.core) || quadInScope s.firmware.hops1 s.firmware.hops2 f.2 f.1 s.quadNo)

/-- The latest stores to a word that a fetch by the thread at hand may miss, back to the first that it sees. -/
def missed (s : State) (pa : Nat) : List StaleStore := (s.stale.getD pa []).takeWhile s.misses

/-- In deterministic mode, each plain store that a fetch may miss is recorded as a conflict, once (R66, R396). -/
def noteMissed (s : State) (pa : Nat) : State :=
  let n := (s.missed pa).length
  let ws := s.stale.getD pa []
  let due := (ws.take n).filter fun w => w.plain && !w.noted && (s.part w.part).det
  match due with
  | [] => s
  | _ =>
    let s := { s with stale := s.stale.put pa ((ws.take n).map (fun w => { w with noted := true }) ++ ws.drop n) }
    due.foldl (fun s w => s.recordConflict w.part (pa / 64) w.pc) s

/-- The word at a physical address: the value that stands there, or the value before one of the stores that the fetch may miss, in
deterministic mode the same on every run (R66). -/
def fetchedWord (s : State) (pa : Nat) : State × Word32 :=
  let new : Word32 := BitVec.ofNat 32 (natOfBytes (s.readMem pa 4))
  match s.missed pa with
  | [] => (s, new)
  | l =>
    let (s, k) := (s.noteMissed pa).chooseFor s.cur.part (l.length + 1)
    (s, ((new :: l.map StaleStore.old)[k]?).getD new)

/-- Fetch one word: the segment check through s7 with X, the translation, and poison. -/
def fetchWord (s : State) (pc : BitVec 50) : Except Stop (State × Word32) := do
  let a := pc.toNat * 4
  let g := s.ctx.code.getD (s.seg 7)
  let _ ← g.check ((a : Int) - g.base.toNat) 4 rightX
  let (t, ph) ← s.translate 0 false a 4
  if t.isPoisoned ph.pa then .error (.trapIn t causePoison (BitVec.ofNat 64 (a / 64 * 64)))
  else pure (t.fetchedWord ph.pa)

/-- Fetch words in ascending order. A trap at one leaves what the fetch of the earlier ones has done (R66). -/
def fetchWords : Nat → State → BitVec 50 → Except Stop (State × List Word32)
  | 0, s, _ => .ok (s, [])
  | n + 1, s, pc => do
    let (s, w) ← s.fetchWord pc
    let (s, t) ← following s (fetchWords n s (pc + 1))
    pure (s, w :: t)

/-- The words of one instruction: the first alone when R55 refuses it. -/
def fetchAt (s : State) (pc : BitVec 50) : Except Stop (State × List Word32) := do
  let (s, w) ← s.fetchWord pc
  match majorCheck w with
  | .error _ => pure (s, [w])
  | .ok () =>
    let (s, t) ← following s (fetchWords (wordCount w - 1) s (pc + 1))
    pure (s, w :: t)

end State

/-- What words stand for: an instruction, or a word that is none (R63). -/
noncomputable def instrOf (ws : List Word32) : Instr :=
  match decodeWords ws with
  | .ok (i, _) => i
  | .error _ => .illegalInstruction (ws.headD 0)

/-! ## Staggering (R317) -/

/-- A register as iteration `i` of a repetition reads it. -/
def Rep.stagger (r : Rep) (n : Reg) : Reg :=
  if r.lo ≤ n.val ∧ n.val < r.lo + r.w then Fin.ofNat 16 (r.lo + (n.val - r.lo + r.i * r.step) % r.w) else n

/-- An instruction with its general registers renamed; vector registers, the field D of `acrd` and `acwr` among them, stay. -/
noncomputable def renamed (re : Reg → Reg) : Instr → Instr
  | .add w d a b => .add w (re d) (re a) (re b)
  | .sub w d a b => .sub w (re d) (re a) (re b)
  | .mul w d a b => .mul w (re d) (re a) (re b)
  | .mulh w d a b => .mulh w (re d) (re a) (re b)
  | .mulhu w d a b => .mulhu w (re d) (re a) (re b)
  | .div w d a b => .div w (re d) (re a) (re b)
  | .divu w d a b => .divu w (re d) (re a) (re b)
  | .rem w d a b => .rem w (re d) (re a) (re b)
  | .remu w d a b => .remu w (re d) (re a) (re b)
  | .adds w d a b => .adds w (re d) (re a) (re b)
  | .subs w d a b => .subs w (re d) (re a) (re b)
  | .and w d a b => .and w (re d) (re a) (re b)
  | .or w d a b => .or w (re d) (re a) (re b)
  | .xor w d a b => .xor w (re d) (re a) (re b)
  | .andn w d a b => .andn w (re d) (re a) (re b)
  | .orn w d a b => .orn w (re d) (re a) (re b)
  | .shl w d a b => .shl w (re d) (re a) (re b)
  | .shr w d a b => .shr w (re d) (re a) (re b)
  | .sar w d a b => .sar w (re d) (re a) (re b)
  | .rol w d a b => .rol w (re d) (re a) (re b)
  | .ror w d a b => .ror w (re d) (re a) (re b)
  | .min w d a b => .min w (re d) (re a) (re b)
  | .max w d a b => .max w (re d) (re a) (re b)
  | .minu w d a b => .minu w (re d) (re a) (re b)
  | .maxu w d a b => .maxu w (re d) (re a) (re b)
  | .abs w d a => .abs w (re d) (re a)
  | .clz w d a => .clz w (re d) (re a)
  | .ctz w d a => .ctz w (re d) (re a)
  | .popc w d a => .popc w (re d) (re a)
  | .brev w d a => .brev w (re d) (re a)
  | .sel w d a b c => .sel w (re d) (re a) (re b) (re c)
  | .mov w d a => .mov w (re d) (re a)
  | .seq w d a b => .seq w (re d) (re a) (re b)
  | .sne w d a b => .sne w (re d) (re a) (re b)
  | .slt w d a b => .slt w (re d) (re a) (re b)
  | .sltu w d a b => .sltu w (re d) (re a) (re b)
  | .sle w d a b => .sle w (re d) (re a) (re b)
  | .sleu w d a b => .sleu w (re d) (re a) (re b)
  | .addLit w d a lit => .addLit w (re d) (re a) lit
  | .subLit w d a lit => .subLit w (re d) (re a) lit
  | .mulLit w d a lit => .mulLit w (re d) (re a) lit
  | .mulhLit w d a lit => .mulhLit w (re d) (re a) lit
  | .mulhuLit w d a lit => .mulhuLit w (re d) (re a) lit
  | .divLit w d a lit => .divLit w (re d) (re a) lit
  | .divuLit w d a lit => .divuLit w (re d) (re a) lit
  | .remLit w d a lit => .remLit w (re d) (re a) lit
  | .remuLit w d a lit => .remuLit w (re d) (re a) lit
  | .addsLit w d a lit => .addsLit w (re d) (re a) lit
  | .subsLit w d a lit => .subsLit w (re d) (re a) lit
  | .andLit w d a lit => .andLit w (re d) (re a) lit
  | .orLit w d a lit => .orLit w (re d) (re a) lit
  | .xorLit w d a lit => .xorLit w (re d) (re a) lit
  | .andnLit w d a lit => .andnLit w (re d) (re a) lit
  | .ornLit w d a lit => .ornLit w (re d) (re a) lit
  | .shlLit w d a lit => .shlLit w (re d) (re a) lit
  | .shrLit w d a lit => .shrLit w (re d) (re a) lit
  | .sarLit w d a lit => .sarLit w (re d) (re a) lit
  | .rolLit w d a lit => .rolLit w (re d) (re a) lit
  | .rorLit w d a lit => .rorLit w (re d) (re a) lit
  | .minLit w d a lit => .minLit w (re d) (re a) lit
  | .maxLit w d a lit => .maxLit w (re d) (re a) lit
  | .minuLit w d a lit => .minuLit w (re d) (re a) lit
  | .maxuLit w d a lit => .maxuLit w (re d) (re a) lit
  | .seqLit w d a lit => .seqLit w (re d) (re a) lit
  | .sneLit w d a lit => .sneLit w (re d) (re a) lit
  | .sltLit w d a lit => .sltLit w (re d) (re a) lit
  | .sltuLit w d a lit => .sltuLit w (re d) (re a) lit
  | .sleLit w d a lit => .sleLit w (re d) (re a) lit
  | .sleuLit w d a lit => .sleuLit w (re d) (re a) lit
  | .addImm w d a imm => .addImm w (re d) (re a) imm
  | .mulImm w d a imm => .mulImm w (re d) (re a) imm
  | .andImm w d a imm => .andImm w (re d) (re a) imm
  | .orImm w d a imm => .orImm w (re d) (re a) imm
  | .xorImm w d a imm => .xorImm w (re d) (re a) imm
  | .shlImm w d a sh => .shlImm w (re d) (re a) sh
  | .shrImm w d a sh => .shrImm w (re d) (re a) sh
  | .sarImm w d a sh => .sarImm w (re d) (re a) sh
  | .rolImm w d a sh => .rolImm w (re d) (re a) sh
  | .rorImm w d a sh => .rorImm w (re d) (re a) sh
  | .seqImm w d a imm => .seqImm w (re d) (re a) imm
  | .sneImm w d a imm => .sneImm w (re d) (re a) imm
  | .sltImm w d a imm => .sltImm w (re d) (re a) imm
  | .sltuImm w d a imm => .sltuImm w (re d) (re a) imm
  | .sleImm w d a imm => .sleImm w (re d) (re a) imm
  | .sleuImm w d a imm => .sleuImm w (re d) (re a) imm
  | .bfx w d a lenM1 pos => .bfx w (re d) (re a) lenM1 pos
  | .bfi w d a lenM1 pos => .bfi w (re d) (re a) lenM1 pos
  | .sext w d a lenM1 => .sext w (re d) (re a) lenM1
  | .zext w d a lenM1 => .zext w (re d) (re a) lenM1
  | .movi d imm => .movi (re d) imm
  | .moviLit d lit => .moviLit (re d) lit
  | .saddr d seg imm => .saddr (re d) seg imm
  | .ld size sx seg d a off => .ld size sx seg (re d) (re a) off
  | .ldLit size sx seg d a lit => .ldLit size sx seg (re d) (re a) lit
  | .ldAcq scope size sx seg d a off => .ldAcq scope size sx seg (re d) (re a) off
  | .ldAcqLit scope size sx seg d a lit => .ldAcqLit scope size sx seg (re d) (re a) lit
  | .st size seg d a off => .st size seg (re d) (re a) off
  | .stLit size seg d a lit => .stLit size seg (re d) (re a) lit
  | .stRel scope size seg d a off => .stRel scope size seg (re d) (re a) off
  | .stRelLit scope size seg d a lit => .stRelLit scope size seg (re d) (re a) lit
  | .ldv v seg a off => .ldv v seg (re a) off
  | .ldvLit v seg a lit => .ldvLit v seg (re a) lit
  | .stv v seg a off => .stv v seg (re a) off
  | .stvLit v seg a lit => .stvLit v seg (re a) lit
  | .gath t v seg a idx => .gath t v seg (re a) idx
  | .scat t v seg a idx => .scat t v seg (re a) idx
  | .segld s a seg => .segld s (re a) seg
  | .segst s a seg => .segst s (re a) seg
  | .segset s a b c => .segset s (re a) (re b) (re c)
  | .kvtl d a b => .kvtl (re d) (re a) (re b)
  | .kvtw a b => .kvtw (re a) (re b)
  | .kvti a => .kvti (re a)
  | .cpy h d a b dseg sseg c => .cpy h (re d) (re a) (re b) dseg sseg (re c)
  | .cpyLit h d a b dseg sseg lit => .cpyLit h (re d) (re a) (re b) dseg sseg lit
  | .cpy2 h d a b dseg sseg c rowsM1 rowBytes => .cpy2 h (re d) (re a) (re b) dseg sseg (re c) rowsM1 rowBytes
  | .cpy2Lit h d a b dseg sseg lit rowsM1 rowBytes => .cpy2Lit h (re d) (re a) (re b) dseg sseg lit rowsM1 rowBytes
  | .amo op w seg d a b => .amo op w seg (re d) (re a) (re b)
  | .amoOrdered h op w seg d a b => .amoOrdered h op w seg (re d) (re a) (re b)
  | .cas w seg d a b => .cas w seg (re d) (re a) (re b)
  | .casOrdered h w seg d a b => .casOrdered h w seg (re d) (re a) (re b)
  | .red op w seg a b => .red op w seg (re a) (re b)
  | .redRel scope op w seg a b => .redRel scope op w seg (re a) (re b)
  | .waitw w seg d a b => .waitw w seg (re d) (re a) (re b)
  | .waitwAcq scope w seg d a b => .waitwAcq scope w seg (re d) (re a) (re b)
  | .bar d drain level index => .bar (re d) drain level index
  | .qprobe d => .qprobe (re d)
  | .chmapOut d a => .chmapOut (re d) (re a)
  | .chmapIn d a => .chmapIn (re d) (re a)
  | .chunmap d => .chunmap (re d)
  | .chstat d a => .chstat (re d) (re a)
  | .vcvtSr t d a b => .vcvtSr t d a (re b)
  | .vbcast t d a => .vbcast t d (re a)
  | .vmovg t d a b => .vmovg t (re d) a (re b)
  | .vslide t d a b => .vslide t d a (re b)
  | .mma h d a b f => .mma h (re d) (re a) (re b) f
  | .mmaPitch h d a b f lit => .mmaPitch h (re d) (re a) (re b) f lit
  | .mmar h d a f => .mmar h (re d) (re a) f
  | .mmarPitch h d a f lit => .mmarPitch h (re d) (re a) f lit
  | .aclr a b => .aclr (re a) (re b)
  | .acrd d a => .acrd d (re a)
  | .acwr d a => .acwr d (re a)
  | .cbld seg a => .cbld seg (re a)
  | .tour seg d a => .tour seg (re d) (re a)
  | .tourOrdered h seg d a => .tourOrdered h seg (re d) (re a)
  | .twait t d => .twait t (re d)
  | .thold t a => .thold t (re a)
  | .tstat t d => .tstat t (re d)
  | .tabort t d => .tabort t (re d)
  | .tld t size d a => .tld t size (re d) (re a)
  | .tst t size d a => .tst t size (re d) (re a)
  | .mvb h d a b f => .mvb h (re d) (re a) (re b) f
  | .mvbCb4 h d a b f lit => .mvbCb4 h (re d) (re a) (re b) f lit
  | .bstat d a => .bstat (re d) (re a)
  | .nbr d a b => .nbr (re d) (re a) (re b)
  | .cellq d a => .cellq (re d) (re a)
  | .timrd d => .timrd (re d)
  | .tickw d a b => .tickw (re d) (re a) (re b)
  | .winq d a => .winq (re d) (re a)
  | .wintake d a b => .wintake (re d) (re a) (re b)
  | .cstart h d a b pseg bseg fum chunk => .cstart h (re d) (re a) (re b) pseg bseg fum chunk
  | .cwait d a => .cwait (re d) (re a)
  | .cwr cr a => .cwr cr (re a)
  | .start d a b => .start (re d) (re a) (re b)
  | .reap d a => .reap (re d) (re a)
  | .exit a => .exit (re a)
  | .migr a => .migr (re a)
  | .migrL a => .migrL (re a)
  | .miga seg a => .miga seg (re a)
  | .migaL seg a => .migaL seg (re a)
  | .posw a b => .posw (re a) (re b)
  | .posa a b => .posa (re a) (re b)
  | .launch d a => .launch (re d) (re a)
  | .wunext d => .wunext (re d)
  | .wudone a => .wudone (re a)
  | .beq a b off => .beq (re a) (re b) off
  | .bne a b off => .bne (re a) (re b) off
  | .blt a b off => .blt (re a) (re b) off
  | .bge a b off => .bge (re a) (re b) off
  | .bltu a b off => .bltu (re a) (re b) off
  | .bgeu a b off => .bgeu (re a) (re b) off
  | .bz a off => .bz (re a) off
  | .bnz a off => .bnz (re a) off
  | .jr a => .jr (re a)
  | .jalr d a => .jalr (re d) (re a)
  | .loop a off => .loop (re a) off
  | .crd d cr => .crd (re d) cr
  | .wake a => .wake (re a)
  | .arm d => .arm (re d)
  | .put a b => .put (re a) (re b)
  | .repb a => .repb (re a)
  | .repx d a => .repx (re d) (re a)
  | .rcast d a => .rcast (re d) (re a)
  | i => i

/-- The instruction at a word of a repetition's block, staggered; names that the form does not accept make it illegal. -/
noncomputable def Rep.instr (r : Rep) (pc : BitVec 50) : Instr :=
  let ws := r.words.drop (pc - r.start).toNat
  let i := renamed r.stagger (instrOf ws)
  if i.wf then i else .illegalInstruction (ws.headD 0)

namespace State

/-- The next instruction of the thread at hand, from memory or from the repetition buffer, where `repx` first writes its index at
the start of an iteration. -/
noncomputable def fetchInstr (s : State) : Except Stop (State × Instr) :=
  let pc := s.ctx.pc
  match s.ctx.rep with
  | none => do
    let (s, ws) ← s.fetchAt pc
    pure (s, instrOf ws)
  | some r =>
    match r.x, r.due with
    | some d, true => do
      s.free d
      let s := s.modCtx fun c => { c with rep := some { r with due := false } }
      pure (s.write d (BitVec.ofNat 64 r.i), r.instr pc)
    | _, _ => .ok (s, r.instr pc)

end State
end Sys2Proof.Machine
end

