-- ==== Sys2Proof/Machine/Rep.lean ====
section
/-!
DEFINITION. Repetitions (R317): `repb` and `repx`.
-/
namespace Sys2Proof.Machine

/-- Whether a block may hold the instruction whose words these are: R63 admits it, and its major is not barred. -/
def blockOk (ws : List Word32) : Bool :=
  match ws with
  | [] => false
  | w :: rest =>
    !barredMajor w &&
      (match majorCheck w, tailOf w rest with
       | .ok (), some t => (match decodePlain w t with | .ok i => i.wf | .error _ => false)
       | _, _ => false)

/-- Words of a block. -/
def blockWords (l : List (BitVec 50 × List Word32)) : List Word32 := l.flatMap Prod.snd

namespace State

/-- Fetch the `n` instructions of a block, each with its address. A first word that R55 refuses ends the fetch; a block of more
than 64 words takes the operand trap with `v`. -/
def fetchBlock (v : Word64) : Nat → Nat → State → BitVec 50 → Except Stop (State × List (BitVec 50 × List Word32))
  | 0, _, s, _ => .ok (s, [])
  | n + 1, words, s, pc => do
    let (s, ws) ← s.fetchAt pc
    if 64 < words + ws.length then throw (.trapIn s causeOperand v)
    match majorCheck (ws.headD 0) with
    | .error _ => pure (s, [(pc, ws)])
    | .ok () =>
      let (s, t) ← following s (fetchBlock v n (words + ws.length) s (pc + BitVec.ofNat 50 ws.length))
      pure (s, (pc, ws) :: t)

/-- `repb`, and `repx` with its index register: the block is fetched whole, and nothing runs if one of its words is refused. -/
def repBody (s : State) (x : Option Reg) (a : Reg) : Step := do
  s.ready [a]
  match x with
  | some d => s.free d
  | none => pure ()
  let g := s.val a
  let v := g.toNat
  let w := bitsOf v 19 16 + 1
  let lo := bitsOf v 15 12
  let n := bitsOf v 5 0
  if bitsOf v 63 48 ≠ 0 ∨ bitsOf v 31 24 ≠ 0 ∨ bitsOf v 11 6 ≠ 0 ∨ bitsOf v 47 32 = 0 ∨ n = 0 ∨ 32 < n ∨ 16 < lo + w then
    throw (.trap causeOperand g)
  match x with
  | some d => if lo ≤ d.val ∧ d.val < lo + w then throw (.trap causeOperand g)
  | none => pure ()
  let (t, block) ← fetchBlock g n 0 s (s.ctx.pc + 1)
  match block.find? fun e => !blockOk e.2 with
  | some e => pure (t.takeTrap causeIllegal ((e.2.headD 0).setWidth 64) e.1)
  | none =>
    let r : Rep :=
      { start := s.ctx.pc + 1, words := blockWords block, count := bitsOf v 47 32, lo := lo, w := w, step := bitsOf v 23 20, x := x,
        due := x.isSome }
    pure (((t.consume [a]).advance 4).modCtx fun c => { c with rep := some r })

end State

def execRepb (a : Reg) (s : State) : Out := .next (s.settle (s.repBody none a))
def execRepx (d a : Reg) (s : State) : Out := .next (s.settle (s.repBody (some d) a))

end Sys2Proof.Machine
end

