-- ==== Sys2Proof/Machine/Tile.lean ====
section
/-!
DEFINITION. The tile instructions (R270 to R279): `twait`, `trel`, `thold`, `tstat`, `tabort`, `tld` and `tst`.
-/
namespace Sys2Proof.Machine

def SlotState.code : SlotState → Nat
  | .empty => 0 | .filling => 1 | .ready => 2 | .draining => 3
def SlotMark.code : SlotMark → Nat
  | .none => 0 | .overrun => 1 | .aborted => 2 | .error => 3

namespace State

/-- `twait` (R274): its destination turns empty before it waits. -/
def twaitBody (s : State) (t : Slot) (d : Reg) : Step := do
  if s.ctx.phase = .fresh then s.free d
  let x := s.slotHere t
  if x.state = .ready then
    let p := if x.poison.isEmpty then 0 else 2 ^ 55
    pure ((s.write d (BitVec.ofNat 64 (x.stop * 2 ^ 56 + p + x.size))).advance 4)
  else if x.mark ≠ .none then
    let s' := s.modSlot s.cur.part s.cur.core t.val fun y => { y with mark := .none }
    pure ((s'.write d (BitVec.ofNat 64 (x.mark.code * 2 ^ 60))).advance 4)
  else throw (.park ((s.writePending d).modCtx fun c => { c with phase := .asked 1 }) (.slot t))

/-- `trel` (R275): at the last stop with a write-back the thread parks until the tour has ended. -/
def trelBody (s : State) (t : Slot) : Step :=
  match s.ctx.phase with
  | .drained seq =>
    if s.curPart.quads.any fun q => q.2.tours.any fun y => decide (y.2.seq = seq) then .error (.park s (.tourEnd seq)) else .ok (s.advance 4)
  | _ => do
    let x ← s.slotRule t
    if s.slotHeld s.cur.part s.cur.core t.val then throw (.park s (.slotReads t))
    match s.slotTour s.cur.part s.cur.core t.val, x.tour with
    | some (_, _, y, pl), some (q, k) =>
      let s' := s.drainSlot s.cur.part q k y pl false
      if y.wb && (nextPlace y pl false).isNone then throw (.park (s'.modCtx fun c => { c with phase := .drained y.seq }) (.tourEnd y.seq))
      else pure (s'.advance 4)
    | _, _ => pure (s.advance 4)

/-- `thold` (R276). An overrun under WAIT may come again once the limit has passed the clock (R269). -/
def tholdBody (s : State) (t : Slot) (a : Reg) : Step := do
  s.ready [a]
  let x ← s.slotRule t
  let s' := s.consume [a]
  match s.slotTour s.cur.part s.cur.core t.val with
  | none => pure (s'.advance 4)
  | some (_, _, y, pl) =>
    if x.limit = 0 then pure (s'.advance 4)
    else
      let l := min (x.limit + ((s.val a).toNat + 63) / 64) y.cap
      let again := !s.overrunLeaves s.cur.part y pl && decide (s.now < x.readyAt + 64 * l)
      pure ((s'.modSlot s.cur.part s.cur.core t.val fun z =>
        { z with limit := l, overrun := z.overrun && !again }).advance 4)

/-- The value of `tstat` (R277). -/
def slotStatus (s : State) (x : TileSlot) : Word64 :=
  let head := x.state.code * 2 ^ 62 + x.mark.code * 2 ^ 60
  match x.tour with
  | none => BitVec.ofNat 64 head
  | some (q, k) =>
    match s.tourOf s.cur.part q k with
    | none => BitVec.ofNat 64 head
    | some t =>
      let left := if x.state = .draining then 0
        else if x.limit = 0 then 2 ^ 24 - 1
        else if x.state = .ready then x.limit - (s.now - x.readyAt) / 64
        else x.limit
      BitVec.ofNat 64 (head + x.stop * 2 ^ 56 + min t.overruns 255 * 2 ^ 48 + left * 2 ^ 24 + coreOf t.tid * 2 ^ 5 + k)

def tstatBody (s : State) (t : Slot) (d : Reg) : Step := do
  s.free d
  pure ((s.write d (s.slotStatus (s.slotHere t))).advance 4)

/-- `tabort` (R278): the tour is ABORTED at once, or when the array reads of its slots are done. -/
def tabortBody (s : State) (t : Slot) (d : Reg) : Step := do
  s.free d
  match (s.slotHere t).tour with
  | none => pure ((s.write d 1).advance 4)
  | some (q, k) =>
    let p := s.cur.part
    let w : Waiter := { tid := s.curTid, gen := s.ctx.gen, shadow := s.cur.shadow, d := d }
    let s' := ((s.writePending d).advance 4).modTour p q k fun y => { y with aborts := y.aborts ++ [(s.cur.core, t.val, w)] }
    pure (match s'.tourOf p q k with
      | some y => s'.abortStep p q k y
      | none => s')

/-- The byte offset of `tld` and `tst` in a tile (R279). -/
def tileOffset (s : State) (t : Slot) (x : TileSlot) (a : Reg) (n : Nat) : Except Stop Nat :=
  let o := sOff (s.val a)
  if o < 0 ∨ (x.size : Int) < o + n then trapN causeTileslot t.val
  else if o.toNat % n ≠ 0 then trapN causeAlign o.toNat
  else .ok o.toNat

/-- `tld` (R279, R272). -/
def tldBody (s : State) (t : Slot) (size : Fin 4) (d a : Reg) : Step := do
  let n := sizeBytes size
  s.ready [a]
  s.free d
  s.acquired
  let x ← s.slotRule t
  let o ← s.tileOffset t x a n
  let ext := if size.val < 2 then Ext.sign else Ext.zero
  let k := match x.poisoned o n with
    | some l => LocalKind.regPoison d l
    | none => .reg d (extendBytes ext (x.read o n))
  pure ((((s.consume [a]).writePending d).answerAccess 4 k).advance 4)

/-- `tst` (R279, R272); bytes that an array command has still to read may be seen old (R311). -/
def tstBody (s : State) (t : Slot) (size : Fin 4) (d a : Reg) : Step := do
  let n := sizeBytes size
  s.ready [a, d]
  s.acquired
  let x ← s.slotRule t
  let o ← s.tileOffset t x a n
  let b := bytesOfNat n (s.val d).toNat
  let s' := if (x.poisoned o n).isSome then s
    else (s.noteOperands s.cur.part s.cur.core (.slot t) o (x.read o n) b s.ctx.pc).modSlot s.cur.part s.cur.core t.val
      fun y => y.write o b
  pure ((s'.consume [a, d]).advance 4)

end State

def execTwait (t : Slot) (d : Reg) (s : State) : Out := .next (s.settle (s.twaitBody t d))
def execTrel (t : Slot) (s : State) : Out := .next (s.settle (s.trelBody t))
def execThold (t : Slot) (a : Reg) (s : State) : Out := .next (s.settle (s.tholdBody t a))
def execTstat (t : Slot) (d : Reg) (s : State) : Out := .next (s.settle (s.tstatBody t d))
def execTabort (t : Slot) (d : Reg) (s : State) : Out := .next (s.settle (s.tabortBody t d))
def execTld (t : Slot) (size : Fin 4) (d a : Reg) (s : State) : Out := .next (s.settle (s.tldBody t size d a))
def execTst (t : Slot) (size : Fin 4) (d a : Reg) (s : State) : Out := .next (s.settle (s.tstBody t size d a))

end Sys2Proof.Machine
end

