-- ==== Sys2Proof/Machine/Vector.lean ====
section
/-!
DEFINITION. The vector instructions (R284 to R296): the checks and the dispatch they share, and one meaning each.
-/
namespace Sys2Proof.Machine

/-- How many bytes a form with, or without, a literal has. -/
def vecLength (lit : Option Word64) : Nat := if lit.isSome then 12 else 4

namespace State

/-- A vector register named by a literal form's vB field, or none. -/
def secondSource (b : VReg) (lit : Option Word64) : List VReg := if lit.isSome then [] else [b]

/-- A vector instruction (R286, R287): the window check over the registers the form names, the sources, the destination, and the
dispatch of the result `r`, which is written at its latency. -/
def vecBody (s : State) (len : Nat) (d : VReg) (names srcs : List VReg) (gens : List Reg) (r : BitVec 512 × Flags)
    (latency : Nat) : Step := do
  s.inWindow names
  s.vready srcs
  s.ready gens
  s.vfree d
  s.dispatchRoom
  let job : VecJob := { kind := .vec (s.phys d) r.1 none, flags := r.2, latency := latency }
  pure ((((s.consume gens).vpending d).dispatch (.vec job)).advance len)

/-- The value of a vector source, or of the literal that stands in its place (R288). -/
def vecVal (s : State) (v : VReg) : BitVec 512 := (s.vecReg v).val
def secondVal (s : State) (t : ElemType) (b : VReg) (lit : Option Word64) : BitVec 512 :=
  match lit with
  | some l => literalLanes t l
  | none => s.vecVal b

/-- A two-source form of major 0x40 or 0x42. -/
def vecTwo (s : State) (t : ElemType) (d a b : VReg) (lit : Option Word64) (f : BitVec 512 → BitVec 512 → BitVec 512 × Flags)
    (latency : Nat) : Step :=
  s.vecBody (vecLength lit) d ([d, a] ++ secondSource b lit) ([a] ++ secondSource b lit) []
    (f (s.vecVal a) (s.secondVal t b lit)) latency

/-- A form that reads vD as well: `vfma`, `vfms` and `vsel`. -/
def vecThree (s : State) (t : ElemType) (d a b : VReg) (lit : Option Word64)
    (f : BitVec 512 → BitVec 512 → BitVec 512 → BitVec 512 × Flags) (latency : Nat) : Step :=
  s.vecBody (vecLength lit) d ([d, a] ++ secondSource b lit) ([d, a] ++ secondSource b lit) []
    (f (s.vecVal a) (s.secondVal t b lit) (s.vecVal d)) latency

/-- A form that reads vA alone. -/
def vecOne (s : State) (d a : VReg) (f : BitVec 512 → BitVec 512 × Flags) (latency : Nat) : Step :=
  s.vecBody 4 d [d, a] [a] [] (f (s.vecVal a)) latency

/-- A form of major 0x40 with two sources (R290). -/
def vecArith2 (s : State) (op : VecOp) (t : ElemType) (d a b : VReg) (lit : Option Word64) : Step :=
  s.vecTwo t d a b lit (fun x y => vecArith op t x y 0) (arithLatency op t)
/-- `vfma` and `vfms` (R290). -/
def vecArith3 (s : State) (op : VecOp) (t : ElemType) (d a b : VReg) (lit : Option Word64) : Step :=
  s.vecThree t d a b lit (vecArith op t) 6
def vecTest (s : State) (c : VecTest) (t : ElemType) (d a b : VReg) (lit : Option Word64) : Step :=
  s.vecTwo t d a b lit (fun x y => (vecCompare c t x y, 0)) 4
def vecLogic (s : State) (f : BitVec 512 → BitVec 512 → BitVec 512) (t : ElemType) (d a b : VReg) (lit : Option Word64) : Step :=
  s.vecTwo t d a b lit (fun x y => (f x y, 0)) 4
def vecSelBody (s : State) (t : ElemType) (d a b : VReg) (lit : Option Word64) : Step :=
  s.vecThree t d a b lit (fun x y m => (vecSelect t x y m, 0)) 4
/-- A reduction (R296): with vB the same register as vA, every lane takes part. -/
def vecRedBody (s : State) (r : VecRed) (t : ElemType) (d a b : VReg) : Step :=
  s.vecTwo t d a b none (fun x m => vecReduce r t x m (decide (a = b))) 10

/-- `vmovg` (R295): the lane comes to a general register. -/
def vmovgBody (s : State) (t : ElemType) (d : Reg) (a : VReg) (b : Reg) : Step := do
  s.inWindow [a]
  s.ready [b]
  let k := s.val b
  if laneCount t ≤ k.toNat then throw (.trap causeOperand k)
  s.vready [a]
  s.free d
  s.dispatchRoom
  let job : VecJob := { kind := .reg d (movedLane t (s.vecVal a) k.toNat), flags := 0, latency := 4 }
  pure ((((s.consume [b]).writePending d).dispatch (.vec job)).advance 4)

end State

def execVadd (t : ElemType) (d a b : VReg) (s : State) : Out :=
  .next (s.settle (s.vecArith2 .add t d a b none))
def execVsub (t : ElemType) (d a b : VReg) (s : State) : Out :=
  .next (s.settle (s.vecArith2 .sub t d a b none))
def execVmul (t : ElemType) (d a b : VReg) (s : State) : Out :=
  .next (s.settle (s.vecArith2 .mul t d a b none))
def execVmax (t : ElemType) (d a b : VReg) (s : State) : Out :=
  .next (s.settle (s.vecArith2 .max t d a b none))
def execVmin (t : ElemType) (d a b : VReg) (s : State) : Out :=
  .next (s.settle (s.vecArith2 .min t d a b none))
def execVaddSat (t : ElemType) (d a b : VReg) (s : State) : Out :=
  .next (s.settle (s.vecArith2 .addSat t d a b none))
def execVsubSat (t : ElemType) (d a b : VReg) (s : State) : Out :=
  .next (s.settle (s.vecArith2 .subSat t d a b none))
def execVfma (t : ElemType) (d a b : VReg) (s : State) : Out :=
  .next (s.settle (s.vecArith3 .fma t d a b none))
def execVfms (t : ElemType) (d a b : VReg) (s : State) : Out :=
  .next (s.settle (s.vecArith3 .fms t d a b none))
def execVcmpEq (t : ElemType) (d a b : VReg) (s : State) : Out :=
  .next (s.settle (s.vecTest .eq t d a b none))
def execVcmpNe (t : ElemType) (d a b : VReg) (s : State) : Out :=
  .next (s.settle (s.vecTest .ne t d a b none))
def execVcmpLt (t : ElemType) (d a b : VReg) (s : State) : Out :=
  .next (s.settle (s.vecTest .lt t d a b none))
def execVcmpLe (t : ElemType) (d a b : VReg) (s : State) : Out :=
  .next (s.settle (s.vecTest .le t d a b none))
def execVsel (t : ElemType) (d a b : VReg) (s : State) : Out :=
  .next (s.settle (s.vecSelBody t d a b none))
def execVand (t : ElemType) (d a b : VReg) (s : State) : Out :=
  .next (s.settle (s.vecLogic (· &&& ·) t d a b none))
def execVor (t : ElemType) (d a b : VReg) (s : State) : Out :=
  .next (s.settle (s.vecLogic (· ||| ·) t d a b none))
def execVxor (t : ElemType) (d a b : VReg) (s : State) : Out :=
  .next (s.settle (s.vecLogic (· ^^^ ·) t d a b none))
def execVshl (t : ElemType) (d a b : VReg) (s : State) : Out :=
  .next (s.settle (s.vecLogic (vecShift .left t) t d a b none))
def execVshr (t : ElemType) (d a b : VReg) (s : State) : Out :=
  .next (s.settle (s.vecLogic (vecShift .right t) t d a b none))
def execVsar (t : ElemType) (d a b : VReg) (s : State) : Out :=
  .next (s.settle (s.vecLogic (vecShift .arith t) t d a b none))
def execVaddLit (t : ElemType) (d a : VReg) (lit : Word64) (s : State) : Out :=
  .next (s.settle (s.vecArith2 .add t d a 0 (some lit)))
def execVsubLit (t : ElemType) (d a : VReg) (lit : Word64) (s : State) : Out :=
  .next (s.settle (s.vecArith2 .sub t d a 0 (some lit)))
def execVmulLit (t : ElemType) (d a : VReg) (lit : Word64) (s : State) : Out :=
  .next (s.settle (s.vecArith2 .mul t d a 0 (some lit)))
def execVmaxLit (t : ElemType) (d a : VReg) (lit : Word64) (s : State) : Out :=
  .next (s.settle (s.vecArith2 .max t d a 0 (some lit)))
def execVminLit (t : ElemType) (d a : VReg) (lit : Word64) (s : State) : Out :=
  .next (s.settle (s.vecArith2 .min t d a 0 (some lit)))
def execVaddSatLit (t : ElemType) (d a : VReg) (lit : Word64) (s : State) : Out :=
  .next (s.settle (s.vecArith2 .addSat t d a 0 (some lit)))
def execVsubSatLit (t : ElemType) (d a : VReg) (lit : Word64) (s : State) : Out :=
  .next (s.settle (s.vecArith2 .subSat t d a 0 (some lit)))
def execVfmaLit (t : ElemType) (d a : VReg) (lit : Word64) (s : State) : Out :=
  .next (s.settle (s.vecArith3 .fma t d a 0 (some lit)))
def execVfmsLit (t : ElemType) (d a : VReg) (lit : Word64) (s : State) : Out :=
  .next (s.settle (s.vecArith3 .fms t d a 0 (some lit)))
def execVcmpEqLit (t : ElemType) (d a : VReg) (lit : Word64) (s : State) : Out :=
  .next (s.settle (s.vecTest .eq t d a 0 (some lit)))
def execVcmpNeLit (t : ElemType) (d a : VReg) (lit : Word64) (s : State) : Out :=
  .next (s.settle (s.vecTest .ne t d a 0 (some lit)))
def execVcmpLtLit (t : ElemType) (d a : VReg) (lit : Word64) (s : State) : Out :=
  .next (s.settle (s.vecTest .lt t d a 0 (some lit)))
def execVcmpLeLit (t : ElemType) (d a : VReg) (lit : Word64) (s : State) : Out :=
  .next (s.settle (s.vecTest .le t d a 0 (some lit)))
def execVselLit (t : ElemType) (d a : VReg) (lit : Word64) (s : State) : Out :=
  .next (s.settle (s.vecSelBody t d a 0 (some lit)))
def execVandLit (t : ElemType) (d a : VReg) (lit : Word64) (s : State) : Out :=
  .next (s.settle (s.vecLogic (· &&& ·) t d a 0 (some lit)))
def execVorLit (t : ElemType) (d a : VReg) (lit : Word64) (s : State) : Out :=
  .next (s.settle (s.vecLogic (· ||| ·) t d a 0 (some lit)))
def execVxorLit (t : ElemType) (d a : VReg) (lit : Word64) (s : State) : Out :=
  .next (s.settle (s.vecLogic (· ^^^ ·) t d a 0 (some lit)))
def execVshlLit (t : ElemType) (d a : VReg) (lit : Word64) (s : State) : Out :=
  .next (s.settle (s.vecLogic (vecShift .left t) t d a 0 (some lit)))
def execVshrLit (t : ElemType) (d a : VReg) (lit : Word64) (s : State) : Out :=
  .next (s.settle (s.vecLogic (vecShift .right t) t d a 0 (some lit)))
def execVsarLit (t : ElemType) (d a : VReg) (lit : Word64) (s : State) : Out :=
  .next (s.settle (s.vecLogic (vecShift .arith t) t d a 0 (some lit)))
def execVabs (t : ElemType) (d a : VReg) (s : State) : Out :=
  .next (s.settle (s.vecOne d a (fun x => vecArith .abs t x 0 0) (arithLatency .abs t)))
def execVneg (t : ElemType) (d a : VReg) (s : State) : Out :=
  .next (s.settle (s.vecOne d a (fun x => vecArith .neg t x 0 0) (arithLatency .neg t)))
def execVexp2 (t : ElemType) (d a : VReg) (s : State) : Out :=
  .next (s.settle (s.vecOne d a (vecFunction .exp2 t) 12))
def execVlog2 (t : ElemType) (d a : VReg) (s : State) : Out :=
  .next (s.settle (s.vecOne d a (vecFunction .log2 t) 12))
def execVrcp (t : ElemType) (d a : VReg) (s : State) : Out :=
  .next (s.settle (s.vecOne d a (vecFunction .rcp t) 12))
def execVrsq (t : ElemType) (d a : VReg) (s : State) : Out :=
  .next (s.settle (s.vecOne d a (vecFunction .rsq t) 12))
def execVcvt (t src : ElemType) (d a : VReg) (s : State) : Out := .next (s.settle (s.vecOne d a (vecConvert t src false) 6))
/-- R293: MINOR 1, the saturation that is not the target's default. -/
def execVcvtSat (t src : ElemType) (d a : VReg) (s : State) : Out := .next (s.settle (s.vecOne d a (vecConvert t src true) 6))
/-- R294: the seed is read at issue. -/
def execVcvtSr (t : ElemType) (d a : VReg) (b : Reg) (s : State) : Out :=
  .next (s.settle (s.vecBody 4 d [d, a] [a] [b] (vecStochastic t (s.val b) (s.vecVal a)) 6))
def execVbcast (t : ElemType) (d : VReg) (a : Reg) (s : State) : Out :=
  .next (s.settle (s.vecBody 4 d [d] [] [a] (vecBroadcast t (s.val a), 0) 4))
def execVmovg (t : ElemType) (d : Reg) (a : VReg) (b : Reg) (s : State) : Out := .next (s.settle (s.vmovgBody t d a b))
def execVshuf (t : ElemType) (d a b : VReg) (s : State) : Out :=
  .next (s.settle (s.vecTwo t d a b none (fun x y => (vecShuffle t x y, 0)) 5))
def execVslide (t : ElemType) (d a : VReg) (b : Reg) (s : State) : Out :=
  .next (s.settle (s.vecBody 4 d [d, a] [a] [b] (vecSlide t (s.vecVal a) (s.val b).toInt, 0) 5))
def execViota (t : ElemType) (d : VReg) (s : State) : Out := .next (s.settle (s.vecBody 4 d [d] [] [] (vecIota t, 0) 4))
def execVredsum (t : ElemType) (d a b : VReg) (s : State) : Out :=
  .next (s.settle (s.vecRedBody .sum t d a b))
def execVredsumSat (t : ElemType) (d a b : VReg) (s : State) : Out :=
  .next (s.settle (s.vecRedBody .sumSat t d a b))
def execVredmax (t : ElemType) (d a b : VReg) (s : State) : Out :=
  .next (s.settle (s.vecRedBody .max t d a b))
def execVredmin (t : ElemType) (d a b : VReg) (s : State) : Out :=
  .next (s.settle (s.vecRedBody .min t d a b))
def execVdot (t : ElemType) (d a b : VReg) (s : State) : Out :=
  .next (s.settle (s.vecTwo t d a b none (vecDot t false) 10))
def execVdotSat (t : ElemType) (d a b : VReg) (s : State) : Out :=
  .next (s.settle (s.vecTwo t d a b none (vecDot t true) 10))

end Sys2Proof.Machine
end

