-- ==== Sys2Proof/Machine/Dispatch.lean ====
section
/-!
DEFINITION. One arm per constructor of `Instr`: the call of its meaning.
-/
namespace Sys2Proof.Machine

def exec (i : Instr) (s : State) : Host.Outcome State Fault Refusal :=
  match i with
  | .add w d a b => Sys2Proof.Machine.execAdd w d a b s
  | .sub w d a b => Sys2Proof.Machine.execSub w d a b s
  | .mul w d a b => Sys2Proof.Machine.execMul w d a b s
  | .mulh w d a b => Sys2Proof.Machine.execMulh w d a b s
  | .mulhu w d a b => Sys2Proof.Machine.execMulhu w d a b s
  | .div w d a b => Sys2Proof.Machine.execDiv w d a b s
  | .divu w d a b => Sys2Proof.Machine.execDivu w d a b s
  | .rem w d a b => Sys2Proof.Machine.execRem w d a b s
  | .remu w d a b => Sys2Proof.Machine.execRemu w d a b s
  | .adds w d a b => Sys2Proof.Machine.execAdds w d a b s
  | .subs w d a b => Sys2Proof.Machine.execSubs w d a b s
  | .and w d a b => Sys2Proof.Machine.execAnd w d a b s
  | .or w d a b => Sys2Proof.Machine.execOr w d a b s
  | .xor w d a b => Sys2Proof.Machine.execXor w d a b s
  | .andn w d a b => Sys2Proof.Machine.execAndn w d a b s
  | .orn w d a b => Sys2Proof.Machine.execOrn w d a b s
  | .shl w d a b => Sys2Proof.Machine.execShl w d a b s
  | .shr w d a b => Sys2Proof.Machine.execShr w d a b s
  | .sar w d a b => Sys2Proof.Machine.execSar w d a b s
  | .rol w d a b => Sys2Proof.Machine.execRol w d a b s
  | .ror w d a b => Sys2Proof.Machine.execRor w d a b s
  | .min w d a b => Sys2Proof.Machine.execMin w d a b s
  | .max w d a b => Sys2Proof.Machine.execMax w d a b s
  | .minu w d a b => Sys2Proof.Machine.execMinu w d a b s
  | .maxu w d a b => Sys2Proof.Machine.execMaxu w d a b s
  | .abs w d a => Sys2Proof.Machine.execAbs w d a s
  | .clz w d a => Sys2Proof.Machine.execClz w d a s
  | .ctz w d a => Sys2Proof.Machine.execCtz w d a s
  | .popc w d a => Sys2Proof.Machine.execPopc w d a s
  | .brev w d a => Sys2Proof.Machine.execBrev w d a s
  | .sel w d a b c => Sys2Proof.Machine.execSel w d a b c s
  | .mov w d a => Sys2Proof.Machine.execMov w d a s
  | .seq w d a b => Sys2Proof.Machine.execSeq w d a b s
  | .sne w d a b => Sys2Proof.Machine.execSne w d a b s
  | .slt w d a b => Sys2Proof.Machine.execSlt w d a b s
  | .sltu w d a b => Sys2Proof.Machine.execSltu w d a b s
  | .sle w d a b => Sys2Proof.Machine.execSle w d a b s
  | .sleu w d a b => Sys2Proof.Machine.execSleu w d a b s
  | .addLit w d a lit => Sys2Proof.Machine.execAddLit w d a lit s
  | .subLit w d a lit => Sys2Proof.Machine.execSubLit w d a lit s
  | .mulLit w d a lit => Sys2Proof.Machine.execMulLit w d a lit s
  | .mulhLit w d a lit => Sys2Proof.Machine.execMulhLit w d a lit s
  | .mulhuLit w d a lit => Sys2Proof.Machine.execMulhuLit w d a lit s
  | .divLit w d a lit => Sys2Proof.Machine.execDivLit w d a lit s
  | .divuLit w d a lit => Sys2Proof.Machine.execDivuLit w d a lit s
  | .remLit w d a lit => Sys2Proof.Machine.execRemLit w d a lit s
  | .remuLit w d a lit => Sys2Proof.Machine.execRemuLit w d a lit s
  | .addsLit w d a lit => Sys2Proof.Machine.execAddsLit w d a lit s
  | .subsLit w d a lit => Sys2Proof.Machine.execSubsLit w d a lit s
  | .andLit w d a lit => Sys2Proof.Machine.execAndLit w d a lit s
  | .orLit w d a lit => Sys2Proof.Machine.execOrLit w d a lit s
  | .xorLit w d a lit => Sys2Proof.Machine.execXorLit w d a lit s
  | .andnLit w d a lit => Sys2Proof.Machine.execAndnLit w d a lit s
  | .ornLit w d a lit => Sys2Proof.Machine.execOrnLit w d a lit s
  | .shlLit w d a lit => Sys2Proof.Machine.execShlLit w d a lit s
  | .shrLit w d a lit => Sys2Proof.Machine.execShrLit w d a lit s
  | .sarLit w d a lit => Sys2Proof.Machine.execSarLit w d a lit s
  | .rolLit w d a lit => Sys2Proof.Machine.execRolLit w d a lit s
  | .rorLit w d a lit => Sys2Proof.Machine.execRorLit w d a lit s
  | .minLit w d a lit => Sys2Proof.Machine.execMinLit w d a lit s
  | .maxLit w d a lit => Sys2Proof.Machine.execMaxLit w d a lit s
  | .minuLit w d a lit => Sys2Proof.Machine.execMinuLit w d a lit s
  | .maxuLit w d a lit => Sys2Proof.Machine.execMaxuLit w d a lit s
  | .seqLit w d a lit => Sys2Proof.Machine.execSeqLit w d a lit s
  | .sneLit w d a lit => Sys2Proof.Machine.execSneLit w d a lit s
  | .sltLit w d a lit => Sys2Proof.Machine.execSltLit w d a lit s
  | .sltuLit w d a lit => Sys2Proof.Machine.execSltuLit w d a lit s
  | .sleLit w d a lit => Sys2Proof.Machine.execSleLit w d a lit s
  | .sleuLit w d a lit => Sys2Proof.Machine.execSleuLit w d a lit s
  | .addImm w d a imm => Sys2Proof.Machine.execAddImm w d a imm s
  | .mulImm w d a imm => Sys2Proof.Machine.execMulImm w d a imm s
  | .andImm w d a imm => Sys2Proof.Machine.execAndImm w d a imm s
  | .orImm w d a imm => Sys2Proof.Machine.execOrImm w d a imm s
  | .xorImm w d a imm => Sys2Proof.Machine.execXorImm w d a imm s
  | .shlImm w d a sh => Sys2Proof.Machine.execShlImm w d a sh s
  | .shrImm w d a sh => Sys2Proof.Machine.execShrImm w d a sh s
  | .sarImm w d a sh => Sys2Proof.Machine.execSarImm w d a sh s
  | .rolImm w d a sh => Sys2Proof.Machine.execRolImm w d a sh s
  | .rorImm w d a sh => Sys2Proof.Machine.execRorImm w d a sh s
  | .seqImm w d a imm => Sys2Proof.Machine.execSeqImm w d a imm s
  | .sneImm w d a imm => Sys2Proof.Machine.execSneImm w d a imm s
  | .sltImm w d a imm => Sys2Proof.Machine.execSltImm w d a imm s
  | .sltuImm w d a imm => Sys2Proof.Machine.execSltuImm w d a imm s
  | .sleImm w d a imm => Sys2Proof.Machine.execSleImm w d a imm s
  | .sleuImm w d a imm => Sys2Proof.Machine.execSleuImm w d a imm s
  | .bfx w d a lenM1 pos => Sys2Proof.Machine.execBfx w d a lenM1 pos s
  | .bfi w d a lenM1 pos => Sys2Proof.Machine.execBfi w d a lenM1 pos s
  | .sext w d a lenM1 => Sys2Proof.Machine.execSext w d a lenM1 s
  | .zext w d a lenM1 => Sys2Proof.Machine.execZext w d a lenM1 s
  | .movi d imm => Sys2Proof.Machine.execMovi d imm s
  | .moviLit d lit => Sys2Proof.Machine.execMoviLit d lit s
  | .saddr d seg imm => Sys2Proof.Machine.execSaddr d seg imm s
  | .br off => Sys2Proof.Machine.execBr off s
  | .call off => Sys2Proof.Machine.execCall off s
  | .beq a b off => Sys2Proof.Machine.execBeq a b off s
  | .bne a b off => Sys2Proof.Machine.execBne a b off s
  | .blt a b off => Sys2Proof.Machine.execBlt a b off s
  | .bge a b off => Sys2Proof.Machine.execBge a b off s
  | .bltu a b off => Sys2Proof.Machine.execBltu a b off s
  | .bgeu a b off => Sys2Proof.Machine.execBgeu a b off s
  | .bz a off => Sys2Proof.Machine.execBz a off s
  | .bnz a off => Sys2Proof.Machine.execBnz a off s
  | .jr a => Sys2Proof.Machine.execJr a s
  | .jalr d a => Sys2Proof.Machine.execJalr d a s
  | .loop a off => Sys2Proof.Machine.execLoop a off s
  | .nop => Sys2Proof.Machine.execNop s
  | .trap code => Sys2Proof.Machine.execTrap code s
  | .brk code => Sys2Proof.Machine.execBrk code s
  | .rett => Sys2Proof.Machine.execRett s
  | .crd d cr => Sys2Proof.Machine.execCrd d cr s
  | .cwr cr a => Sys2Proof.Machine.execCwr cr a s
  | .start d a b => Sys2Proof.Machine.execStart d a b s
  | .reap d a => Sys2Proof.Machine.execReap d a s
  | .exit a => Sys2Proof.Machine.execExit a s
  | .park => Sys2Proof.Machine.execPark s
  | .wake a => Sys2Proof.Machine.execWake a s
  | .yield => Sys2Proof.Machine.execYield s
  | .arm d => Sys2Proof.Machine.execArm d s
  | .put a b => Sys2Proof.Machine.execPut a b s
  | .illegalInstruction word => Sys2Proof.Machine.execIllegalInstruction word s
  | .ld size sx seg d a off => Sys2Proof.Machine.execLd size sx seg d a off s
  | .ldLit size sx seg d a lit => Sys2Proof.Machine.execLdLit size sx seg d a lit s
  | .ldAcq scope size sx seg d a off => Sys2Proof.Machine.execLdAcq scope size sx seg d a off s
  | .ldAcqLit scope size sx seg d a lit => Sys2Proof.Machine.execLdAcqLit scope size sx seg d a lit s
  | .st size seg d a off => Sys2Proof.Machine.execSt size seg d a off s
  | .stLit size seg d a lit => Sys2Proof.Machine.execStLit size seg d a lit s
  | .stRel scope size seg d a off => Sys2Proof.Machine.execStRel scope size seg d a off s
  | .stRelLit scope size seg d a lit => Sys2Proof.Machine.execStRelLit scope size seg d a lit s
  | .ldv v seg a off => Sys2Proof.Machine.execLdv v seg a off s
  | .ldvLit v seg a lit => Sys2Proof.Machine.execLdvLit v seg a lit s
  | .stv v seg a off => Sys2Proof.Machine.execStv v seg a off s
  | .stvLit v seg a lit => Sys2Proof.Machine.execStvLit v seg a lit s
  | .gath t v seg a idx => Sys2Proof.Machine.execGath t v seg a idx s
  | .scat t v seg a idx => Sys2Proof.Machine.execScat t v seg a idx s
  | .segld sd a seg => Sys2Proof.Machine.execSegld sd a seg s
  | .segst sd a seg => Sys2Proof.Machine.execSegst sd a seg s
  | .segset sd a b c => Sys2Proof.Machine.execSegset sd a b c s
  | .kvtl d a b => Sys2Proof.Machine.execKvtl d a b s
  | .kvtw a b => Sys2Proof.Machine.execKvtw a b s
  | .kvti a => Sys2Proof.Machine.execKvti a s
  | .kret => Sys2Proof.Machine.execKret s
  | .cpy h d a b dseg sseg c => Sys2Proof.Machine.execCpy h d a b dseg sseg c s
  | .cpyLit h d a b dseg sseg lit => Sys2Proof.Machine.execCpyLit h d a b dseg sseg lit s
  | .cpy2 h d a b dseg sseg c rowsM1 rowBytes => Sys2Proof.Machine.execCpy2 h d a b dseg sseg c rowsM1 rowBytes s
  | .cpy2Lit h d a b dseg sseg lit rowsM1 rowBytes => Sys2Proof.Machine.execCpy2Lit h d a b dseg sseg lit rowsM1 rowBytes s
  | .copyComplete p q slot piece => Sys2Proof.Machine.execCopyComplete p q slot piece s
  | .amo op w seg d a b => Sys2Proof.Machine.execAmo op w seg d a b s
  | .amoOrdered h op w seg d a b => Sys2Proof.Machine.execAmoOrdered h op w seg d a b s
  | .cas w seg d a b => Sys2Proof.Machine.execCas w seg d a b s
  | .casOrdered h w seg d a b => Sys2Proof.Machine.execCasOrdered h w seg d a b s
  | .red op w seg a b => Sys2Proof.Machine.execRed op w seg a b s
  | .redRel scope op w seg a b => Sys2Proof.Machine.execRedRel scope op w seg a b s
  | .waitw w seg d a b => Sys2Proof.Machine.execWaitw w seg d a b s
  | .waitwAcq scope w seg d a b => Sys2Proof.Machine.execWaitwAcq scope w seg d a b s
  | .waitwTimeout id => Sys2Proof.Machine.execWaitwTimeout id s
  | .fence scope => Sys2Proof.Machine.execFence scope s
  | .bfence scope => Sys2Proof.Machine.execBfence scope s
  | .writebackRequest id => Sys2Proof.Machine.execWritebackRequest id s
  | .bar d drain level index => Sys2Proof.Machine.execBar d drain level index s
  | .barrierArrival p k => Sys2Proof.Machine.execBarrierArrival p k s
  | .qprobe d => Sys2Proof.Machine.execQprobe d s
  | .quiesceCircuitEnd p caldera => Sys2Proof.Machine.execQuiesceCircuitEnd p caldera s
  | .messageDelivery id => Sys2Proof.Machine.execMessageDelivery id s
  | .accessApplication id => Sys2Proof.Machine.execAccessApplication id s
  | .answerDelivery id => Sys2Proof.Machine.execAnswerDelivery id s
  | .localAnswer p q k => Sys2Proof.Machine.execLocalAnswer p q k s
  | .depositRetry id => Sys2Proof.Machine.execDepositRetry id s
  | .migr a => Sys2Proof.Machine.execMigr a s
  | .migrL a => Sys2Proof.Machine.execMigrL a s
  | .miga seg a => Sys2Proof.Machine.execMiga seg a s
  | .migaL seg a => Sys2Proof.Machine.execMigaL seg a s
  | .migrationArrival p k => Sys2Proof.Machine.execMigrationArrival p k s
  | .contextLoaded p core n => Sys2Proof.Machine.execContextLoaded p core n s
  | .spillWrite p core => Sys2Proof.Machine.execSpillWrite p core s
  | .spillRefill p core => Sys2Proof.Machine.execSpillRefill p core s
  | .chmapOut d a => Sys2Proof.Machine.execChmapOut d a s
  | .chmapIn d a => Sys2Proof.Machine.execChmapIn d a s
  | .chunmap d => Sys2Proof.Machine.execChunmap d s
  | .chstat d a => Sys2Proof.Machine.execChstat d a s
  | .tableWalk k => Sys2Proof.Machine.execTableWalk k s
  | .pagerResolved f => Sys2Proof.Machine.execPagerResolved f s
  | .pagerRefused f => Sys2Proof.Machine.execPagerRefused f s
  | .invalidate f => Sys2Proof.Machine.execInvalidate f s
  | .invalidationDone k => Sys2Proof.Machine.execInvalidationDone k s
  | .ansqIgnored f => Sys2Proof.Machine.execAnsqIgnored f s
  | .eccError place corrected => Sys2Proof.Machine.execEccError place corrected s
  | .patrolRead line corrected => Sys2Proof.Machine.execPatrolRead line corrected s
  | .arrayAccept p q => Sys2Proof.Machine.execArrayAccept p q s
  | .vectorResult p q k => Sys2Proof.Machine.execVectorResult p q k s
  | .vadd t d a b => Sys2Proof.Machine.execVadd t d a b s
  | .vsub t d a b => Sys2Proof.Machine.execVsub t d a b s
  | .vmul t d a b => Sys2Proof.Machine.execVmul t d a b s
  | .vfma t d a b => Sys2Proof.Machine.execVfma t d a b s
  | .vfms t d a b => Sys2Proof.Machine.execVfms t d a b s
  | .vmax t d a b => Sys2Proof.Machine.execVmax t d a b s
  | .vmin t d a b => Sys2Proof.Machine.execVmin t d a b s
  | .vabs t d a => Sys2Proof.Machine.execVabs t d a s
  | .vneg t d a => Sys2Proof.Machine.execVneg t d a s
  | .vaddSat t d a b => Sys2Proof.Machine.execVaddSat t d a b s
  | .vsubSat t d a b => Sys2Proof.Machine.execVsubSat t d a b s
  | .vexp2 t d a => Sys2Proof.Machine.execVexp2 t d a s
  | .vlog2 t d a => Sys2Proof.Machine.execVlog2 t d a s
  | .vrcp t d a => Sys2Proof.Machine.execVrcp t d a s
  | .vrsq t d a => Sys2Proof.Machine.execVrsq t d a s
  | .vcmpEq t d a b => Sys2Proof.Machine.execVcmpEq t d a b s
  | .vcmpNe t d a b => Sys2Proof.Machine.execVcmpNe t d a b s
  | .vcmpLt t d a b => Sys2Proof.Machine.execVcmpLt t d a b s
  | .vcmpLe t d a b => Sys2Proof.Machine.execVcmpLe t d a b s
  | .vsel t d a b => Sys2Proof.Machine.execVsel t d a b s
  | .vand t d a b => Sys2Proof.Machine.execVand t d a b s
  | .vor t d a b => Sys2Proof.Machine.execVor t d a b s
  | .vxor t d a b => Sys2Proof.Machine.execVxor t d a b s
  | .vshl t d a b => Sys2Proof.Machine.execVshl t d a b s
  | .vshr t d a b => Sys2Proof.Machine.execVshr t d a b s
  | .vsar t d a b => Sys2Proof.Machine.execVsar t d a b s
  | .vaddLit t d a lit => Sys2Proof.Machine.execVaddLit t d a lit s
  | .vsubLit t d a lit => Sys2Proof.Machine.execVsubLit t d a lit s
  | .vmulLit t d a lit => Sys2Proof.Machine.execVmulLit t d a lit s
  | .vfmaLit t d a lit => Sys2Proof.Machine.execVfmaLit t d a lit s
  | .vfmsLit t d a lit => Sys2Proof.Machine.execVfmsLit t d a lit s
  | .vmaxLit t d a lit => Sys2Proof.Machine.execVmaxLit t d a lit s
  | .vminLit t d a lit => Sys2Proof.Machine.execVminLit t d a lit s
  | .vaddSatLit t d a lit => Sys2Proof.Machine.execVaddSatLit t d a lit s
  | .vsubSatLit t d a lit => Sys2Proof.Machine.execVsubSatLit t d a lit s
  | .vcmpEqLit t d a lit => Sys2Proof.Machine.execVcmpEqLit t d a lit s
  | .vcmpNeLit t d a lit => Sys2Proof.Machine.execVcmpNeLit t d a lit s
  | .vcmpLtLit t d a lit => Sys2Proof.Machine.execVcmpLtLit t d a lit s
  | .vcmpLeLit t d a lit => Sys2Proof.Machine.execVcmpLeLit t d a lit s
  | .vselLit t d a lit => Sys2Proof.Machine.execVselLit t d a lit s
  | .vandLit t d a lit => Sys2Proof.Machine.execVandLit t d a lit s
  | .vorLit t d a lit => Sys2Proof.Machine.execVorLit t d a lit s
  | .vxorLit t d a lit => Sys2Proof.Machine.execVxorLit t d a lit s
  | .vshlLit t d a lit => Sys2Proof.Machine.execVshlLit t d a lit s
  | .vshrLit t d a lit => Sys2Proof.Machine.execVshrLit t d a lit s
  | .vsarLit t d a lit => Sys2Proof.Machine.execVsarLit t d a lit s
  | .vcvt t src d a => Sys2Proof.Machine.execVcvt t src d a s
  | .vcvtSat t src d a => Sys2Proof.Machine.execVcvtSat t src d a s
  | .vcvtSr t d a b => Sys2Proof.Machine.execVcvtSr t d a b s
  | .vbcast t d a => Sys2Proof.Machine.execVbcast t d a s
  | .vmovg t d a b => Sys2Proof.Machine.execVmovg t d a b s
  | .vshuf t d a b => Sys2Proof.Machine.execVshuf t d a b s
  | .vslide t d a b => Sys2Proof.Machine.execVslide t d a b s
  | .viota t d => Sys2Proof.Machine.execViota t d s
  | .vredsum t d a b => Sys2Proof.Machine.execVredsum t d a b s
  | .vredsumSat t d a b => Sys2Proof.Machine.execVredsumSat t d a b s
  | .vredmax t d a b => Sys2Proof.Machine.execVredmax t d a b s
  | .vredmin t d a b => Sys2Proof.Machine.execVredmin t d a b s
  | .vdot t d a b => Sys2Proof.Machine.execVdot t d a b s
  | .vdotSat t d a b => Sys2Proof.Machine.execVdotSat t d a b s
  | .mma h d a b f => Sys2Proof.Machine.execMma h d a b f s
  | .mmaPitch h d a b f lit => Sys2Proof.Machine.execMmaPitch h d a b f lit s
  | .mmar h d a f => Sys2Proof.Machine.execMmar h d a f s
  | .mmarPitch h d a f lit => Sys2Proof.Machine.execMmarPitch h d a f lit s
  | .matrixPass p q mismatch => Sys2Proof.Machine.execMatrixPass p q mismatch s
  | .matrixStepComplete p q => Sys2Proof.Machine.execMatrixStepComplete p q s
  | .aclr a b => Sys2Proof.Machine.execAclr a b s
  | .acrd d a => Sys2Proof.Machine.execAcrd d a s
  | .acwr d a => Sys2Proof.Machine.execAcwr d a s
  | .accCommandEffect p q => Sys2Proof.Machine.execAccCommandEffect p q s
  | .cbld seg a => Sys2Proof.Machine.execCbld seg a s
  | .commit => Sys2Proof.Machine.execCommit s
  | .waitb n => Sys2Proof.Machine.execWaitb n s
  | .repb a => Sys2Proof.Machine.execRepb a s
  | .repx d a => Sys2Proof.Machine.execRepx d a s
  | .tour seg d a => Sys2Proof.Machine.execTour seg d a s
  | .tourOrdered h seg d a => Sys2Proof.Machine.execTourOrdered h seg d a s
  | .tourReservation p q k => Sys2Proof.Machine.execTourReservation p q k s
  | .tourReadDone p q k piece => Sys2Proof.Machine.execTourReadDone p q k piece s
  | .tourHandover p q k => Sys2Proof.Machine.execTourHandover p q k s
  | .holdOverrun p core slot => Sys2Proof.Machine.execHoldOverrun p core slot s
  | .tourWritebackDone p q k piece => Sys2Proof.Machine.execTourWritebackDone p q k piece s
  | .twait t d => Sys2Proof.Machine.execTwait t d s
  | .trel t => Sys2Proof.Machine.execTrel t s
  | .thold t a => Sys2Proof.Machine.execThold t a s
  | .tstat t d => Sys2Proof.Machine.execTstat t d s
  | .tabort t d => Sys2Proof.Machine.execTabort t d s
  | .tld t size d a => Sys2Proof.Machine.execTld t size d a s
  | .tst t size d a => Sys2Proof.Machine.execTst t size d a s
  | .mvb h d a b f => Sys2Proof.Machine.execMvb h d a b f s
  | .mvbCb4 h d a b f lit => Sys2Proof.Machine.execMvbCb4 h d a b f lit s
  | .ventTranslation p q k => Sys2Proof.Machine.execVentTranslation p q k s
  | .ventRow p q k row => Sys2Proof.Machine.execVentRow p q k row s
  | .ventCommandComplete p q k => Sys2Proof.Machine.execVentCommandComplete p q k s
  | .bstat d a => Sys2Proof.Machine.execBstat d a s
  | .posw a b => Sys2Proof.Machine.execPosw a b s
  | .posa a b => Sys2Proof.Machine.execPosa a b s
  | .nbr d a b => Sys2Proof.Machine.execNbr d a b s
  | .cellq d a => Sys2Proof.Machine.execCellq d a s
  | .cellChangeApply p k => Sys2Proof.Machine.execCellChangeApply p k s
  | .ghostRemoval p k => Sys2Proof.Machine.execGhostRemoval p k s
  | .crossingEnd p k => Sys2Proof.Machine.execCrossingEnd p k s
  | .cellSplit p region part => Sys2Proof.Machine.execCellSplit p region part s
  | .launch d a => Sys2Proof.Machine.execLaunch d a s
  | .wunext d => Sys2Proof.Machine.execWunext d s
  | .wudone a => Sys2Proof.Machine.execWudone a s
  | .rcast d a => Sys2Proof.Machine.execRcast d a s
  | .fold p handle => Sys2Proof.Machine.execFold p handle s
  | .loadLevel p => Sys2Proof.Machine.execLoadLevel p s
  | .launchWordWrite f value => Sys2Proof.Machine.execLaunchWordWrite f value s
  | .launchWordRead f => Sys2Proof.Machine.execLaunchWordRead f s
  | .launchPacket f => Sys2Proof.Machine.execLaunchPacket f s
  | .launchDoneWrite p k => Sys2Proof.Machine.execLaunchDoneWrite p k s
  | .timrd d => Sys2Proof.Machine.execTimrd d s
  | .tickw d a b => Sys2Proof.Machine.execTickw d a b s
  | .winq d a => Sys2Proof.Machine.execWinq d a s
  | .wintake d a b => Sys2Proof.Machine.execWintake d a b s
  | .windowRequest id => Sys2Proof.Machine.execWindowRequest id s
  | .geyserTick g => Sys2Proof.Machine.execGeyserTick g s
  | .geyserEnable f g value => Sys2Proof.Machine.execGeyserEnable f g value s
  | .geyserDisable f g value => Sys2Proof.Machine.execGeyserDisable f g value s
  | .geyserFieldWrite f g k value => Sys2Proof.Machine.execGeyserFieldWrite f g k value s
  | .tokenArrival port f datagram intact => Sys2Proof.Machine.execTokenArrival port f datagram intact s
  | .frameDrop port => Sys2Proof.Machine.execFrameDrop port s
  | .ptpMessage offset => Sys2Proof.Machine.execPtpMessage offset s
  | .ptpcfgWrite f value => Sys2Proof.Machine.execPtpcfgWrite f value s
  | .dtimesetLow f value => Sys2Proof.Machine.execDtimesetLow f value s
  | .dtimesetHigh f value => Sys2Proof.Machine.execDtimesetHigh f value s
  | .streamOpen f value => Sys2Proof.Machine.execStreamOpen f value s
  | .streamClose f value => Sys2Proof.Machine.execStreamClose f value s
  | .hostBar2Write f offset bytes intact => Sys2Proof.Machine.execHostBar2Write f offset bytes intact s
  | .hostBar2Read f offset n => Sys2Proof.Machine.execHostBar2Read f offset n s
  | .preemptRequest p => Sys2Proof.Machine.execPreemptRequest p s
  | .quantumExpiry p => Sys2Proof.Machine.execQuantumExpiry p s
  | .partitionFreeze p => Sys2Proof.Machine.execPartitionFreeze p s
  | .partitionResume p => Sys2Proof.Machine.execPartitionResume p s
  | .sinterScrub q => Sys2Proof.Machine.execSinterScrub q s
  | .vfEnable v => Sys2Proof.Machine.execVfEnable v s
  | .vfScrubDone v => Sys2Proof.Machine.execVfScrubDone v s
  | .vfTrack v on => Sys2Proof.Machine.execVfTrack v on s
  | .vfSnapshot v => Sys2Proof.Machine.execVfSnapshot v s
  | .vfctlWrite v k value => Sys2Proof.Machine.execVfctlWrite v k value s
  | .exportState f value => Sys2Proof.Machine.execExportState f value s
  | .importState f value => Sys2Proof.Machine.execImportState f value s
  | .quoteRequest f value => Sys2Proof.Machine.execQuoteRequest f value s
  | .quoteDone f => Sys2Proof.Machine.execQuoteDone f s
  | .linkEnable l => Sys2Proof.Machine.execLinkEnable l s
  | .linkDisable l => Sys2Proof.Machine.execLinkDisable l s
  | .linkTrained l => Sys2Proof.Machine.execLinkTrained l s
  | .linkTrainTimeout l => Sys2Proof.Machine.execLinkTrainTimeout l s
  | .flitReplay l again => Sys2Proof.Machine.execFlitReplay l again s
  | .fumcfgWrite f l value => Sys2Proof.Machine.execFumcfgWrite f l value s
  | .cstart h d a b pseg bseg fum chunk => Sys2Proof.Machine.execCstart h d a b pseg bseg fum chunk s
  | .cwait d a => Sys2Proof.Machine.execCwait d a s
  | .send l => Sys2Proof.Machine.execSend l s
  | .recv l blocks => Sys2Proof.Machine.execRecv l blocks s
  | .rrs l blocks => Sys2Proof.Machine.execRrs l blocks s
  | .copy l blocks => Sys2Proof.Machine.execCopy l blocks s
  | .wait l => Sys2Proof.Machine.execWait l s
  | .loopStep l => Sys2Proof.Machine.execLoopStep l s
  | .endStep l => Sys2Proof.Machine.execEndStep l s
  | .powerOn => Sys2Proof.Machine.execPowerOn s
  | .fwReset f => Sys2Proof.Machine.execFwReset f s
  | .fwStage f value image => Sys2Proof.Machine.execFwStage f value image s
  | .fwVerifyDone => Sys2Proof.Machine.execFwVerifyDone s
  | .bootStartDone failed => Sys2Proof.Machine.execBootStartDone failed s
  | .softerrClear f caldera => Sys2Proof.Machine.execSofterrClear f caldera s
  | .powerPacing => Sys2Proof.Machine.execPowerPacing s
  | .thermalPacing => Sys2Proof.Machine.execThermalPacing s
  | .thermalHalt => Sys2Proof.Machine.execThermalHalt s
  | .machineError p core => Sys2Proof.Machine.execMachineError p core s
  | .registerWrite f offset value => Sys2Proof.Machine.execRegisterWrite f offset value s
  | .holdover => Sys2Proof.Machine.execHoldover s
  | .pacingEnd => Sys2Proof.Machine.execPacingEnd s
  | .sliceCacheEviction line => Sys2Proof.Machine.execSliceCacheEviction line s
  | .wintakeCopyDone id => Sys2Proof.Machine.execWintakeCopyDone id s

end Sys2Proof.Machine
end

