-- ==== Sys2Proof/Machine/Schedule.lean ====
section
/-!
DEFINITION. What the machine may do next (R85, R107): a core issues, an outside agent acts, a part of the machine takes an
internal step, or time goes on. Which of several enabled moves comes next is a free choice (log 4).
-/
namespace Sys2Proof.Machine

/-- A move: the issue of a thread or shadow set, the `k`-th pending input, an internal event, a leg of a migrating thread's way (R86), a
step of a quiesce token (R205), the end of a partition's issues in a cycle, what a deterministic partition does next by its own choice,
or the end of its cycle (R16), or the end of a cycle. -/
inductive Move
  | issue (part core ctx : Nat) (shadow : Bool)
  | input (k : Nat) (x : Input)
  | event (i : Instr)
  | travel (part k : Nat)
  | token (part caldera : Nat)
  | close (part : Nat)
  | within (part : Nat)
  | rest (part : Nat)
  | tick
  deriving DecidableEq, Repr

/-! ## Issue (R107) -/

/-- Whether an issue at `last` lets the thread issue again in a cycle: none of the previous seven. -/
def spaced (cycle : Nat) (last : Option Nat) : Bool := match last with | some n => decide (n + 8 ≤ cycle) | none => true

/-- An eligible context (R107). -/
def Ctx.eligible (c : Ctx) (cycle : Nat) : Bool := decide (c.state = .runnable) && spaced cycle c.lastIssue

/-- The shadow set, when it runs: the context that missed. -/
def Shadow.runs (h : Shadow) : Option Nat := if h.state = .runnable then h.missing else none

/-- The place of a last issue in time; a context that never issued comes first. -/
def issueAge (last : Option Nat) : Nat := match last with | some n => n + 1 | none => 0

/-- The context that takes a donated slot: eligible, its last issue earliest, ties to the lowest number. -/
def donated (cycle : Nat) : SMap Ctx → Option (Nat × Nat)
  | [] => none
  | (n, c) :: t =>
    let rest := donated cycle t
    if c.eligible cycle && !c.yielded then
      match rest with
      | some (m, age) => if age < issueAge c.lastIssue then some (m, age) else some (n, issueAge c.lastIssue)
      | none => some (n, issueAge c.lastIssue)
    else rest

/-- The context that owns the slot of the present cycle. -/
def Partition.slotOwner (P : Partition) : Nat := (P.cycle - P.launchedAt) % 16

/-- Who issues on a core in this cycle: a context, or the shadow set for it (R105, R107). -/
def Core.issuer (C : Core) (P : Partition) : Option (Nat × Bool) :=
  let slot := P.slotOwner
  let own := C.ctxs.getD slot {}
  if C.dead || decide (C.issued = P.cycle + 1) then none
  else if P.det then
    if C.shadow.runs = some slot then some (slot, true)
    else if own.state = .runnable then some (slot, false) else none
  else if own.eligible P.cycle then some (slot, false)
  else match C.shadow.runs with
    | some n => if spaced P.cycle C.shadow.lastIssue then some (n, true) else (donated P.cycle C.ctxs).map fun x => (x.1, false)
    | none => (donated P.cycle C.ctxs).map fun x => (x.1, false)

/-- Whether a running partition has still to have its issues of this cycle. -/
def Partition.mayIssue (P : Partition) : Bool := decide (P.run = .live ∧ P.closed ≠ P.cycle + 1)

/-- The issues of a partition's cores in this cycle. -/
def Partition.issues (P : Partition) (p : Nat) : List Move :=
  if !P.mayIssue then []
  else P.quads.flatMap fun q => q.2.cores.filterMap fun c =>
    (c.2.issuer P).map fun x => .issue p (q.1 * 4 + c.1) x.1 x.2

namespace State

/-- The thread at hand, whose instruction issues in this cycle. -/
def beginIssue (s : State) (p core n : Nat) (shadow : Bool) : State :=
  let c := (s.part p).cycle
  let s := { s with cur := { part := p, core := core, ctx := n, shadow := shadow } }
  if shadow then s.modCore p core fun C => { C with issued := c + 1, shadow := { C.shadow with lastIssue := some c } }
  else (s.modCore p core fun C => { C with issued := c + 1 }).modContext p core n fun x => { x with lastIssue := some c }

end State

/-- An instruction issues: its words are fetched, and its meaning runs; a fetch that traps, parks or drops ends it. -/
noncomputable def issueStep (p core n : Nat) (shadow : Bool) (s : State) : Out :=
  let s := s.beginIssue p core n shadow
  match s.fetchInstr with
  | .ok (t, i) => exec i t
  | .error e => .next (s.settle (.error e))

/-! ## Outside agents -/

/-- Whether an event does anything now. -/
def enabled (s : State) (i : Instr) : Bool := match exec i s with | .next t => decide (t ≠ s) | _ => true

/-- Whether a pending step of an outside agent may act now. A transfer on a link waits for the step that takes it, a checksum mismatch
for the end of a pass, and a datagram until no request precedes it in its nanosecond (R356). -/
def instrReady (s : State) : Instr → Bool
  | .recv l b => !b.isEmpty && enabled s (.recv l b)
  | .rrs l b => !b.isEmpty && enabled s (.rrs l b)
  | .copy l b => !b.isEmpty && enabled s (.copy l b)
  | .matrixPass p q m => m && enabled s (.matrixPass p q m)
  | .tokenArrival .. => !s.arrivalsOver
  | .launchWordWrite .. | .launchWordRead _ | .geyserEnable .. | .geyserDisable .. | .geyserFieldWrite .. | .frameDrop _
  | .ptpMessage _ | .ptpcfgWrite .. | .dtimesetLow .. | .dtimesetHigh .. | .streamOpen .. | .streamClose .. | .hostBar2Write ..
  | .hostBar2Read .. | .preemptRequest _ | .vfEnable _ | .vfTrack .. | .vfctlWrite .. | .exportState .. | .importState ..
  | .quoteRequest .. | .linkEnable _ | .linkDisable _ | .linkTrained _ | .linkTrainTimeout _ | .flitReplay .. | .fumcfgWrite ..
  | .powerOn | .fwReset _ | .fwStage .. | .bootStartDone _ | .softerrClear .. | .powerPacing | .thermalPacing | .thermalHalt
  | .machineError .. | .registerWrite .. | .holdover | .pacingEnd | .eccError .. | .patrolRead .. => true
  | _ => false

/-- What an outside agent does. -/
def performInput (x : Input) (s : State) : Out :=
  match x with
  | .instr i => exec i s
  | .shape p quads => .next (s.setShape p quads)
  | .retire b => .next (if s.retired.length < 256 then { s with retired := NSet.add s.retired b } else s)
  | .notice k => .next (s.modCaldera k fun c => { c with notifications := c.notifications.drop 1 })
  | .acknowledge l => .next (s.acknowledge l)
  | .reopen f value => .next (s.openStream f value)

/-- Whether a pending input may act now: an acknowledgement once there is a transfer to acknowledge, and a stream's open once its walk
need not wait. -/
def inputReady (s : State) (k : Nat) : Input → Bool
  | .instr i => instrReady s i
  | .shape .. | .retire _ | .notice _ => true
  | .acknowledge l => !(s.fum l).awaiting.isEmpty
  | .reopen f v => decide ((({ s with inputs := s.inputs.eraseIdx k } : State).openStream f v).inputs.length < s.inputs.length)

/-- A transfer that comes in on a link. -/
def isTransfer : Input → Bool
  | .instr (.recv ..) | .instr (.rrs ..) | .instr (.copy ..) => true
  | _ => false

/-- The first input that may act; transfers keep their order. -/
def nextInput (s : State) : List Input → Nat → Bool → Option Move
  | [], _, _ => none
  | x :: t, k, behind =>
    if inputReady s k x && !(behind && isTransfer x) then some (.input k x) else nextInput s t (k + 1) (behind || isTransfer x)

/-! ## Internal events -/

/-- Numbers of the entries of a list. -/
def indices {α : Type} (l : List α) : List Nat := List.range l.length

/-- The next event of an access (R85). -/
noncomputable def accessEvents (x : Nat × Access) : List Instr :=
  match x.2.stage with
  | .held | .leg _ _ | .ansLeg _ _ => [.messageDelivery x.1]
  | .home =>
    match x.2.kind with
    | .writeback => [.writebackRequest x.1]
    | .window .. => [.windowRequest x.1]
    | .take .. => [.wintakeCopyDone x.1]
    | _ => [.accessApplication x.1]
  | .queued _ => [.accessApplication x.1]
  | .answered => [.answerDelivery x.1]
  | .watch _ | .refusedAt _ => []

/-- The events of a function's queues and registers. -/
noncomputable def funcEvents (s : State) (f : Nat) (x : Func) : List Instr :=
  (if x.packets.isEmpty then [] else [.launchPacket f]) ++
  (if (s.ansqHead f).isSome then [.pagerResolved f, .pagerRefused f, .invalidate f, .ansqIgnored f] else []) ++
  (if x.scrubbing then [.vfScrubDone f] else []) ++ (if x.snap then [.vfSnapshot f] else []) ++
  (if x.quote.isSome then [.quoteDone f] else [])

/-- A partition that runs, gives up its quads, or waits for them (R19, R250). -/
noncomputable def runEvents (s : State) (p : Nat) (P : Partition) : List Instr :=
  (match P.run with
   | .live => if P.preempt || s.outranked p then [.preemptRequest p] else []
   | .freezing => [.partitionFreeze p]
   | .idle | .frozen => []) ++
  (if P.waits then
    .partitionResume p :: ((shapeQuads P.shape).filter fun q => decide (s.owner.getD q 0 ≠ p)).map fun q => .sinterScrub q
   else [])

/-- Regions, arrivals and crossings of a partition. -/
noncomputable def partEvents (p : Nat) (P : Partition) : List Instr :=
  P.roots.map (fun x => .launchDoneWrite p x.1) ++
  (P.regions.filter fun x => x.2.folding).map (fun x => .fold p x.1) ++
  (indices P.arrivals).map (fun k => .barrierArrival p k) ++
  P.tokens.map (fun x => .quiesceCircuitEnd p x.1) ++
  P.travellers.map (fun x => .migrationArrival p x.1) ++
  (indices P.changes).map (fun k => .cellChangeApply p k) ++
  P.crossings.flatMap (fun x => [.ghostRemoval p x.1, .crossingEnd p x.1]) ++
  P.cellmaps.flatMap (fun m => (m.2.parts.filter fun x => decide (x.2.state = .splitting)).map fun x => .cellSplit p m.1 x.1)

/-- Contexts that load, and the spill ring, of a core (R108, R219). -/
noncomputable def coreEvents (p core : Nat) (C : Core) : List Instr :=
  (C.ctxs.filter fun x => decide (x.2.state = .loading)).map (fun x => .contextLoaded p core x.1) ++
  (if C.arriving.isEmpty then [] else [.spillWrite p core]) ++
  (if C.ring.threads.isEmpty then [] else [.spillRefill p core])

/-- A step of an engine's command on any of its pieces, or on none. -/
noncomputable def pieceEvents (n : Nat) (f : Option Nat → Instr) : List Instr := f none :: (List.range n).map fun k => f (some k)

noncomputable def tourEvents (p q k : Nat) (t : Tour) : List Instr :=
  let n := t.rows * (t.rowBytes / 64 + 2)
  (match t.state with
   | .reserving => [.tourReservation p q k]
   | .reading => pieceEvents n fun m => .tourReadDone p q k m
   | .atStop _ _ => []
   | .writingBack => pieceEvents n fun m => .tourWritebackDone p q k m) ++ [.tourHandover p q k]

noncomputable def ventEvents (p q k : Nat) (x : VentCmd) : List Instr :=
  if x.state = .streaming then (List.range x.m).map (fun r => .ventRow p q k r) ++ [.ventCommandComplete p q k]
  else [.ventTranslation p q k]

/-- The engines of a quad. -/
noncomputable def quadEvents (p q : Nat) (Q : Quad) : List Instr :=
  Q.cores.flatMap (fun c => coreEvents p (q * 4 + c.1) c.2) ++
  Q.copies.flatMap (fun x => pieceEvents (x.2.rows * (x.2.width / 64 + 2)) fun m => .copyComplete p q x.1 m) ++
  Q.tours.flatMap (fun x => tourEvents p q x.1 x.2) ++
  Q.vents.flatMap (fun x => ventEvents p q x.1 x.2)

/-- The steps of a fumarole's program that need no transfer from outside (R381). -/
noncomputable def fumEvents (l : Nat) (x : Fumarole) : List Instr :=
  match x.program with
  | none => []
  | some g =>
    [.send l, .wait l, .loopStep l, .endStep l] ++ (if g.received.isSome then [.recv l [], .rrs l [], .copy l []] else [])

/-- The hub's own states (R386). -/
noncomputable def bootEvents : BootState → List Instr
  | .reset => [.powerOn]
  | .verify | .verifyStaged => [.fwVerifyDone]
  | .start => [.bootStartDone []]
  | .run | .recovery | .failed => []

/-- Lines that a slice cache may evict at any time (R97): not those of a deterministic partition, for whose vents the reads decide it
(R16; log 150). -/
def evictions (s : State) : List Nat := (s.bank.filter fun x => !s.detLine x.1).map Prod.fst

/-- The events of the hub, the links and the memory that may come in any cycle. -/
noncomputable def hubEvents (s : State) : List Instr :=
  bootEvents s.firmware.state ++
  (indices s.invalidations).map (fun k => .invalidationDone k) ++
  (evictions s).map (fun l => .sliceCacheEviction l) ++
  s.funcs.flatMap (fun x => funcEvents s x.1 x.2) ++
  s.parts.flatMap (fun x => runEvents s x.1 x.2) ++
  s.fumaroles.flatMap (fun x => fumEvents x.1 x.2)

/-- Events that are due by the clock or by a quantum: the cycle does not end before them. -/
noncomputable def hubDue (s : State) : List Instr :=
  s.windows.geysers.map (fun x => .geyserTick x.1) ++
  s.parts.flatMap fun x => if x.2.quantum = 0 then [] else [.quantumExpiry x.1]

/-- The events of a partition that may come in any cycle. -/
noncomputable def events (s : State) (p : Nat) (P : Partition) : List Instr :=
  (s.accesses.filter fun x => decide (x.2.part = p)).flatMap accessEvents ++
  ((indices s.walks).filter fun k => match s.walks[k]? with | some w => decide (w.part = p) | none => false).map (fun k => .tableWalk k) ++
  partEvents p P ++ P.quads.flatMap fun q => quadEvents p q.1 q.2

/-- Events of an access that are due by a cycle; the answer of a scratchpad's watch comes in the cycle of the write (R197). -/
noncomputable def accessDue (x : Nat × Access) : List Instr :=
  match x.2.stage with
  | .watch _ => (match x.2.kind with | .waitw .. => [.waitwTimeout x.1] | _ => [])
  | .refusedAt _ => [.depositRetry x.1]
  | .answered => if x.2.spad then [.answerDelivery x.1] else []
  | .held | .leg _ _ | .home | .queued _ | .ansLeg _ _ => []

/-- Events that are due by a cycle of their partition: the cycle does not end before them. -/
noncomputable def dueEvents (s : State) (p : Nat) (P : Partition) : List Instr :=
  (s.accesses.filter fun x => decide (x.2.part = p)).flatMap accessDue ++
  (P.regions.filter fun x => s.foldReady p x.1).map (fun x => .fold p x.1) ++
  P.quads.flatMap fun q =>
    (indices q.2.locals).map (fun k => .localAnswer p q.1 k) ++
    (indices q.2.results).map (fun k => .vectorResult p q.1 k) ++
    (if q.2.cores.all fun c => c.2.dispatch.isEmpty then [] else [.arrayAccept p q.1]) ++
    (if q.2.matrix.isEmpty then [] else [.matrixPass p q.1 false, .matrixStepComplete p q.1, .accCommandEffect p q.1])

/-- Events of a cycle that come before its issues: changes of cell stores that are due (R343), levelling (R256) and overruns (R269). -/
noncomputable def firstEvents (s : State) (p : Nat) (P : Partition) : List Instr :=
  ((indices P.changes).filter fun k => match P.changes[k]? with
    | some c => decide (c.made + 256 ≤ P.cycle)
    | none => false).map (fun k => .cellChangeApply p k) ++
  (if s.levelDue p && !P.regions.isEmpty then [.loadLevel p] else []) ++
  P.quads.flatMap fun q => q.2.cores.flatMap fun c => c.2.slots.filterMap fun t =>
    if s.overrunDue p (q.1 * 4 + c.1) t.1 then some (.holdOverrun p (q.1 * 4 + c.1) t.1) else none

/-! ## The end of a cycle -/

namespace State

/-- `DTIME` moves on, slewed by at most 1,000 ppm (R353). -/
def passTime (s : State) : State :=
  let d := Config.dtimeStep s.choices
  let m : Int := (d / 1000 : Nat)
  ({ s with choices := s.choices + 1 } : State).modWindows fun w =>
    let k := max (-m) (min w.slew m)
    { w with dtime := w.dtime + (d + k).toNat, slew := w.slew - k }

/-- The end of a partition's cycle: what has come wakes its thread (R107), and the slot's owner has had its slot (R118). A `yield` in
the own slot counts that slot as the one that passes (log 103). -/
def endCycle (s : State) (p : Nat) : State :=
  let s := s.wakeAll p
  s.modPart p fun P =>
    let slot := P.slotOwner
    { P with
      cycle := P.cycle + 1
      rested := false
      quads := P.quads.mapVal fun _ Q => { Q with cores := Q.cores.mapVal fun _ C =>
        { C with ctxs := C.ctxs.mapVal fun n c => if n = slot then { c with yielded := false } else c } } }

/-- Whether a deterministic partition's clock stands in this cycle (R20). -/
def stands (P : Partition) : Bool := P.paused && P.det && decide (P.run = .live)

/-- What pacing does to a running partition's next cycle (R20, R336): it may pause a deterministic partition's clock, and withholds
vent cycles of a throughput partition. -/
def pacePartition (s : State) (p : Nat) : State :=
  if !(s.power.pacing || s.power.thermal) then s.modPart p fun P => { P with paused := false }
  else if (s.part p).det then
    let (s, k) := s.choose 2
    s.modPart p fun P => { P with paused := decide (k = 1) }
  else s.paceVents p

/-- A cycle ends: time goes on for the module and for every running partition, and what waits in the hub is tried again: RCB words
(R241), fault records as far as there is room (R156), and tokens (R366). With the calderas powered down the geysers go on (R355). -/
def tick (s : State) : State :=
  let s := ({ s with clock := s.clock + 1 } : State).passTime
  if s.power.down then s.fireAll
  else
    let s := s.parts.foldl (fun s x => if x.2.run = .live ∧ !stands x.2 then s.endCycle x.1 else s) s
    let s := s.parts.foldl (fun s x => if x.2.run = .live then s.pacePartition x.1 else s) s
    let s := s.parts.foldl (fun s x => if x.2.rcbWrites.isEmpty then s else s.retryRcb x.1) s
    (s.funcs.foldl (fun s f => if f.2.pendingFaults.isEmpty then s else drainFaults f.2.pendingFaults.length s f.1) s).placeHeld

end State

/-! ## The next move -/

/-- The moves of a partition in a cycle, in phases: what comes before its issues, its issues up to their end, and then what is due and
what may come, so that a merge, a deposit or an application of a cycle follows the instructions of that cycle (R47, R102, R120), and a
thread that turns RUNNABLE in it issues in a later one (R107, R287). -/
inductive Phases
  | first (l : List Move)
  | issues (l : List Move)
  | later (due other : List Move)

noncomputable def phases (s : State) (p : Nat) (P : Partition) : Phases :=
  let go (l : List Instr) : List Move := (l.filter (enabled s)).map Move.event
  match go (firstEvents s p P) with
  | m :: t => .first (m :: t)
  | [] =>
    match P.issues p with
    | m :: t => .issues (m :: t)
    | [] =>
      if P.mayIssue then .issues [.close p]
      else .later (go (dueEvents s p P))
        (go (events s p P) ++
          ((P.travellers.filter fun x => decide (s.travelStep p x.1 ≠ s)).map fun x => .travel p x.1) ++
          (((List.range 8).filter fun k => decide (s.moveToken p k ≠ s)).map fun k => .token p k))

/-- The moves that a partition offers now, and whether its cycle may end. In deterministic mode nothing but its own choice decides
when it ends its cycle (R16). -/
noncomputable def partMoves (s : State) (p : Nat) (P : Partition) : List Move × Bool :=
  if State.stands P then ([], true)
  else match phases s p P with
    | .first l | .issues l => (l, false)
    | .later due other =>
      if !P.det || decide (P.run ≠ .live) then (due ++ other, due.isEmpty)
      else if P.rested then (due, due.isEmpty)
      else if due.isEmpty && other.isEmpty then ([], true)
      else (due ++ other ++ (if due.isEmpty then [.rest p] else []), false)

/-- Whether the partition has come to the last phase of its cycle. -/
noncomputable def inLater (s : State) (p : Nat) (P : Partition) : Bool :=
  State.stands P || (match phases s p P with | .later .. => true | _ => false)

/-- The moves that may come next. What the hub, the links and the outside do in a cycle follows the issues of every partition (R47). A
cycle ends only when every core has issued that may, and nothing is due. -/
noncomputable def moves (s : State) : List Move :=
  let inputs := (nextInput s s.inputs 0 false).toList
  if s.power.down then inputs ++ [.tick]
  else
    let go (l : List Instr) : List Move := (l.filter (enabled s)).map Move.event
    let parts := s.parts.map fun x => (x.1, x.2.det, partMoves s x.1 x.2)
    let later := s.parts.all fun x => inLater s x.1 x.2
    let due := go (hubDue s)
    (if later then inputs ++ due ++ go (hubEvents s) else []) ++
      parts.flatMap (fun x => if x.2.1 && !x.2.2.1.isEmpty then [.within x.1] else x.2.2.1) ++
      (if later && (parts.all fun x => x.2.2.2) && due.isEmpty then [.tick] else [])

/-- Make a move that is no choice. -/
noncomputable def performMove (m : Move) (s : State) : Out :=
  match m with
  | .issue p core n shadow => issueStep p core n shadow s
  | .input k x => performInput x { s with inputs := s.inputs.eraseIdx k }
  | .event i => exec i s
  | .travel p k => .next (s.travelStep p k)
  | .token p k => .next (s.moveToken p k)
  | .close p => .next (s.modPart p fun P => { P with closed := P.cycle + 1 })
  | .rest p => .next (s.modPart p fun P => { P with rested := true })
  | .tick => .next s.tick
  | .within _ => .next s

/-- Make a move; a deterministic partition chooses among its own by a choice that depends on its choices since the launch alone
(R16). -/
noncomputable def perform (m : Move) (s : State) : Out :=
  match m with
  | .within p =>
    match (partMoves s p (s.part p)).1 with
    | [] => .next s
    | [m] => performMove m s
    | ms => let (t, k) := s.chooseFor p ms.length; performMove (ms.getD k (.rest p)) t
  | m => performMove m s

/-- Make one of the moves: the only one, or a free choice among them. -/
noncomputable def nextMove (s : State) : Out :=
  match moves s with
  | [] => .next s
  | [m] => perform m s
  | ms => let (t, k) := s.choose ms.length; perform (ms.getD k .tick) t

end Sys2Proof.Machine
end

