-- ==== Sys2Proof/Machine/Step.lean ====
section
/-!
DEFINITION. One step of the machine, and how an instruction is placed where the next step fetches it.
-/
namespace Sys2Proof.Machine

/-- One step: a move of the machine (log 4). -/
noncomputable def step (s : State) : Host.Outcome State Fault Refusal := nextMove s

/-- The machine with an instruction in memory at address 0 and one thread that is about to fetch it there (log 3): the hub
runs, partition 0 is live in a new launch, and thread 0 is RUNNABLE with a code segment, a cached translation of its page, and
program counter 0. -/
def State.withFetchWord (s : State) (nbits w : Nat) : State :=
  let seg : Segment := { base := 0, limit := 65536, rights := rightR ||| rightX }
  let s := { s with
    mem := Memory.writeList s.mem 0 (tableBytes nbits w)
    firmware := { s.firmware with state := .run } }
  let s := s.modHome 0 fun h => { h with tlb := [{ asid := 0, vpage := 0, ps := 0, pages := 1, pbn := 0, bl := false, pin := false,
                                                    cnt := false, mq := false }] }
  let s := s.modPart 0 fun P => { P with run := .live, launchedAt := P.cycle }
  s.modContext 0 0 0 fun c =>
    { c with state := .runnable, asid := 0, pc := 0, segs := c.segs.set 7 seg, code := none, rep := none, lastIssue := none }

end Sys2Proof.Machine
end

