-- ==== Sys2Proof/Safety.lean ====
section
/-!
DEFINITION. What counts as a safe run, in the terms that claims use: the canonical form of memory, which every step keeps, and
steps that do not stop.
-/
namespace Sys2Proof

open Machine

/-- The module's memory is in its canonical form. -/
def MemoryOk (s : State) : Prop := Memory.wf s.mem = true

/-- A step goes on to a next state. -/
def GoesOn (s : State) : Prop := ∃ t, step s = .next t

/-- The states that a run from `s` reaches. -/
inductive Reaches : State → State → Prop
  | refl (s : State) : Reaches s s
  | next {s t u : State} (h : Reaches s t) (e : step t = .next u) : Reaches s u

/-- A run from `s` is safe: memory keeps its form in every state, and no step stops the machine. -/
def SafeFrom (s : State) : Prop := ∀ t, Reaches s t → MemoryOk t ∧ GoesOn t

end Sys2Proof
end

