-- ==== Sys2Proof/Certificates/Slice0/Obligations.lean ====
section
/-!
DEFINITION. The statements for the provers, over the words of `Sys2Proof.Says`: what an instruction's operands must satisfy,
and the state in which an instruction that completes leaves the machine, in terms of the operations of
`Sys2Proof/Machine/Ops.lean` and `Operands.lean`, whose own effects are stated too.
-/
namespace Sys2Proof.Says

open Sys2Proof.Machine

/-- The registers that an instruction reads are full, and none holds a poisoned answer (R106, R161). -/
abbrev Reads (s : State) (l : List Reg) : Prop := ∀ r ∈ l, (s.reg r).full = true ∧ (s.reg r).poison = none

/-- A destination has no result pending (R106), and if an output channel is mapped on it, no acquire holds the thread's accesses
(R94) and the core's deposit port has room (R224). -/
abbrev Takes (s : State) (d : Reg) : Prop :=
  (s.reg d).pending = false ∧
    ((s.chan d).all fun c => decide (c.dir ≠ .out) ||
      (s.ctx.acquiring.isEmpty && decide (s.portUsed s.cur.part s.cur.core < 8))) = true

/-- The thread at hand is no shadow set. -/
abbrev Plain (s : State) : Prop := s.cur.shadow = false

/-- The state after a synchronous instruction of `len` bytes: its sources are consumed, its destination and its flags are
written, and the program counter goes on. -/
abbrev wrote (s : State) (len : Nat) (d : Reg) (srcs : List Reg) (v : Word64) (f : Flags) : State :=
  ((((s.consume srcs).write d v).mergeFlags f).advance len).endWalks

/-- An access of `n` bytes at an offset lies in its segment and has the right it needs (R139 to R141). -/
abbrev InSegment (g : Segment) (off : Int) (n : Nat) (right : BitVec 7) : Prop :=
  0 ≤ off ∧ off + n ≤ g.limit.toNat ∧ (g.base.toNat : Int) + off + n ≤ 2 ^ 52 ∧ g.rights &&& right = right ∧
    (g.isK = true → right &&& (rightX ||| rightT ||| rightB) = 0 ∧ (g.base.toNat : Int) + off + n ≤ 65536)

/-- The address of a thread's access has a cached translation, and a load of a strict region touches no toured byte (R152,
R176). -/
abbrev Placed (s : State) (va n : Nat) (isLoad : Bool) : Prop :=
  (s.cached s.quadNo s.asid va).isSome = true ∧
    (isLoad = true → s.strict = true →
      s.firstToured s.cur.part s.ctx.handle.toNat (calderaOf s.quadNo) va (va + n) = none)

/-- An access issued: translated through the quad's cache, its sources consumed, its destinations empty, and the access in
flight to the home of its address. -/
def issued (s : State) (len : Nat) (srcs dsts : List Reg) (kind : AccKind) (va n : Nat) (rel : Option Scope) (acq : Bool) :
    State :=
  let (t, ph) := s.usePart va
  let t := match kind with | .load _ => t.noteSinkLoad ph.pa | _ => t
  let u := dsts.foldl (fun u d => u.writePending d) (t.consume srcs)
  ((u.issueAccess (t.access kind ph va n rel) acq).advance len).endWalks

/-- An access whose request carries what it was issued with: all but that of `rcast`, which takes DRY as it is sent (R254). -/
def AsIssued (kind : AccKind) : Prop := ∀ d new frm same dry old, kind ≠ .rcast d new frm same dry old

/-- Vector registers that lie in the thread's window (R286). -/
abbrev InWindow (s : State) (l : List VReg) : Prop := ∀ v ∈ l, v.val < s.ctx.vwinSize.toNat

/-- Vector sources that are full and not poisoned (R284, R286). -/
abbrev VReads (s : State) (l : List VReg) : Prop := ∀ v ∈ l, (s.vecReg v).full = true ∧ (s.vecReg v).poison = none

/-- A vector destination without a result pending (R286), and a dispatch queue with room (R230). -/
abbrev VTakes (s : State) (d : VReg) : Prop := (s.vecReg d).settled = true ∧ s.curCore.dispatch.length < 16

/-- A vector instruction dispatched: its destination is empty, and the result with its flags waits for the array, to be written
`latency` cycles after its acceptance (R287). -/
abbrev vectored (s : State) (len : Nat) (d : VReg) (gens : List Reg) (r : BitVec 512 × Flags) (latency : Nat) : State :=
  ((((s.consume gens).vpending d).dispatch
    (.vec { kind := .vec (s.phys d) r.1 none, flags := r.2, latency := latency })).advance len).endWalks

/-- What R302 asks of a matrix step: the accumulator block in range, and each operand's rows inside the place that holds them. -/
def StepFits (s : State) (x : MatIssue) (alim blim : Nat) : Prop :=
  let dv := (s.val x.d).toNat
  let cp := if dv / 2 ^ 16 = 0 then x.n else dv / 2 ^ 16
  let ra := elemBytes x.atype x.k
  let ap := if x.apitch = 0 then ra else x.apitch
  let rb := elemBytes x.btype x.n
  let bp := if x.bpitch = 0 then rb else x.bpitch
  let rows := s.sourceRows x.m x.idx
  InWindow s x.idx.toList ∧ VReads s x.idx.toList ∧ Reads s ([x.d, x.a] ++ x.b.toList) ∧
    dv < 2 ^ 29 ∧ dv / 2 ^ 13 % 8 = 0 ∧ (1 < x.m → x.n ≤ cp) ∧ dv % 2 ^ 13 + (x.m - 1) * cp + x.n ≤ 8192 ∧
    s.placeLimit x.aplace = .ok alim ∧ (1 < x.m → ra ≤ ap) ∧
    0 ≤ (s.val x.a).toInt ∧ (s.val x.a).toInt + (rows.foldl max 0 * ap : Nat) + (ra : Nat) ≤ alim ∧
    (∀ b, x.b = some b → s.placeLimit x.bplace = .ok blim ∧ (1 < x.k → rb ≤ bp) ∧
      0 ≤ (s.val b).toInt ∧ (s.val b).toInt + ((x.k - 1) * bp : Nat) + (rb : Nat) ≤ blim) ∧
    s.curCore.dispatch.length < 16 ∧ s.ctx.openBatch.length < 127

/-- A matrix step dispatched, a member of the open batch (R301, R312). -/
def stepped (s : State) (len : Nat) (x : MatIssue) : State :=
  let dv := (s.val x.d).toNat
  let cmd : MatStep :=
    { part := s.cur.part, tid := s.curTid, gen := s.ctx.gen, shadow := s.cur.shadow, uid := s.ctx.uid, pc := s.ctx.pc,
      member := s.nextSeq, reuse := x.b.isNone, h := x.h,
      bound := s.nextAccess, m := x.m, k := x.k, n := x.n, atype := x.atype, btype := x.btype, aplace := x.aplace,
      bplace := x.bplace, aoff := (s.val x.a).toNat, boff := (match x.b with | some b => s.val b | none => 0).toNat,
      apitch := if x.apitch = 0 then elemBytes x.atype x.k else x.apitch,
      bpitch := if x.bpitch = 0 then elemBytes x.btype x.n else x.bpitch,
      rows := s.sourceRows x.m x.idx, abase := dv % 2 ^ 13, cpitch := if dv / 2 ^ 16 = 0 then x.n else dv / 2 ^ 16, zero := x.zero }
  let t := ({ s with nextSeq := s.nextSeq + 1 } : State).modCtx fun c => { c with openBatch := c.openBatch ++ [{ id := s.nextSeq }] }
  let t := if x.b.isSome then
      t.modCurCore fun C => { C with weights := { C.weights with lastK := x.k, lastN := x.n, lastBtype := x.btype } }
    else t
  (((t.consume ([x.d, x.a] ++ x.b.toList)).dispatch (.step cmd)).advance len).endWalks

/-- A value of two operands at a width (R121): the low bits of the operands, and the result sign-extended. -/
def wide (w : Width) (f : (n : Nat) → BitVec n → BitVec n → BitVec n) (a b : Word64) : Word64 :=
  match w with
  | .w32 => (f 32 (a.setWidth 32) (b.setWidth 32)).signExtend 64
  | .w64 => f 64 a b

/-- A test of two operands at a width. -/
def test (w : Width) (f : (n : Nat) → BitVec n → BitVec n → Bool) (a b : Word64) : Bool :=
  match w with
  | .w32 => f 32 (a.setWidth 32) (b.setWidth 32)
  | .w64 => f 64 a b

/-- One for a condition that holds at a width (R129). -/
def bit (w : Width) (f : (n : Nat) → BitVec n → BitVec n → Bool) (a b : Word64) : Word64 := if test w f a b then 1 else 0

/-- The value of a division by R125: all ones for a zero divisor, the most negative value over −1 unchanged, and otherwise
the quotient rounded toward zero. -/
def quotient (n : Nat) (x y : BitVec n) : BitVec n :=
  if y = 0 then BitVec.allOnes n
  else if x = BitVec.intMin n ∧ y = BitVec.allOnes n then x
  else BitVec.ofInt n (x.toInt.tdiv y.toInt)

/-- The remainder by R125. -/
def remainder (n : Nat) (x y : BitVec n) : BitVec n :=
  if y = 0 then x
  else if x = BitVec.intMin n ∧ y = BitVec.allOnes n then 0
  else BitVec.ofInt n (x.toInt - y.toInt * x.toInt.tdiv y.toInt)

def divu (n : Nat) (x y : BitVec n) : BitVec n := if y = 0 then BitVec.allOnes n else x / y
def remu (n : Nat) (x y : BitVec n) : BitVec n := if y = 0 then x else x % y
/-- DZ exactly when the divisor at the width is zero. -/
def dz (w : Width) (a b : Word64) : Flags := if test w (fun _ _ y => decide (y = 0)) a b then flagDz else 0

/-- An exact value clipped to the signed range of `n` bits (R127). -/
def clip (n : Nat) (v : Int) : BitVec n := BitVec.ofInt n (max (-2 ^ (n - 1)) (min v (2 ^ (n - 1) - 1)))
/-- Whether an exact value lies outside the signed range of `n` bits. -/
def outside (n : Nat) (v : Int) : Bool := decide (v < -2 ^ (n - 1) ∨ 2 ^ (n - 1) - 1 < v)
def sat (w : Width) (f : Int → Int → Int) (a b : Word64) : Flags :=
  if test w (fun n x y => outside n (f x.toInt y.toInt)) a b then flagSat else 0

/-- The shifts and rotations by `k` below the width (R126). -/
def shiftL (n : Nat) (x y : BitVec n) : BitVec n := x <<< (y.toNat % n)
def shiftR (n : Nat) (x y : BitVec n) : BitVec n := x >>> (y.toNat % n)
def shiftA (n : Nat) (x y : BitVec n) : BitVec n := x.sshiftRight (y.toNat % n)
def rotateL (n : Nat) (x y : BitVec n) : BitVec n := x.rotateLeft (y.toNat % n)
def rotateR (n : Nat) (x y : BitVec n) : BitVec n := x.rotateRight (y.toNat % n)

/-- The bits of a field of `len` bits from `pos`. -/
def field (n len pos : Nat) : BitVec n := (BitVec.allOnes len).setWidth n <<< pos

/-- The constructors that are no instruction's words: a step of an agent other than a thread. -/
def agentStep : Instr → Bool
  | .copyComplete .. | .waitwTimeout .. | .writebackRequest .. | .barrierArrival .. | .quiesceCircuitEnd ..
  | .messageDelivery .. | .accessApplication .. | .answerDelivery .. | .localAnswer .. | .depositRetry ..
  | .migrationArrival .. | .contextLoaded .. | .spillWrite .. | .spillRefill .. | .tableWalk ..
  | .pagerResolved .. | .pagerRefused .. | .invalidate .. | .invalidationDone .. | .ansqIgnored ..
  | .eccError .. | .patrolRead .. | .arrayAccept .. | .vectorResult .. | .matrixPass ..
  | .matrixStepComplete .. | .accCommandEffect .. | .tourReservation .. | .tourReadDone .. | .tourHandover ..
  | .holdOverrun .. | .tourWritebackDone .. | .ventTranslation .. | .ventRow .. | .ventCommandComplete ..
  | .cellChangeApply .. | .ghostRemoval .. | .crossingEnd .. | .cellSplit .. | .fold .. | .loadLevel ..
  | .launchWordWrite .. | .launchWordRead .. | .launchPacket .. | .launchDoneWrite .. | .windowRequest ..
  | .geyserTick .. | .geyserEnable .. | .geyserDisable .. | .geyserFieldWrite .. | .tokenArrival ..
  | .frameDrop .. | .ptpMessage .. | .ptpcfgWrite .. | .dtimesetLow .. | .dtimesetHigh .. | .streamOpen ..
  | .streamClose .. | .hostBar2Write .. | .hostBar2Read .. | .preemptRequest .. | .quantumExpiry ..
  | .partitionFreeze .. | .partitionResume .. | .sinterScrub .. | .vfEnable .. | .vfScrubDone ..
  | .vfTrack .. | .vfSnapshot .. | .vfctlWrite .. | .exportState .. | .importState .. | .quoteRequest ..
  | .quoteDone .. | .linkEnable .. | .linkDisable .. | .linkTrained .. | .linkTrainTimeout ..
  | .flitReplay .. | .fumcfgWrite .. | .send .. | .recv .. | .rrs .. | .copy .. | .wait .. | .loopStep ..
  | .endStep .. | .powerOn .. | .fwReset .. | .fwStage .. | .fwVerifyDone .. | .bootStartDone ..
  | .softerrClear .. | .powerPacing .. | .thermalPacing .. | .thermalHalt .. | .machineError ..
  | .registerWrite .. | .holdover .. | .pacingEnd .. | .sliceCacheEviction .. | .wintakeCopyDone .. => true
  | _ => false

end Sys2Proof.Says

open Sys2Proof Sys2Proof.Machine Sys2Proof.Says

/-- Where the sources can be read and the destination takes a result, `add`, `sub`, `mul`, `mulh` and `mulhu` complete in
their register and literal forms, and `add` and `mul` in their immediate form: the destination gets the value of the table of
R124 at the width, no flag is set, and the program counter goes on by the form's length. Where the sources can be read and the destination takes a result, `and`, `or`, `xor`, `andn` and `orn` complete in their
register and literal forms, and `and`, `or` and `xor` in their immediate form, whose immediate is zero-extended, with the
values of the table of R124 and no flag. -/
def Obligations.ArithmeticCompletes : Prop :=
  (∀ (s : State) (w : Width) (d a b : Reg) (lit : Word64) (imm : BitVec 14), Takes s d →
    (Reads s [a, b] →
      exec (.add w d a b) s = .next (wrote s 4 d [a, b] (wide w (fun _ x y => x + y) (s.val a) (s.val b)) 0) ∧
      exec (.sub w d a b) s = .next (wrote s 4 d [a, b] (wide w (fun _ x y => x - y) (s.val a) (s.val b)) 0) ∧
      exec (.mul w d a b) s = .next (wrote s 4 d [a, b] (wide w (fun _ x y => x * y) (s.val a) (s.val b)) 0) ∧
      exec (.mulh w d a b) s = .next (wrote s 4 d [a, b]
        (wide w (fun n x y => BitVec.ofInt n (x.toInt * y.toInt / 2 ^ n)) (s.val a) (s.val b)) 0) ∧
      exec (.mulhu w d a b) s = .next (wrote s 4 d [a, b]
        (wide w (fun n x y => BitVec.ofNat n (x.toNat * y.toNat / 2 ^ n)) (s.val a) (s.val b)) 0)) ∧
    (Reads s [a] →
      exec (.addLit w d a lit) s = .next (wrote s 12 d [a] (wide w (fun _ x y => x + y) (s.val a) lit) 0) ∧
      exec (.subLit w d a lit) s = .next (wrote s 12 d [a] (wide w (fun _ x y => x - y) (s.val a) lit) 0) ∧
      exec (.mulLit w d a lit) s = .next (wrote s 12 d [a] (wide w (fun _ x y => x * y) (s.val a) lit) 0) ∧
      exec (.mulhLit w d a lit) s = .next (wrote s 12 d [a]
        (wide w (fun n x y => BitVec.ofInt n (x.toInt * y.toInt / 2 ^ n)) (s.val a) lit) 0) ∧
      exec (.mulhuLit w d a lit) s = .next (wrote s 12 d [a]
        (wide w (fun n x y => BitVec.ofNat n (x.toNat * y.toNat / 2 ^ n)) (s.val a) lit) 0) ∧
      exec (.addImm w d a imm) s =
        .next (wrote s 4 d [a] (wide w (fun _ x y => x + y) (s.val a) (imm.signExtend 64)) 0) ∧
      exec (.mulImm w d a imm) s =
        .next (wrote s 4 d [a] (wide w (fun _ x y => x * y) (s.val a) (imm.signExtend 64)) 0))) ∧
  (∀ (s : State) (w : Width) (d a b : Reg) (lit : Word64) (imm : BitVec 14), Takes s d →
    (Reads s [a, b] →
      exec (.and w d a b) s = .next (wrote s 4 d [a, b] (wide w (fun _ x y => x &&& y) (s.val a) (s.val b)) 0) ∧
      exec (.or w d a b) s = .next (wrote s 4 d [a, b] (wide w (fun _ x y => x ||| y) (s.val a) (s.val b)) 0) ∧
      exec (.xor w d a b) s = .next (wrote s 4 d [a, b] (wide w (fun _ x y => x ^^^ y) (s.val a) (s.val b)) 0) ∧
      exec (.andn w d a b) s = .next (wrote s 4 d [a, b] (wide w (fun _ x y => x &&& ~~~y) (s.val a) (s.val b)) 0) ∧
      exec (.orn w d a b) s = .next (wrote s 4 d [a, b] (wide w (fun _ x y => x ||| ~~~y) (s.val a) (s.val b)) 0)) ∧
    (Reads s [a] →
      exec (.andLit w d a lit) s = .next (wrote s 12 d [a] (wide w (fun _ x y => x &&& y) (s.val a) lit) 0) ∧
      exec (.orLit w d a lit) s = .next (wrote s 12 d [a] (wide w (fun _ x y => x ||| y) (s.val a) lit) 0) ∧
      exec (.xorLit w d a lit) s = .next (wrote s 12 d [a] (wide w (fun _ x y => x ^^^ y) (s.val a) lit) 0) ∧
      exec (.andnLit w d a lit) s = .next (wrote s 12 d [a] (wide w (fun _ x y => x &&& ~~~y) (s.val a) lit) 0) ∧
      exec (.ornLit w d a lit) s = .next (wrote s 12 d [a] (wide w (fun _ x y => x ||| ~~~y) (s.val a) lit) 0) ∧
      exec (.andImm w d a imm) s =
        .next (wrote s 4 d [a] (wide w (fun _ x y => x &&& y) (s.val a) (imm.setWidth 64)) 0) ∧
      exec (.orImm w d a imm) s =
        .next (wrote s 4 d [a] (wide w (fun _ x y => x ||| y) (s.val a) (imm.setWidth 64)) 0) ∧
      exec (.xorImm w d a imm) s =
        .next (wrote s 4 d [a] (wide w (fun _ x y => x ^^^ y) (s.val a) (imm.setWidth 64)) 0)))

/-- Where the sources can be read and the destination takes a result, `div`, `divu`, `rem` and `remu` complete in their
register and literal forms with the values of R125: a zero divisor gives all ones or the dividend and sets DZ, the most
negative value over −1 gives itself or 0 with no flag, and every other pair gives the quotient rounded toward zero or the
remainder that belongs to it. -/
def Obligations.DivisionCompletes : Prop :=
  ∀ (s : State) (w : Width) (d a b : Reg) (lit : Word64), Takes s d →
    (Reads s [a, b] →
      exec (.div w d a b) s =
        .next (wrote s 4 d [a, b] (wide w quotient (s.val a) (s.val b)) (dz w (s.val a) (s.val b))) ∧
      exec (.divu w d a b) s =
        .next (wrote s 4 d [a, b] (wide w divu (s.val a) (s.val b)) (dz w (s.val a) (s.val b))) ∧
      exec (.rem w d a b) s =
        .next (wrote s 4 d [a, b] (wide w remainder (s.val a) (s.val b)) (dz w (s.val a) (s.val b))) ∧
      exec (.remu w d a b) s =
        .next (wrote s 4 d [a, b] (wide w remu (s.val a) (s.val b)) (dz w (s.val a) (s.val b)))) ∧
    (Reads s [a] →
      exec (.divLit w d a lit) s = .next (wrote s 12 d [a] (wide w quotient (s.val a) lit) (dz w (s.val a) lit)) ∧
      exec (.divuLit w d a lit) s = .next (wrote s 12 d [a] (wide w divu (s.val a) lit) (dz w (s.val a) lit)) ∧
      exec (.remLit w d a lit) s = .next (wrote s 12 d [a] (wide w remainder (s.val a) lit) (dz w (s.val a) lit)) ∧
      exec (.remuLit w d a lit) s = .next (wrote s 12 d [a] (wide w remu (s.val a) lit) (dz w (s.val a) lit)))

/-- Where the sources can be read and the destination takes a result, `adds` and `subs` complete in their register and
literal forms: they write the exact signed sum or difference clipped to the signed range of the width, and set SAT exactly
when the exact value lay outside it. -/
def Obligations.SaturatingCompletes : Prop :=
  ∀ (s : State) (w : Width) (d a b : Reg) (lit : Word64), Takes s d →
    (Reads s [a, b] →
      exec (.adds w d a b) s = .next (wrote s 4 d [a, b]
        (wide w (fun n x y => clip n (x.toInt + y.toInt)) (s.val a) (s.val b)) (sat w (· + ·) (s.val a) (s.val b))) ∧
      exec (.subs w d a b) s = .next (wrote s 4 d [a, b]
        (wide w (fun n x y => clip n (x.toInt - y.toInt)) (s.val a) (s.val b)) (sat w (· - ·) (s.val a) (s.val b)))) ∧
    (Reads s [a] →
      exec (.addsLit w d a lit) s = .next (wrote s 12 d [a]
        (wide w (fun n x y => clip n (x.toInt + y.toInt)) (s.val a) lit) (sat w (· + ·) (s.val a) lit)) ∧
      exec (.subsLit w d a lit) s = .next (wrote s 12 d [a]
        (wide w (fun n x y => clip n (x.toInt - y.toInt)) (s.val a) lit) (sat w (· - ·) (s.val a) lit)))

/-- Where the sources can be read and the destination takes a result, the shifts and rotations complete in their register,
literal and immediate forms with the values of R126: the count of the register and literal forms is taken modulo the width,
and that of the immediate form lies below it. Where the source can be read and the destination takes a result, `clz`, `ctz` and `popc` complete with the number of
leading zero bits, trailing zero bits and one bits of the source at the width, and `brev` with its bits in reverse order. -/
def Obligations.ShiftsAndBitsComplete : Prop :=
  (∀ (s : State) (w : Width) (d a b : Reg) (lit : Word64) (sh : BitVec 6), Takes s d →
    (Reads s [a, b] →
      exec (.shl w d a b) s = .next (wrote s 4 d [a, b] (wide w shiftL (s.val a) (s.val b)) 0) ∧
      exec (.shr w d a b) s = .next (wrote s 4 d [a, b] (wide w shiftR (s.val a) (s.val b)) 0) ∧
      exec (.sar w d a b) s = .next (wrote s 4 d [a, b] (wide w shiftA (s.val a) (s.val b)) 0) ∧
      exec (.rol w d a b) s = .next (wrote s 4 d [a, b] (wide w rotateL (s.val a) (s.val b)) 0) ∧
      exec (.ror w d a b) s = .next (wrote s 4 d [a, b] (wide w rotateR (s.val a) (s.val b)) 0)) ∧
    (Reads s [a] →
      exec (.shlLit w d a lit) s = .next (wrote s 12 d [a] (wide w shiftL (s.val a) lit) 0) ∧
      exec (.shrLit w d a lit) s = .next (wrote s 12 d [a] (wide w shiftR (s.val a) lit) 0) ∧
      exec (.sarLit w d a lit) s = .next (wrote s 12 d [a] (wide w shiftA (s.val a) lit) 0) ∧
      exec (.rolLit w d a lit) s = .next (wrote s 12 d [a] (wide w rotateL (s.val a) lit) 0) ∧
      exec (.rorLit w d a lit) s = .next (wrote s 12 d [a] (wide w rotateR (s.val a) lit) 0)) ∧
    (Reads s [a] → sh.toNat < w.bits →
      exec (.shlImm w d a sh) s = .next (wrote s 4 d [a] (wide w shiftL (s.val a) (sh.setWidth 64)) 0) ∧
      exec (.shrImm w d a sh) s = .next (wrote s 4 d [a] (wide w shiftR (s.val a) (sh.setWidth 64)) 0) ∧
      exec (.sarImm w d a sh) s = .next (wrote s 4 d [a] (wide w shiftA (s.val a) (sh.setWidth 64)) 0) ∧
      exec (.rolImm w d a sh) s = .next (wrote s 4 d [a] (wide w rotateL (s.val a) (sh.setWidth 64)) 0) ∧
      exec (.rorImm w d a sh) s = .next (wrote s 4 d [a] (wide w rotateR (s.val a) (sh.setWidth 64)) 0))) ∧
  (∀ (s : State) (w : Width) (d a : Reg), Takes s d → Reads s [a] →
    exec (.clz w d a) s = .next (wrote s 4 d [a] (wide w (fun n x _ =>
      BitVec.ofNat n (((List.range n).reverse.takeWhile fun i => !x.getLsbD i).length)) (s.val a) 0) 0) ∧
    exec (.ctz w d a) s = .next (wrote s 4 d [a] (wide w (fun n x _ =>
      BitVec.ofNat n (((List.range n).takeWhile fun i => !x.getLsbD i).length)) (s.val a) 0) 0) ∧
    exec (.popc w d a) s = .next (wrote s 4 d [a] (wide w (fun n x _ =>
      BitVec.ofNat n ((List.range n).countP fun i => x.getLsbD i)) (s.val a) 0) 0) ∧
    exec (.brev w d a) s = .next (wrote s 4 d [a] (wide w (fun _ x _ => x.reverse) (s.val a) 0) 0))

/-- Where the sources can be read and the destination takes a result, `min`, `max`, `minu` and `maxu` complete in their
register and literal forms, and `abs`, `mov` and `sel` in their one form, with the values of the tables of R124 and R128:
`sel` tests all 64 bits of its condition whatever its width. Where the sources can be read and the destination takes a result, `seq`, `sne`, `slt`, `sltu`, `sle` and `sleu` complete
in their register, literal and immediate forms and write 1 where their condition holds at the width, 0 otherwise (R129). -/
def Obligations.ChoicesAndComparesComplete : Prop :=
  (∀ (s : State) (w : Width) (d a b c : Reg) (lit : Word64), Takes s d →
    (Reads s [a, b] →
      exec (.min w d a b) s = .next (wrote s 4 d [a, b]
        (wide w (fun _ x y => if x.toInt ≤ y.toInt then x else y) (s.val a) (s.val b)) 0) ∧
      exec (.max w d a b) s = .next (wrote s 4 d [a, b]
        (wide w (fun _ x y => if y.toInt ≤ x.toInt then x else y) (s.val a) (s.val b)) 0) ∧
      exec (.minu w d a b) s = .next (wrote s 4 d [a, b]
        (wide w (fun _ x y => if x.toNat ≤ y.toNat then x else y) (s.val a) (s.val b)) 0) ∧
      exec (.maxu w d a b) s = .next (wrote s 4 d [a, b]
        (wide w (fun _ x y => if y.toNat ≤ x.toNat then x else y) (s.val a) (s.val b)) 0)) ∧
    (Reads s [a] →
      exec (.minLit w d a lit) s = .next (wrote s 12 d [a]
        (wide w (fun _ x y => if x.toInt ≤ y.toInt then x else y) (s.val a) lit) 0) ∧
      exec (.maxLit w d a lit) s = .next (wrote s 12 d [a]
        (wide w (fun _ x y => if y.toInt ≤ x.toInt then x else y) (s.val a) lit) 0) ∧
      exec (.minuLit w d a lit) s = .next (wrote s 12 d [a]
        (wide w (fun _ x y => if x.toNat ≤ y.toNat then x else y) (s.val a) lit) 0) ∧
      exec (.maxuLit w d a lit) s = .next (wrote s 12 d [a]
        (wide w (fun _ x y => if y.toNat ≤ x.toNat then x else y) (s.val a) lit) 0) ∧
      exec (.abs w d a) s = .next (wrote s 4 d [a]
        (wide w (fun n x _ => if x.toInt < 0 then BitVec.ofInt n (-x.toInt) else x) (s.val a) 0) 0) ∧
      exec (.mov w d a) s = .next (wrote s 4 d [a] (wide w (fun _ x _ => x) (s.val a) 0) 0)) ∧
    (Reads s [c, a, b] →
      exec (.sel w d a b c) s = .next (wrote s 4 d [c, a, b]
        (wide w (fun _ x _ => x) (if s.val c ≠ 0 then s.val a else s.val b) 0) 0))) ∧
  (∀ (s : State) (w : Width) (d a b : Reg) (lit : Word64) (imm : BitVec 11), Takes s d →
    (Reads s [a, b] →
      exec (.seq w d a b) s = .next (wrote s 4 d [a, b] (bit w (fun _ x y => x == y) (s.val a) (s.val b)) 0) ∧
      exec (.sne w d a b) s = .next (wrote s 4 d [a, b] (bit w (fun _ x y => x != y) (s.val a) (s.val b)) 0) ∧
      exec (.slt w d a b) s = .next (wrote s 4 d [a, b] (bit w (fun _ x y => x.slt y) (s.val a) (s.val b)) 0) ∧
      exec (.sltu w d a b) s = .next (wrote s 4 d [a, b] (bit w (fun _ x y => x.ult y) (s.val a) (s.val b)) 0) ∧
      exec (.sle w d a b) s = .next (wrote s 4 d [a, b] (bit w (fun _ x y => x.sle y) (s.val a) (s.val b)) 0) ∧
      exec (.sleu w d a b) s = .next (wrote s 4 d [a, b] (bit w (fun _ x y => x.ule y) (s.val a) (s.val b)) 0)) ∧
    (Reads s [a] →
      exec (.seqLit w d a lit) s = .next (wrote s 12 d [a] (bit w (fun _ x y => x == y) (s.val a) lit) 0) ∧
      exec (.sneLit w d a lit) s = .next (wrote s 12 d [a] (bit w (fun _ x y => x != y) (s.val a) lit) 0) ∧
      exec (.sltLit w d a lit) s = .next (wrote s 12 d [a] (bit w (fun _ x y => x.slt y) (s.val a) lit) 0) ∧
      exec (.sltuLit w d a lit) s = .next (wrote s 12 d [a] (bit w (fun _ x y => x.ult y) (s.val a) lit) 0) ∧
      exec (.sleLit w d a lit) s = .next (wrote s 12 d [a] (bit w (fun _ x y => x.sle y) (s.val a) lit) 0) ∧
      exec (.sleuLit w d a lit) s = .next (wrote s 12 d [a] (bit w (fun _ x y => x.ule y) (s.val a) lit) 0) ∧
      exec (.seqImm w d a imm) s =
        .next (wrote s 4 d [a] (bit w (fun _ x y => x == y) (s.val a) (imm.signExtend 64)) 0) ∧
      exec (.sneImm w d a imm) s =
        .next (wrote s 4 d [a] (bit w (fun _ x y => x != y) (s.val a) (imm.signExtend 64)) 0) ∧
      exec (.sltImm w d a imm) s =
        .next (wrote s 4 d [a] (bit w (fun _ x y => x.slt y) (s.val a) (imm.signExtend 64)) 0) ∧
      exec (.sltuImm w d a imm) s =
        .next (wrote s 4 d [a] (bit w (fun _ x y => x.ult y) (s.val a) (imm.setWidth 64)) 0) ∧
      exec (.sleImm w d a imm) s =
        .next (wrote s 4 d [a] (bit w (fun _ x y => x.sle y) (s.val a) (imm.signExtend 64)) 0) ∧
      exec (.sleuImm w d a imm) s =
        .next (wrote s 4 d [a] (bit w (fun _ x y => x.ule y) (s.val a) (imm.setWidth 64)) 0)))

/-- Where the sources can be read and the destination takes a result, `bfx`, `bfi`, `sext` and `zext` complete for every
field inside the width with the values of R130 (`bfi` reads its destination), `movi` in both encodings with its constant, and
`saddr` with the address of an offset from a segment's base modulo 2^52, which is checked in no way (R131, R132). -/
def Obligations.FieldsComplete : Prop :=
  ∀ (s : State) (w : Width) (d a : Reg) (lenM1 pos : BitVec 6) (imm : BitVec 19) (lit : Word64) (n : Seg) (off : BitVec 14),
    Takes s d →
    (Reads s [a] → pos.toNat + (lenM1.toNat + 1) ≤ w.bits →
      exec (.bfx w d a lenM1 pos) s = .next (wrote s 4 d [a]
        (wide w (fun n x _ => (x.extractLsb' pos.toNat (lenM1.toNat + 1)).setWidth n) (s.val a) 0) 0)) ∧
    (Reads s [d, a] → pos.toNat + (lenM1.toNat + 1) ≤ w.bits →
      exec (.bfi w d a lenM1 pos) s = .next (wrote s 4 d [d, a]
        (wide w (fun n x y => (x &&& ~~~field n (lenM1.toNat + 1) pos.toNat) |||
          ((y <<< pos.toNat) &&& field n (lenM1.toNat + 1) pos.toNat)) (s.val d) (s.val a)) 0)) ∧
    (Reads s [a] → lenM1.toNat + 1 ≤ w.bits →
      exec (.sext w d a lenM1) s = .next (wrote s 4 d [a]
        (wide w (fun n x _ => (x.setWidth (lenM1.toNat + 1)).signExtend n) (s.val a) 0) 0) ∧
      exec (.zext w d a lenM1) s = .next (wrote s 4 d [a]
        (wide w (fun n x _ => (x.setWidth (lenM1.toNat + 1)).setWidth n) (s.val a) 0) 0)) ∧
    exec (.movi d imm) s = .next (wrote s 4 d [] (imm.signExtend 64) 0) ∧
    exec (.moviLit d lit) s = .next (wrote s 12 d [] lit 0) ∧
    exec (.saddr d n off) s = .next (wrote s 4 d []
      (BitVec.ofInt 64 (((s.seg n).base.toNat + off.toInt) % 2 ^ 52)) 0)

/-- Where the sources can be read, every branch completes with nothing written but what reading an input channel consumes:
a taken branch goes to its own address plus its offset in words modulo 2^52, and one not taken goes to the next word; the
conditions compare all 64 bits (R133, R135). `call` writes its own address plus 4 to g15 and goes to its target. `jr` and `jalr` go to the address in their
source, read before the return address is written, when its two low bits and its bits from 52 up are zero; a misaligned one
takes the alignment trap and one out of the address space the segment trap, with nothing written. `loop` lowers its counter,
which never wraps below 0, and goes to its target while the counter is not zero (R136, R137). -/
def Obligations.BranchesAndJumpsComplete : Prop :=
  (∀ (s : State) (a b : Reg) (off23 : BitVec 23) (off15 : BitVec 15) (off11 : BitVec 11),
    let go (srcs : List Reg) (taken : Prop) [Decidable taken] (k : BitVec 50) : State :=
      (if taken then (s.consume srcs).jump (s.ctx.pc + k) else (s.consume srcs).advance 4).endWalks
    exec (.br off23) s = .next (go [] True (off23.signExtend 50)) ∧
    (Reads s [a] →
      exec (.bz a off15) s = .next (go [a] (s.val a = 0) (off15.signExtend 50)) ∧
      exec (.bnz a off15) s = .next (go [a] (s.val a ≠ 0) (off15.signExtend 50))) ∧
    (Reads s [a, b] →
      exec (.beq a b off11) s = .next (go [a, b] (s.val a = s.val b) (off11.signExtend 50)) ∧
      exec (.bne a b off11) s = .next (go [a, b] (s.val a ≠ s.val b) (off11.signExtend 50)) ∧
      exec (.blt a b off11) s = .next (go [a, b] ((s.val a).toInt < (s.val b).toInt) (off11.signExtend 50)) ∧
      exec (.bge a b off11) s = .next (go [a, b] ((s.val b).toInt ≤ (s.val a).toInt) (off11.signExtend 50)) ∧
      exec (.bltu a b off11) s = .next (go [a, b] ((s.val a).toNat < (s.val b).toNat) (off11.signExtend 50)) ∧
      exec (.bgeu a b off11) s = .next (go [a, b] ((s.val b).toNat ≤ (s.val a).toNat) (off11.signExtend 50)))) ∧
  (∀ (s : State) (d a : Reg) (off23 : BitVec 23) (off15 : BitVec 15),
    let ret : Word64 := BitVec.ofNat 64 (s.ctx.pc.toNat * 4 + 4)
    (Takes s 15 → exec (.call off23) s = .next ((s.write 15 ret).jump (s.ctx.pc + off23.signExtend 50)).endWalks) ∧
    (Reads s [a] → (s.val a).toNat % 4 = 0 → (s.val a).toNat < 2 ^ 52 →
      exec (.jr a) s = .next ((s.consume [a]).jump (BitVec.ofNat 50 ((s.val a).toNat / 4))).endWalks ∧
      (Takes s d → exec (.jalr d a) s =
        .next (((s.consume [a]).write d ret).jump (BitVec.ofNat 50 ((s.val a).toNat / 4))).endWalks)) ∧
    (Reads s [a] → Takes s d → (s.val a).toNat % 4 ≠ 0 →
      exec (.jr a) s = .next (s.takeTrap 4 (s.val a) s.ctx.pc).endWalks ∧
      exec (.jalr d a) s = .next (s.takeTrap 4 (s.val a) s.ctx.pc).endWalks) ∧
    (Reads s [a] → Takes s d → (s.val a).toNat % 4 = 0 → 2 ^ 52 ≤ (s.val a).toNat →
      exec (.jr a) s = .next (s.takeTrap 3 (s.val a) s.ctx.pc).endWalks ∧
      exec (.jalr d a) s = .next (s.takeTrap 3 (s.val a) s.ctx.pc).endWalks) ∧
    (Reads s [a] → Takes s a →
      exec (.loop a off15) s = .next
        (if 1 < (s.val a).toNat then (((s.consume [a]).write a (s.val a - 1)).jump (s.ctx.pc + off15.signExtend 50)).endWalks
         else (((s.consume [a]).write a 0).advance 4).endWalks)))

/-- `nop` only goes on. `crd` completes for every control register where the destination takes a result and, for `FLAGS`,
no vector result of the thread is outstanding: the destination gets the register's value, whose bits are as R110 and, for
`GUARDLOG`, R143 lay them out; an instruction reads its own address from `PC`, and `DTIME` gives the seconds and nanoseconds of
the caldera's copy, which never decreases and lies within 2 ns of the hub's time or at what was read before (R352); in deterministic
mode the reading is recorded (R119), by the code of device time (log 113: the model's choice). -/
def Obligations.ControlReads : Prop :=
  ∀ (s : State) (d : Reg) (cr : BitVec 6),
    exec .nop s = .next (s.advance 4).endWalks ∧
    (Takes s d → cr ≠ 1 → cr ≠ 0x0D → exec (.crd d cr) s = .next ((s.write d (s.crValue cr.toNat).2).advance 4).endWalks) ∧
    (Takes s d → s.vectorPending s.cur.part s.curTid s.ctx.gen = false →
      exec (.crd d 1) s = .next ((s.write d (s.ctx.flags.setWidth 64)).advance 4).endWalks) ∧
    (Takes s d → ∃ (t : State) (time : Nat),
      exec (.crd d 0x0D) s = .next ((t.write d (BitVec.ofNat 64
        (time / (10 ^ 9 * 2 ^ 16) % 2 ^ 32 * 2 ^ 32 + time % (10 ^ 9 * 2 ^ 16) / 2 ^ 16))).advance 4).endWalks ∧
      t.ctx = s.ctx ∧ t.mem = s.mem ∧ t.accesses = s.accesses ∧ t.windows.dtime = s.windows.dtime ∧
      (s.curPart.det = true → t.curPart.dcause.getLsbD 54 = true) ∧
      let k := calderaOf s.quadNo
      t.windows.copies.getD k 0 = time ∧ s.windows.copies.getD k 0 ≤ time ∧
      (time = s.windows.copies.getD k 0 ∨ (s.windows.dtime ≤ time + 2 * 2 ^ 16 ∧ time ≤ s.windows.dtime + 2 * 2 ^ 16))) ∧
    (s.crValue 0x00).2.toNat = s.ctx.pc.toNat * 4 ∧
    (s.crValue 0x01).2.toNat = s.ctx.flags.toNat ∧
    (s.crValue 0x02).2.toNat = s.ctx.tvec.toNat * 4 ∧
    (s.crValue 0x03).2.toNat = s.ctx.tepc.toNat * 4 ∧
    (s.crValue 0x04).2.toNat = s.ctx.tcause.toNat ∧
    (s.crValue 0x05).2 = s.ctx.tval ∧
    (s.crValue 0x06).2.toNat = s.ctx.vwinSize.toNat * 32 + s.ctx.vwinBase.toNat ∧
    (s.crValue 0x07).2.toNat = s.ctx.posY.toNat * 2 ^ 32 + s.ctx.posX.toNat ∧
    (s.crValue 0x08).2.toInt = s.ctx.posZ.toInt ∧
    (s.crValue 0x09).2.toNat = s.ctx.wuY.toNat * 2 ^ 24 + s.ctx.wuX.toNat ∧
    (s.crValue 0x0A).2.toNat = s.ctx.wuZ.toNat ∧
    (s.crValue 0x0B).2 = BitVec.ofNat 64 (s.cur.core * 16 + s.cur.ctx) ∧
    (s.ctx.committed.length < 16 → (s.crValue 0x0C).2.toNat = (if s.ctx.openBatch = [] then 0 else 16) + s.ctx.committed.length) ∧
    (s.crValue 0x0E).2 = s.curPart.dcause ∧
    (s.crValue 0x0F).2 = s.curPart.conflict ∧
    (let g := s.curCore.guardLog
     (s.crValue 0x10).2.toNat = (if g.v then 2 ^ 63 else 0) + (if g.more then 2 ^ 62 else 0) + (if g.wr then 2 ^ 61 else 0) +
       g.pend.toNat * 2 ^ 32 + g.ctx.toNat * 2 ^ 20 + g.offset.toNat / 4 % 16 * 2 ^ 16 + g.offset.toNat) ∧
    (s.crValue 0x11).2.toNat =
      s.ctx.partialBytes.toNat * 8 + (if s.cur.ctx = 0 then 4 else 0) + (if s.ctx.wake then 2 else 0) + (if s.ctx.inh then 1 else 0) ∧
    (s.crValue 0x12).2.toNat = s.curCore.hmask.toNat

/-- `cwr` of `FLAGS`, `TVEC`, `TEPC`, `TCAUSE` and `TVAL` completes where its source can be read, and writes the bits that
R110 names; one of `GUARDLOG` completes in context zero and takes the privilege trap in any other context before any
operand is read, and where it completes CLR clears all but PEND and SETG sets the guards of its range; one of `VWIN`, with no vector
result of the thread to come, grants a window; a handler address that is not aligned takes the alignment trap. A granted window is the
lowest free run of registers, which are zero, full and unpoisoned in it, and the old window and PARTIAL are gone; with none free, or for
a size of 0 or above 32, the thread has no window and no register changes; nothing else of the context changes (R143, R285). -/
def Obligations.ControlWrites : Prop :=
  ∀ (s : State) (a : Reg),
    let v := s.val a
    let done (t : State) : State := ((t.consume [a]).advance 4).endWalks
    (Reads s [a] →
      exec (.cwr 0x01 a) s = .next (done (s.modCtx fun c => { c with flags := v.setWidth 6 })) ∧
      (v.toNat % 4 = 0 → exec (.cwr 0x02 a) s = .next (done (s.modCtx fun c => { c with tvec := BitVec.ofNat 50 (v.toNat / 4) }))) ∧
      (v.toNat % 4 ≠ 0 → exec (.cwr 0x02 a) s = .next (s.takeTrap 4 v s.ctx.pc).endWalks) ∧
      exec (.cwr 0x03 a) s =
        .next (done (s.modCtx fun c => { c with tepc := BitVec.ofNat 50 (v.toNat / 4), partialBytes := 0, index := none })) ∧
      exec (.cwr 0x04 a) s = .next (done (s.modCtx fun c => { c with tcause := v.setWidth 5 })) ∧
      exec (.cwr 0x05 a) s = .next (done (s.modCtx fun c => { c with tval := v })) ∧
      (s.vectorPending s.cur.part s.curTid s.ctx.gen = false → s.windowPending = none →
        exec (.cwr 0x06 a) s = .next (done (s.grantWindow (v.toNat / 32 % 64)))) ∧
      (s.cur.ctx = 0 → Plain s → exec (.cwr 0x10 a) s = .next (done (s.modCurCore fun C => C.guardCommand v)))) ∧
    (∀ C : Core,
      (C.guardCommand v).guardLog = (if v.getLsbD 63 then { pend := C.guardLog.pend } else C.guardLog) ∧
      ∀ i < 1024, (C.guardCommand v).guarded.contains i =
        (if v.getLsbD 62 = true ∧ v.toNat % 1024 ≤ i ∧ i ≤ v.toNat / 1024 % 1024 then v.getLsbD 61 else C.guarded.contains i)) ∧
    (∀ n : Nat, Plain s →
      let t := s.grantWindow n
      let run (b : Nat) : Prop := b + n ≤ 32 ∧ ∀ i < n, s.windowHeld s.cur.part s.cur.core s.cur.ctx (b + i) = false
      ((n = 0 ∨ 32 < n ∨ ∀ b, ¬ run b) →
        t.ctx = { s.ctx with partialBytes := 0, vwinSize := 0, vwinBase := 0 } ∧
          ∀ v, t.vreg s.cur.part s.cur.core v = s.vreg s.cur.part s.cur.core v) ∧
      (∀ b, n ≠ 0 → n ≤ 32 → run b → (∀ c < b, ¬ run c) →
        t.ctx = { s.ctx with partialBytes := 0, vwinSize := BitVec.ofNat 6 n, vwinBase := BitVec.ofNat 5 b } ∧
          ∀ v, t.vreg s.cur.part s.cur.core v =
            if b ≤ v ∧ v < b + n then { val := 0, full := true, poison := none } else s.vreg s.cur.part s.cur.core v)) ∧
    (s.cur.ctx ≠ 0 → exec (.cwr 0x10 a) s = .next (s.takeTrap 2 (firstWord (.cwr 0x10 a)) s.ctx.pc).endWalks)

/-- `trap` takes cause 14 with its code and the address of the next instruction, `brk` cause 15 with its code and its own
address unless debug halt is set, in which case the thread halts with reason BREAK, and a word that is no instruction
cause 1 with the word and its address; no operand is read (R63, R111, R115). `rett` in a handler goes to `TEPC` and clears INH, and changes no register, flag, byte of memory or other context; outside a
handler it takes the illegal-instruction trap with its own word (R115). -/
def Obligations.TrapsAndReturn : Prop :=
  (∀ (s : State) (code : BitVec 6) (word : Word32),
    exec (.trap code) s = .next (s.takeTrap 14 (code.setWidth 64) (s.ctx.pc + 1)).endWalks ∧
    ((s.func s.cur.part).debug = false →
      exec (.brk code) s = .next (s.takeTrap 15 (code.setWidth 64) s.ctx.pc).endWalks) ∧
    ((s.func s.cur.part).debug = true → Plain s →
      exec (.brk code) s = .next ((s.modCtx fun c => { c with tepc := c.pc, tval := code.setWidth 64 }).haltThread
        s.cur.part s.cur.core s.cur.ctx .brk 15 code.toNat).endWalks) ∧
    exec (.illegalInstruction word) s = .next (s.takeTrap 1 (word.setWidth 64) s.ctx.pc).endWalks) ∧
  (∀ (s : State), Plain s →
    (s.ctx.inh = true → ∃ t, exec .rett s = .next t ∧ t.ctx.pc = s.ctx.tepc ∧ t.ctx.inh = false ∧
      t.ctx.regs = s.ctx.regs ∧ t.ctx.flags = s.ctx.flags ∧ t.ctx.segs = s.ctx.segs ∧ t.ctx.tepc = s.ctx.tepc ∧
      t.ctx.tcause = s.ctx.tcause ∧ t.ctx.tval = s.ctx.tval ∧ t.ctx.tvec = s.ctx.tvec ∧ t.ctx.state = s.ctx.state ∧
      t.mem = s.mem ∧ t.accesses = s.accesses ∧
      ∀ p core n, (p, core, n) ≠ (s.cur.part, s.cur.core, s.cur.ctx) → t.context p core n = s.context p core n) ∧
    (s.ctx.inh = false → exec .rett s = .next (s.takeTrap 1 (firstWord .rett) s.ctx.pc).endWalks))

/-- A precise trap of a thread (R112): with INH set the thread halts as NESTED and `TEPC`, `TCAUSE` and `TVAL` keep the first
trap; without a vector they describe this trap, INH stays clear and the thread halts as NOVEC; otherwise they describe it,
INH is set and the program counter is `TVEC`, and the general registers with their FE bits, the flags, memory, every access in
flight and every other context are unchanged. -/
def Obligations.TrapEntry : Prop :=
  ∀ (s : State) (cause : Nat) (value : Word64) (tepc : BitVec 50), Plain s → cause ≠ 12 → cause ≠ 13 →
    (s.ctx.inh = true →
      s.takeTrap cause value tepc = s.haltThread s.cur.part s.cur.core s.cur.ctx .nested cause value.toNat) ∧
    (s.ctx.inh = false → s.ctx.tvec = 0 →
      s.takeTrap cause value tepc =
        (s.modCtx fun c => { c with tepc := tepc, tcause := BitVec.ofNat 5 cause, tval := value, phase := .fresh, reply := none,
                                    rep := none }).haltThread s.cur.part s.cur.core s.cur.ctx .novec cause value.toNat) ∧
    (s.ctx.inh = false → s.ctx.tvec ≠ 0 →
      let t := s.takeTrap cause value tepc
      t.ctx.tepc = tepc ∧ t.ctx.tcause = BitVec.ofNat 5 cause ∧ t.ctx.tval = value ∧ t.ctx.inh = true ∧
      t.ctx.pc = s.ctx.tvec ∧ t.ctx.regs = s.ctx.regs ∧ t.ctx.flags = s.ctx.flags ∧ t.ctx.segs = s.ctx.segs ∧
      t.ctx.tvec = s.ctx.tvec ∧ t.ctx.state = s.ctx.state ∧ t.mem = s.mem ∧ t.accesses = s.accesses ∧
      ∀ p core n, (p, core, n) ≠ (s.cur.part, s.cur.core, s.cur.ctx) → t.context p core n = s.context p core n)

/-- When context `n` other than zero halts, for a reason that costs no region, it is HALTED with its halt record, bit `n` of
`HMASK` is set, and context zero has its WAKE bit set, in whatever state it is; a context zero that `park` has parked
is RUNNABLE again at the end of the cycle, its WAKE bit taken (R108, R109, R117, R118). This is less than R109 says: context zero's own
halt and a halt that costs a region are left out; and that its wake goes by the WAKE bit and the end of the cycle is the model's way of
it. -/
def Obligations.HaltWakesZero : Prop :=
  ∀ (s : State) (p core n : Nat) (reason : HaltReason) (cause value : Nat), n ≠ 0 → n < 16 → reason ≠ .fillref →
    let t := s.haltThread p core n reason cause value
    (t.context p core n).state = .halted ∧ (t.context p core n).haltReason = reason ∧
    (t.context p core n).haltCause = BitVec.ofNat 5 cause ∧ (t.context p core n).haltValue = BitVec.ofNat 32 value ∧
    (t.core p core).hmask = (s.core p core).hmask ||| BitVec.ofNat 16 (2 ^ n) ∧
    (t.context p core 0).wake = true ∧
    (∀ u : State, Plain u → u.ctx.state = .parked .byPark → u.ctx.wake = true →
      u.wakeThread.ctx.state = .runnable ∧ u.wakeThread.ctx.wake = false)

/-- In context zero `start` completes where its operands stand: with no context to start it writes all ones, and otherwise the
context it takes is LOADING from the image that is named, or from the current region's, and its number is written. `reap` of
a FREE context writes all ones, and of a HALTED one whose merges are done its record; that context's bit of `HMASK` is cleared
and the context is FREE or takes the thread that waits for it. In every other context both take the privilege trap before
any operand is read (R113, R117). That a context started after the current region has ended belongs to no region is the model's choice
(log 40, DEDUCED). -/
def Obligations.StartReap : Prop :=
  ∀ (s : State) (d a b : Reg), Plain s →
    (s.cur.ctx = 0 → Reads s [a, b] → Takes s d → s.ctx.acquiring = [] → (s.val a).toNat < 16 →
      let img := if s.val b = 0 then BitVec.ofNat 64 s.curCore.curImage else s.val b
      img.toNat % 64 = 0 → img.toNat < 2 ^ 52 →
      (s.startTarget (s.val a).toNat = none →
        exec (.start d a b) s = .next (((s.consume [a, b]).write d (BitVec.allOnes 64)).advance 4).endWalks) ∧
      (∀ n, s.startTarget (s.val a).toNat = some n →
        exec (.start d a b) s = .next ((((s.consume [a, b]).fillContext s.cur.part s.cur.core n img.toNat
          (if s.val b = 0 ∧ s.curCore.curSegt ≠ 0 then some s.curCore.curSegt else none)
          (if (s.curPart.regions.find? s.curCore.curRegion).isSome then some s.curCore.curRegion else none)
          s.curCore.curAsid (s.curCore.curX, s.curCore.curY, s.curCore.curZ)).write d (BitVec.ofNat 64 n)).advance 4).endWalks)) ∧
    (s.cur.ctx = 0 → Reads s [a] → Takes s d → 1 ≤ (s.val a).toNat → (s.val a).toNat ≤ 15 →
      let n := (s.val a).toNat
      let c := s.context s.cur.part s.cur.core n
      (c.state = .free →
        exec (.reap d a) s = .next (((s.consume [a]).write d (BitVec.allOnes 64)).advance 4).endWalks) ∧
      (c.state = .halted → s.mergePending s.cur.part (s.cur.core * 16 + n) c.gen = false →
        exec (.reap d a) s = .next (((((s.consume [a]).write d
          (BitVec.ofNat 64 (c.haltCause.toNat * 2 ^ 36 + c.haltReason.code * 2 ^ 32 + c.haltValue.toNat))).advance 4).modCurCore
            fun C => { C with hmask := C.hmask &&& ~~~ BitVec.ofNat 16 (2 ^ n) }).freeContext s.cur.part s.cur.core n).endWalks)) ∧
    (s.cur.ctx ≠ 0 →
      exec (.start d a b) s = .next (s.takeTrap 2 (firstWord (.start d a b)) s.ctx.pc).endWalks ∧
      exec (.reap d a) s = .next (s.takeTrap 2 (firstWord (.reap d a)) s.ctx.pc).endWalks)

/-- The thread-local instructions of R118 complete: `exit` outside context zero halts the thread with its value once its
accesses are answered, its merges done and no report is pending, and in context zero takes the privilege trap; `park` takes a
pending wake or parks past itself; `wake` wakes a context of the core, one whose thread is MIGRATING too, whose WAKE does not travel (log 137: the
model's choice); `yield` gives up donated slots, in throughput mode only;
`arm` empties and arms a register with no result pending; `put` sends a deposit to the register and thread that its source
names, when they are of the partition. -/
def Obligations.ThreadLocal : Prop :=
  ∀ (s : State) (a b d : Reg), Plain s →
    (s.cur.ctx ≠ 0 → Reads s [a] → (s.curCore.guardLog.pend >>> s.cur.ctx) &&& 1 ≠ 1 → s.ctx.openBatch = [] →
      s.accessPending s.cur.part s.curTid = false → s.mergePending s.cur.part s.curTid s.ctx.gen = false → s.ctx.errorRec = 0 →
      exec (.exit a) s = .next (s.haltThread s.cur.part s.cur.core s.cur.ctx .exit 0 (s.val a).toNat).endWalks) ∧
    (s.cur.ctx = 0 → exec (.exit a) s = .next (s.takeTrap 2 (firstWord (.exit a)) s.ctx.pc).endWalks) ∧
    (s.ctx.wake = true → exec .park s = .next ((s.advance 4).endWalks.modCtx fun c => { c with wake := false })) ∧
    (s.ctx.wake = false → exec .park s = .next ((s.advance 4).endWalks.park .byPark)) ∧
    (Reads s [a] → exec (.wake a) s =
      .next (((s.consume [a]).advance 4).wakeContext s.cur.part s.cur.core ((s.val a).toNat % 16)).endWalks) ∧
    (s.curPart.det = false → exec .yield s = .next ((s.modCtx fun c => { c with yielded := true }).advance 4).endWalks) ∧
    (s.curPart.det = true → exec .yield s = .next (s.advance 4).endWalks) ∧
    ((s.reg d).pending = false → exec (.arm d) s =
      .next ((s.setReg d { val := s.val d, full := false, armed := true, poison := none }).advance 4).endWalks) ∧
    (Reads s [a, b] → s.ctx.acquiring = [] → s.portUsed s.cur.part s.cur.core < 8 → (s.val a).toNat < 2 ^ 23 →
      s.curPart.hasCore (coreOf ((s.val a).toNat % 2 ^ 19)) = true →
      exec (.put a b) s = .next (((s.consume [a, b]).sendDeposit ((s.val a).toNat % 2 ^ 19)
        (Fin.ofNat 16 ((s.val a).toNat / 2 ^ 19)) (s.val b) none).advance 4).endWalks)

/-- Every form of `ld` completes where its address register can be read, its destination takes a result, no acquire of the
thread is unanswered, and the address lies in the segment with right R and is aligned to its size: through a memory
segment with a cached translation the load is in flight to the home of its address, with ACQ holding the thread's later
accesses; through a K segment the bytes are read at once, logged and zero where a granule is guarded, and the result is
written four cycles later (R168 to R172). -/
def Obligations.LoadsComplete : Prop :=
  ∀ (s : State) (size : Fin 4) (sx : Bool) (sg : Seg) (d a : Reg) (off : BitVec 8) (lit : Word64) (sc : Scope),
    let n : Nat := 2 ^ size.val
    let ext := if sx then Ext.sign else Ext.zero
    let short := (s.val a).toInt + off.toInt * n
    let long := (s.val a).toInt + lit.toInt
    let g := s.seg sg
    let here (len : Nat) (addr : Nat) : State :=
      let (t, bytes, poison) := s.spadLoad s.cur.part s.cur.core s.cur.ctx addr n
      ((((t.consume [a]).writePending d).answerAccess 4
        (match poison with | some l => .regPoison d l | none => .reg d (extendBytes ext bytes))).advance len).endWalks
    Reads s [a] → Takes s d → s.ctx.acquiring = [] →
    (InSegment g short n rightR → g.addr short % n = 0 →
      (g.isK = false → Placed s (g.addr short) n true →
        exec (.ld size sx sg d a off) s = .next (issued s 4 [a] [d] (.load (.reg d ext)) (g.addr short) n none false) ∧
        exec (.ldAcq sc size sx sg d a off) s =
          .next (issued s 12 [a] [d] (.load (.reg d ext)) (g.addr short) n none true)) ∧
      (g.isK = true →
        exec (.ld size sx sg d a off) s = .next (here 4 (g.addr short)) ∧
        exec (.ldAcq sc size sx sg d a off) s = .next (here 12 (g.addr short)))) ∧
    (InSegment g long n rightR → g.addr long % n = 0 →
      (g.isK = false → Placed s (g.addr long) n true →
        exec (.ldLit size sx sg d a lit) s = .next (issued s 12 [a] [d] (.load (.reg d ext)) (g.addr long) n none false) ∧
        exec (.ldAcqLit sc size sx sg d a lit) s =
          .next (issued s 20 [a] [d] (.load (.reg d ext)) (g.addr long) n none true)) ∧
      (g.isK = true →
        exec (.ldLit size sx sg d a lit) s = .next (here 12 (g.addr long)) ∧
        exec (.ldAcqLit sc size sx sg d a lit) s = .next (here 20 (g.addr long))))

/-- Every form of `st` completes where its registers can be read, no acquire of the thread is unanswered, and the address
lies in the segment with right W and is aligned: through a memory segment with a cached translation the low bytes of the
data register are in flight to the home, a release with its scope; through a K segment they are applied at once, a release
when no earlier access in its scope is unanswered (R168 to R172). -/
def Obligations.StoresComplete : Prop :=
  ∀ (s : State) (size : Fin 4) (sg : Seg) (d a : Reg) (off : BitVec 8) (lit : Word64) (sc : Scope),
    let n : Nat := 2 ^ size.val
    let bytes := bytesOfNat n (s.val d).toNat
    let short := (s.val a).toInt + off.toInt * n
    let long := (s.val a).toInt + lit.toInt
    let g := s.seg sg
    let here (len : Nat) (addr : Nat) : State :=
      (((s.spadStore s.cur.part s.cur.core s.cur.ctx addr bytes s.ctx.pc).consume [a, d]).advance len).endWalks
    let quiet : Prop := s.pendingBefore s.cur.part s.issuer s.cur.core s.nextAccess (some sc) = false
    Reads s [a, d] → s.ctx.acquiring = [] →
    (InSegment g short n rightW → g.addr short % n = 0 →
      (g.isK = false → Placed s (g.addr short) n false →
        exec (.st size sg d a off) s = .next (issued s 4 [a, d] [] (.store bytes false) (g.addr short) n none false) ∧
        exec (.stRel sc size sg d a off) s =
          .next (issued s 12 [a, d] [] (.store bytes false) (g.addr short) n (some sc) false)) ∧
      (g.isK = true →
        exec (.st size sg d a off) s = .next (here 4 (g.addr short)) ∧
        (quiet → exec (.stRel sc size sg d a off) s = .next (here 12 (g.addr short))))) ∧
    (InSegment g long n rightW → g.addr long % n = 0 →
      (g.isK = false → Placed s (g.addr long) n false →
        exec (.stLit size sg d a lit) s = .next (issued s 12 [a, d] [] (.store bytes false) (g.addr long) n none false) ∧
        exec (.stRelLit sc size sg d a lit) s =
          .next (issued s 20 [a, d] [] (.store bytes false) (g.addr long) n (some sc) false)) ∧
      (g.isK = true →
        exec (.stLit size sg d a lit) s = .next (here 12 (g.addr long)) ∧
        (quiet → exec (.stRelLit sc size sg d a lit) s = .next (here 20 (g.addr long)))))

/-- In every form of `ld`, `st`, `segld`, `segst`, `ldv`, `stv`, `gath`, `scat`, `amo`, `cas`, `red` and `waitw`, an instruction whose operands
stand takes the segment trap with the address that it would have accessed when the access does not lie in the segment or the segment lacks
the right, and otherwise the alignment trap with the address when that is not aligned as the form asks; the trap is all that happens. A
vector access is checked from PARTIAL on, and `gath` and `scat` lane by lane, every segment check before any alignment check (R139, R140,
R160, R169, R173, R174, R179, R191). -/
def Obligations.AccessTraps : Prop :=
  ∀ (s : State) (size : Fin 4) (sx : Bool) (sg sd : Seg) (d a b : Reg) (off : BitVec 8) (voff : BitVec 7) (lit : Word64) (sc : Scope)
    (h : Header) (op : AmoOp) (w : Width) (e : ElemType) (v idx : VReg),
    let n : Nat := 2 ^ size.val
    let m := w.bits / 8
    let unit := elemBits e / 8
    let g := s.seg sg
    let base := (s.val a).toInt
    let done := s.ctx.partialBytes.toNat
    let d1 : Reg := Fin.ofNat 16 (d.val + 1)
    let trap (cause va : Nat) : Out := .next (s.takeTrap cause (BitVec.ofNat 64 va) s.ctx.pc).endWalks
    let stops (l : List Out) (off : Int) (n unit : Nat) (right : BitVec 7) : Prop :=
      (¬ InSegment g off n right → ∀ o ∈ l, o = trap 3 (g.addr off)) ∧
      (InSegment g off n right → g.addr off % unit ≠ 0 → ∀ o ∈ l, o = trap 4 (g.addr off))
    let lanesStop (o : Out) (ix : Nat) (right : BitVec 7) : Prop :=
      let lane (i : Nat) : Int := s.gathOff a ix unit i
      let inside (i : Nat) : Prop := done ≤ unit * i → InSegment g (lane i) unit right
      (∀ i < 16, ¬ inside i → (∀ j < i, inside j) → o = trap 3 (g.addr (lane i))) ∧
      ((∀ i < 16, inside i) → ∀ i < 16, done ≤ unit * i → g.addr (lane i) % unit ≠ 0 →
        (∀ j < i, done ≤ unit * j → g.addr (lane j) % unit = 0) → o = trap 4 (g.addr (lane i)))
    s.ctx.acquiring = [] →
    (Reads s [a] → Takes s d →
      stops [exec (.ld size sx sg d a off) s, exec (.ldAcq sc size sx sg d a off) s] (base + off.toInt * n) n n rightR ∧
      stops [exec (.ldLit size sx sg d a lit) s, exec (.ldAcqLit sc size sx sg d a lit) s] (base + lit.toInt) n n rightR) ∧
    (Reads s [a, d] →
      stops [exec (.st size sg d a off) s, exec (.stRel sc size sg d a off) s] (base + off.toInt * n) n n rightW ∧
      stops [exec (.stLit size sg d a lit) s, exec (.stRelLit sc size sg d a lit) s] (base + lit.toInt) n n rightW) ∧
    (Reads s [a] → ((∀ k, s.ctx.phase ≠ .asked k) → stops [exec (.segld sd a sg) s] base 16 16 rightR) ∧
      stops [exec (.segst sd a sg) s] base 16 16 rightW) ∧
    (Reads s [a] → InWindow s [v] → (done = 0 → (s.vecReg v).settled = true) →
      stops [exec (.ldv v sg a voff) s] (base + voff.toInt * 64 + done) (64 - done) 4 rightR ∧
      stops [exec (.ldvLit v sg a lit) s] (base + lit.toInt + done) (64 - done) 4 rightR) ∧
    (Reads s [a] → InWindow s [v] → VReads s [v] →
      stops [exec (.stv v sg a voff) s] (base + voff.toInt * 64 + done) (64 - done) 4 rightW ∧
      stops [exec (.stvLit v sg a lit) s] (base + lit.toInt + done) (64 - done) 4 rightW) ∧
    (Reads s [a] → InWindow s [v, idx] → (done = 0 → (s.vecReg v).settled = true) → (done = 0 ∨ s.ctx.index = none) → VReads s [idx] →
      lanesStop (exec (.gath e v sg a idx) s) (s.vecReg idx).val.toNat rightR) ∧
    (Reads s [a] → InWindow s [v, idx] → VReads s [v, idx] →
      lanesStop (exec (.scat e v sg a idx) s) (s.vecReg idx).val.toNat rightW) ∧
    (Reads s [a, b] → Takes s d → stops [exec (.amo op w sg d a b) s, exec (.amoOrdered h op w sg d a b) s] base m m rightA) ∧
    (Reads s [a, b, d] → Takes s d → stops [exec (.cas w sg d a b) s, exec (.casOrdered h w sg d a b) s] base m m rightA) ∧
    (Reads s [a, b] → stops [exec (.red op w sg a b) s, exec (.redRel sc op w sg a b) s] base m m rightA) ∧
    (Reads s [a, b] → Takes s d → Takes s d1 →
      stops [exec (.waitw w sg d a b) s, exec (.waitwAcq sc w sg d a b) s] base m m rightR)

/-- `segset` completes where its sources can be read and fit their fields, and writes base, limit and rights of the segment
register. `segst` issues a store of the 16 bytes of the descriptor, or applies it to the scratchpad. `segld` through a K
segment writes the segment register from the 16 bytes that it reads at once; from memory it sends its read and parks until the reply,
completes on the reply, and traps on a poisoned one (R177, R179). -/
def Obligations.SegmentInstructions : Prop :=
  ∀ (s : State) (d : Seg) (a b c : Reg) (sg : Seg),
    let g := s.seg sg
    let off := (s.val a).toInt
    let loaded (t : State) (v : Nat) : State :=
      ((t.modCtx fun x => { x with segs := x.segs.set d (segmentOf v), code := if d = 7 then none else x.code }).advance 4).endWalks
    (Reads s [a, b, c] → (s.val a).toNat < 2 ^ 52 → (s.val b).toNat < 2 ^ 40 → (s.val c).toNat < 2 ^ 7 →
      exec (.segset d a b c) s = .next (((s.consume [a, b, c]).modCtx fun x =>
        { x with segs := x.segs.set d { base := (s.val a).setWidth 52, limit := (s.val b).setWidth 40,
                                        rights := (s.val c).setWidth 7 },
                 code := if d = 7 then none else x.code }).advance 4).endWalks) ∧
    (Reads s [a] → s.ctx.acquiring = [] → InSegment g off 16 rightW → g.addr off % 16 = 0 →
      (g.isK = false → Placed s (g.addr off) 16 false →
        exec (.segst d a sg) s =
          let (t, ph) := s.usePart (g.addr off)
          .next ((((t.consume [a]).issueAccess { t.access (.store (bytesOfNat 16 (s.seg d).bits) false) ph (g.addr off) 16 none with
            plain := false } false).advance 4).endWalks)) ∧
      (g.isK = true →
        exec (.segst d a sg) s = .next (((s.spadStore s.cur.part s.cur.core s.cur.ctx (g.addr off)
          (bytesOfNat 16 (s.seg d).bits) s.ctx.pc).consume [a]).advance 4).endWalks)) ∧
    (Reads s [a] → s.ctx.acquiring = [] → s.ctx.phase = .fresh → InSegment g off 16 rightR → g.addr off % 16 = 0 → g.isK = true →
      ∀ t bytes, s.spadLoad s.cur.part s.cur.core s.cur.ctx (g.addr off) 16 = (t, bytes, none) →
        exec (.segld d a sg) s = .next (loaded (t.consume [a]) (natOfBytes bytes))) ∧
    (Reads s [a] → s.ctx.acquiring = [] → s.ctx.phase = .fresh → InSegment g off 16 rightR → g.addr off % 16 = 0 → g.isK = false →
      Placed s (g.addr off) 16 true →
      let (t, ph) := s.usePart (g.addr off)
      let t := t.noteSinkLoad ph.pa
      exec (.segld d a sg) s = .next ((((t.issueAccess (t.access (.load (.reply 0)) ph (g.addr off) 16 none) false).modCtx
        fun c => { c with phase := .asked 1 }).endWalks).park .reply)) ∧
    (∀ m r, s.ctx.phase = .asked m → s.ctx.reply = some r →
      (r.poison = none → exec (.segld d a sg) s = .next (loaded (s.consume [a]) (natOfBytes r.bytes))) ∧
      (∀ l, r.poison = some l → exec (.segld d a sg) s = .next (s.takeTrap 9 (BitVec.ofNat 64 l) s.ctx.pc).endWalks))

/-- A vector access completes where its operands stand and every page is clean, doing the lanes from PARTIAL on: `ldv` and `gath` through a
memory segment leave their vector register empty (as it is, when PARTIAL shows that it was begun) with its lanes' loads in flight, and
through a K segment put the bytes on their way to it, `gath` some cycles later by its bank conflicts; `stv` and `scat` send their lanes'
stores, or apply them to the scratchpad in lane order; PARTIAL is then 0. A gather that resumes takes the index vector that it began with, which no rule says (log 117), and each lane through a K segment is guarded
by itself (log 95): both are the model's choice. Lanes issued are so many accesses in flight, each of its lane's bytes, and memory is unchanged (R142, R159, R160, R170, R173 to R175). -/
def Obligations.VectorAccessCompletes : Prop :=
  ∀ (s : State) (e : ElemType) (v idx : VReg) (sg : Seg) (a : Reg) (off : BitVec 7) (lit : Word64),
    let g := s.seg sg
    let val := (s.vecReg v).val
    let p := s.phys v
    let done := s.ctx.partialBytes.toNat
    let size := elemBits e / 8
    let lanes (addr : Nat) : List Lane :=
      ((List.range 16).filter fun i => done ≤ 4 * i).map fun i => ⟨4 * i, (addr + 4 * i) % 2 ^ 52, 4⟩
    let clean (l : List Lane) (isLoad : Bool) : Prop :=
      ∀ x ∈ s.laneParts 16 l, s.missing (State.lowest x) = false ∧ s.vecPart isLoad x = .clean
    let load (len : Nat) (l : List Lane) : State :=
      ((((s.vecStart p (decide (done = 0))).vecLoads p l).consume [a]).vecLoaded p len).endWalks
    let ended (t : State) (len : Nat) : State := (((t.consume [a]).modCtx fun c => { c with partialBytes := 0 }).advance len).endWalks
    let store (len : Nat) (l : List Lane) : State :=
      ended (s.issueLanes (fun x => .store (State.vecBytes val x.off x.len) false) l) len
    let there (t : State) (len cycles : Nat) (bytes : List Byte) (poison : Option Nat) : State :=
      ((((t.consume [a]).vecStart p (decide (done = 0))).localLanes p cycles done bytes poison).vecLoaded p len).endWalks
    let at_ (disp : Int) : Nat := g.addr ((s.val a).toInt + disp)
    let inside (disp : Int) (right : BitVec 7) : Prop :=
      InSegment g ((s.val a).toInt + disp + done) (64 - done) right ∧ g.addr ((s.val a).toInt + disp + done) % 4 = 0
    let loads (o : Out) (disp : Int) (len : Nat) : Prop := inside disp rightR →
      (g.isK = false → clean (lanes (at_ disp)) true → o = .next (load len (State.lanePieces (lanes (at_ disp))))) ∧
      (g.isK = true → ∀ t bytes poison,
        s.spadLoad s.cur.part s.cur.core s.cur.ctx (at_ disp + done) (64 - done) = (t, bytes, poison) →
        o = .next (there t len 4 bytes poison))
    let stores (o : Out) (disp : Int) (len : Nat) : Prop := inside disp rightW →
      (g.isK = false → clean (lanes (at_ disp)) false → o = .next (store len (State.lanePieces (lanes (at_ disp))))) ∧
      (g.isK = true → o = .next (ended (s.spadStore s.cur.part s.cur.core s.cur.ctx (at_ disp + done)
        (State.vecBytes val done (64 - done)) s.ctx.pc) len))
    Reads s [a] → s.ctx.acquiring = [] →
    (InWindow s [v] → (done = 0 → (s.vecReg v).settled = true) →
      loads (exec (.ldv v sg a off) s) (off.toInt * 64) 4 ∧ loads (exec (.ldvLit v sg a lit) s) lit.toInt 12) ∧
    (InWindow s [v] → VReads s [v] →
      stores (exec (.stv v sg a off) s) (off.toInt * 64) 4 ∧ stores (exec (.stvLit v sg a lit) s) lit.toInt 12) ∧
    (∀ ix l, InWindow s [v, idx] → (done = 0 → (s.vecReg v).settled = true) →
      ((done = 0 ∨ s.ctx.index = none) ∧ VReads s [idx] ∧ ix = (s.vecReg idx).val.toNat ∨ done ≠ 0 ∧ s.ctx.index = some ix) →
      s.gathLanes sg a ix size rightR = .ok l →
      (g.isK = false → clean l true → exec (.gath e v sg a idx) s = .next (load 4 l)) ∧
      (g.isK = true → ∀ t bytes poison, s.localGather size l = (t, bytes, poison) →
        exec (.gath e v sg a idx) s = .next (there t 4 (4 + State.bankConflicts l) bytes poison))) ∧
    (∀ l, InWindow s [v, idx] → VReads s [v, idx] → s.gathLanes sg a (s.vecReg idx).val.toNat size rightW = .ok l →
      (g.isK = false → clean l false → exec (.scat e v sg a idx) s = .next (store 4 l)) ∧
      (g.isK = true → exec (.scat e v sg a idx) s = .next (ended (l.foldl (fun u x =>
        u.spadStore s.cur.part s.cur.core s.cur.ctx x.va (State.vecBytes val x.off size) s.ctx.pc) s) 4))) ∧
    (∀ (kind : Lane → AccKind) (l : List Lane),
      let t := s.issueLanes kind l
      t.mem = s.mem ∧ t.nextAccess = s.nextAccess + l.length ∧
      ∀ i (h : i < l.length), ∃ x, t.accesses.find? (s.nextAccess + i) = some x ∧ (AsIssued (kind l[i]) → x.kind = kind l[i]) ∧ x.tid = s.curTid ∧
        x.va = l[i].va ∧ x.size = l[i].len)

/-- `kvtl` that finds its key in the buffer writes the entry's offset and makes the entry the most recently used, the last of the list, traps on a
poisoned entry, and on a miss parks the thread and starts the shadow set, with G1 the SEQ, G2 the BLK, G3 the thread's identifier, TEPC the
address of the `kvtl` and PC the region's miss vector, its other registers kept, or where the set runs queues for it. `kvtw` enters a key, in place of its own entry and, where 64
other entries are held, of the least recently used, the first of the list, or removes it; that a key takes a free entry first is the model's
choice (log 114). `kvti` removes one key or all; `kret` in the shadow set returns it to idle, or starts it for the first miss that waits, and outside it is illegal
(R165, R166, R186 to R188). -/
def Obligations.KeyValueCompletes : Prop :=
  ∀ (s : State) (d a b : Reg),
    let key : Word64 := BitVec.ofNat 64 ((s.val a).toNat % 2 ^ 32 * 2 ^ 32 + (s.val b).toNat % 2 ^ 16)
    let others (k : Word64) : List KvEntry := s.curCore.kvtb.filter fun x => decide (x.key ≠ k)
    let entered (e : KvEntry) : State := s.modCurCore fun C =>
      { C with kvtb := (if 64 ≤ (others e.key).length then (others e.key).drop 1 else others e.key) ++ [e] }
    let started (t : State) (h : Shadow) (n seq blk : Nat) (pc : BitVec 50) (vec : Nat) : Prop :=
      let h' := (t.core s.cur.part s.cur.core).shadow
      let full (v : Nat) : GReg := { val := BitVec.ofNat 64 v, full := true, armed := false, poison := none }
      h'.regs = ((h.regs.set 1 (full seq)).set 2 (full blk)).set 3 (full (s.cur.core * 16 + n)) ∧ h'.tepc = pc ∧
        h'.pc = BitVec.ofNat 50 (vec / 4) ∧ h'.missing = some n ∧ h'.state = .runnable
    (Reads s [a, b] → Takes s d →
      (∀ e, s.curCore.kvtb.find? (fun e => decide (e.key = key)) = some e →
        (e.val.getLsbD 62 = false →
          exec (.kvtl d a b) s = .next (((((entered e).consume [a, b]).write d
            (BitVec.ofNat 64 (e.val.toNat % 2 ^ 40))).advance 4).endWalks)) ∧
        (e.val.getLsbD 62 = true →
          exec (.kvtl d a b) s = .next (s.takeTrap 9 (BitVec.ofNat 64 (e.val.toNat % 2 ^ 40)) s.ctx.pc).endWalks)) ∧
      (s.curCore.kvtb.find? (fun e => decide (e.key = key)) = none → Plain s →
        let vec := match s.region? with | some r => r.kvmiss | none => 0
        let seq := (s.val a).toNat % 2 ^ 32
        let blk := (s.val b).toNat % 2 ^ 16
        (s.curCore.shadow.missing = none → ∃ t, exec (.kvtl d a b) s = .next (t.endWalks.park .kvMiss) ∧
          started t s.curCore.shadow s.cur.ctx seq blk s.ctx.pc vec ∧ t.mem = s.mem ∧ t.ctx = s.ctx ∧
          (t.core s.cur.part s.cur.core).shadow.waiting = s.curCore.shadow.waiting) ∧
        (s.curCore.shadow.missing ≠ none → exec (.kvtl d a b) s = .next ((s.modCurCore fun C =>
          { C with shadow := { C.shadow with waiting := C.shadow.waiting ++
            [{ ctx := s.cur.ctx, seq := seq, blk := blk, pc := s.ctx.pc, vec := vec }] } }).endWalks.park .kvMiss)))) ∧
    (Reads s [a, b] → (s.val a).toNat / 2 ^ 16 % 2 ^ 16 = 0 → (s.val b).toNat / 2 ^ 40 % 2 ^ 22 = 0 → (s.val b).toNat % 64 = 0 →
      ((s.val b).getLsbD 63 = true →
        exec (.kvtw a b) s = .next (((entered { key := s.val a, val := s.val b }).consume [a, b]).advance 4).endWalks) ∧
      ((s.val b).getLsbD 63 = false → exec (.kvtw a b) s =
        .next (((s.modCurCore fun C => { C with kvtb := others (s.val a) }).consume [a, b]).advance 4).endWalks)) ∧
    (Reads s [a] →
      (s.val a = BitVec.allOnes 64 →
        exec (.kvti a) s = .next (((s.modCurCore fun C => { C with kvtb := [] }).consume [a]).advance 4).endWalks) ∧
      (s.val a ≠ BitVec.allOnes 64 → (s.val a).toNat / 2 ^ 16 % 2 ^ 16 = 0 →
        exec (.kvti a) s = .next (((s.modCurCore fun C =>
          { C with kvtb := C.kvtb.filter fun x => decide (x.key ≠ s.val a) }).consume [a]).advance 4).endWalks)) ∧
    (s.cur.shadow = true → exec .kret s = .next (s.endWalks.idleShadow s.cur.part s.cur.core)) ∧
    (let t := s.idleShadow s.cur.part s.cur.core
     let h := (s.core s.cur.part s.cur.core).shadow
     (h.waiting = [] → (t.core s.cur.part s.cur.core).shadow.missing = none ∧ (t.core s.cur.part s.cur.core).shadow.state = .free) ∧
     (∀ m rest, h.waiting = m :: rest → started t h m.ctx m.seq m.blk m.pc m.vec ∧
       (t.core s.cur.part s.cur.core).shadow.waiting = rest)) ∧
    (s.cur.shadow = false → exec .kret s = .next (s.takeTrap 1 (firstWord .kret) s.ctx.pc).endWalks)

/-- Every form of `cpy` and `cpy2` completes where its registers can be read, its destination takes a result, the copy queue
has a free entry, the lengths are in range, source and destination rows lie in their segments and do not meet, no toured source
is read again in a read-once region, and the open batch has room: the command, with the segments it captured and its place in
the batch, is in the quad's copy queue, and the destination holds 0 (R180 to R182, R312). -/
def Obligations.CopiesComplete : Prop :=
  ∀ (s : State) (h : Header) (d a b c : Reg) (dsg ssg : Seg) (lit : Word64) (rowsM1 : BitVec 16) (rowBytes : BitVec 24) (k : Nat),
    let sg := s.seg ssg
    let dg := s.seg dsg
    let so := (s.val b).toInt
    let dof := (s.val a).toInt
    let apart (rows width sp dp : Nat) : Prop :=
      let last := rows - 1
      width = 0 ∨ (InSegment sg so width rightR ∧ InSegment sg (so + last * sp) width rightR ∧
        InSegment dg dof width rightW ∧ InSegment dg (dof + last * dp) width rightW ∧
        (sg.isK = dg.isK → State.rangesMeet (sg.addr so) (last * sp + width) (dg.addr dof) (last * dp + width) = false) ∧
        (sg.isK = false → ∀ i < rows, s.reread (sg.addr so + i * sp) width = false))
    let queued (srcs : List Reg) (len rows width sp dp : Nat) : State :=
      let t := ({ s with nextSeq := s.nextSeq + 1 } : State).modCtx fun x => { x with openBatch := x.openBatch ++ [{ id := s.nextSeq }] }
      let cmd : CopyCmd :=
        { part := s.cur.part, tid := s.curTid, gen := s.ctx.gen, shadow := s.cur.shadow, uid := s.ctx.uid, pc := s.ctx.pc, asid := s.asid,
          h := h, bound := s.nextAccess, member := s.nextSeq, sseg := sg, dseg := dg, soff := so.toNat, doff := dof.toNat, rows := if width = 0 then 0 else rows,
          width := width, spitch := sp, dpitch := dp }
      ((((t.consume ([a, b] ++ srcs)).write d 0).modCurQuad fun Q => { Q with copies := Q.copies.put k cmd }).advance len).endWalks
    let two (w : Word64) : Prop := rowsM1.toNat = 0 ∨ rowBytes.toNat ≤ w.toNat / 2 ^ 32
    Takes s d → s.ctx.acquiring = [] → freeKey s.curQuad.copies 32 = some k → s.ctx.openBatch.length < 127 →
    (Reads s [a, b, c] →
      ((s.val c).toNat < 2 ^ 40 → apart 1 (s.val c).toNat 0 0 →
        exec (.cpy h d a b dsg ssg c) s = .next (queued [c] 12 1 (s.val c).toNat 0 0)) ∧
      (two (s.val c) → apart (rowsM1.toNat + 1) rowBytes.toNat ((s.val c).toNat % 2 ^ 32) ((s.val c).toNat / 2 ^ 32) →
        exec (.cpy2 h d a b dsg ssg c rowsM1 rowBytes) s =
          .next (queued [c] 12 (rowsM1.toNat + 1) rowBytes.toNat ((s.val c).toNat % 2 ^ 32) ((s.val c).toNat / 2 ^ 32)))) ∧
    (Reads s [a, b] →
      (lit.toNat < 2 ^ 40 → apart 1 lit.toNat 0 0 →
        exec (.cpyLit h d a b dsg ssg lit) s = .next (queued [] 20 1 lit.toNat 0 0)) ∧
      (two lit → apart (rowsM1.toNat + 1) rowBytes.toNat (lit.toNat % 2 ^ 32) (lit.toNat / 2 ^ 32) →
        exec (.cpy2Lit h d a b dsg ssg lit rowsM1 rowBytes) s =
          .next (queued [] 20 (rowsM1.toNat + 1) rowBytes.toNat (lit.toNat % 2 ^ 32) (lit.toNat / 2 ^ 32))))

/-- Every form of `amo`, `cas`, `red` and `waitw` completes where its registers can be read (`cas` reads its destination, the expected
value), its destinations take results, no acquire of the thread is unanswered, and the word lies in the segment with right A (`waitw`: R)
and is aligned. Through a memory segment with a cached translation the access is in flight with its operation, its operands and its
ordering, and its destinations are empty until the answer, which `waitw` gives in two registers. Through a K segment, a release once no
earlier access in its scope is unanswered, the operation is applied at once, and its result written four cycles later, which no rule says
(log 93: the model's choice); `waitw` is answered so where the word differs, and else holds the core's local watch (R191 to R197). The value that each atomic operation leaves in a word
of 32 or 64 bits (R192): the sum modulo 2^width, the bitwise operations, the signed and unsigned minimum and maximum, or the operand; and
`fadd` leaves the exact FP32 sum rounded once to FP32 and keeps subnormals, the canonical NaN for a NaN or ∞ − ∞, and an infinity for an
infinity (R29, R32, R41). -/
def Obligations.AtomicsComplete : Prop :=
  (∀ (s : State) (op : AmoOp) (w : Width) (sg : Seg) (d a b : Reg) (h : Header) (sc : Scope),
    let n := w.bits / 8
    let g := s.seg sg
    let off := (s.val a).toInt
    let addr := g.addr off
    let d1 : Reg := Fin.ofNat 16 (d.val + 1)
    let rel := if h.rel then some h.scope else none
    let operand := (s.val b).toNat % 2 ^ w.bits
    let changed (old : Nat) : Option Nat := some (atomicOp op w.bits old operand)
    let swapped (old : Nat) : Option Nat := if old = (s.val d).toNat % 2 ^ w.bits then some operand else none
    let quiet (r : Option Scope) : Prop :=
      ∀ c, r = some c → s.pendingBefore s.cur.part s.issuer s.cur.core s.nextAccess (some c) = false
    let here (len : Nat) (srcs : List Reg) (float : Bool) (f : Nat → Option Nat) : State :=
      let (t, old, poison) := s.localAtomic addr n f
      ((((t.consume srcs).writePending d).answerAccess 4
        (match poison with | some l => .regPoison d l | none => .reg d (oldWord float w old))).advance len).endWalks
    let reduced (len : Nat) : State := (((s.localAtomic addr n changed).1.consume [a, b]).advance len).endWalks
    s.ctx.acquiring = [] → addr % n = 0 →
    (Reads s [a, b] → InSegment g off n rightA →
      (g.isK = false → Placed s addr n false →
        (Takes s d →
          exec (.amo op w sg d a b) s = .next (issued s 4 [a, b] [d] (.amo op w (s.val b) d) addr n none false) ∧
          exec (.amoOrdered h op w sg d a b) s = .next (issued s 12 [a, b] [d] (.amo op w (s.val b) d) addr n rel h.acq)) ∧
        exec (.red op w sg a b) s = .next (issued s 4 [a, b] [] (.red op w (s.val b)) addr n none false) ∧
        exec (.redRel sc op w sg a b) s = .next (issued s 12 [a, b] [] (.red op w (s.val b)) addr n (some sc) false)) ∧
      (g.isK = true →
        (Takes s d →
          exec (.amo op w sg d a b) s = .next (here 4 [a, b] (decide (op = .fadd)) changed) ∧
          (quiet rel → exec (.amoOrdered h op w sg d a b) s = .next (here 12 [a, b] (decide (op = .fadd)) changed))) ∧
        exec (.red op w sg a b) s = .next (reduced 4) ∧
        (quiet (some sc) → exec (.redRel sc op w sg a b) s = .next (reduced 12)))) ∧
    (Reads s [a, b, d] → Takes s d → InSegment g off n rightA →
      (g.isK = false → Placed s addr n false →
        exec (.cas w sg d a b) s = .next (issued s 4 [a, b, d] [d] (.cas w (s.val d) (s.val b) d) addr n none false) ∧
        exec (.casOrdered h w sg d a b) s =
          .next (issued s 12 [a, b, d] [d] (.cas w (s.val d) (s.val b) d) addr n rel h.acq)) ∧
      (g.isK = true →
        exec (.cas w sg d a b) s = .next (here 4 [a, b, d] false swapped) ∧
        (quiet rel → exec (.casOrdered h w sg d a b) s = .next (here 12 [a, b, d] false swapped)))) ∧
    (Reads s [a, b] → Takes s d → Takes s d1 → InSegment g off n rightR →
      (g.isK = false → Placed s addr n false →
        exec (.waitw w sg d a b) s = .next (issued s 4 [a, b] [d, d1] (.waitw w (s.val b) d) addr n none false) ∧
        exec (.waitwAcq sc w sg d a b) s = .next (issued s 12 [a, b] [d, d1] (.waitw w (s.val b) d) addr n none true)) ∧
      (g.isK = true → ∀ t bytes poison, s.spadLoad s.cur.part s.cur.core s.cur.ctx addr n = (t, bytes, poison) →
        let u := ((t.consume [a, b]).writePending d).writePending d1
        let told (len : Nat) (x y : LocalKind) : State := (((u.answerAccess 4 x).answerAccess 4 y).advance len).endWalks
        let v := natOfBytes bytes
        (∀ l, poison = some l →
          exec (.waitw w sg d a b) s = .next (told 4 (.regPoison d l) (.regPoison d1 l)) ∧
          exec (.waitwAcq sc w sg d a b) s = .next (told 12 (.regPoison d l) (.regPoison d1 l))) ∧
        (poison = none → v ≠ operand →
          exec (.waitw w sg d a b) s = .next (told 4 (.reg d (BitVec.ofNat 64 v)) (.reg d1 0)) ∧
          exec (.waitwAcq sc w sg d a b) s = .next (told 12 (.reg d (BitVec.ofNat 64 v)) (.reg d1 0))) ∧
        (poison = none → v = operand → s.localWatch = none →
          ∃ y z x, exec (.waitw w sg d a b) s = .next y ∧ exec (.waitwAcq sc w sg d a b) s = .next z ∧
            y.accesses.find? t.nextAccess = some x ∧ z.accesses.find? t.nextAccess = some x ∧
            x.kind = .waitw w (s.val b) d ∧ x.stage = .watch t.now ∧ x.spad = true ∧ x.pa = addr ∧ x.size = n ∧ x.tid = s.curTid ∧
            y.mem = s.mem ∧ z.mem = s.mem)))) ∧
  (∀ (n : Nat) (x y : BitVec n),
    BitVec.ofNat n (atomicOp .add n x.toNat y.toNat) = x + y ∧
    BitVec.ofNat n (atomicOp .and n x.toNat y.toNat) = x &&& y ∧
    BitVec.ofNat n (atomicOp .or n x.toNat y.toNat) = x ||| y ∧
    BitVec.ofNat n (atomicOp .xor n x.toNat y.toNat) = x ^^^ y ∧
    (0 < n → BitVec.ofNat n (atomicOp .min n x.toNat y.toNat) = if y.toInt < x.toInt then y else x) ∧
    (0 < n → BitVec.ofNat n (atomicOp .max n x.toNat y.toNat) = if x.toInt < y.toInt then y else x) ∧
    BitVec.ofNat n (atomicOp .minu n x.toNat y.toNat) = (if y < x then y else x) ∧
    BitVec.ofNat n (atomicOp .maxu n x.toNat y.toNat) = (if x < y then y else x) ∧
    BitVec.ofNat n (atomicOp .swap n x.toNat y.toNat) = y) ∧
  (∀ x y : BitVec 32,
    let a := decodeFloat fp32 false x.toNat
    let b := decodeFloat fp32 false y.toNat
    let r := atomicOp .fadd 32 x.toNat y.toNat
    r < 2 ^ 32 ∧
    (a = .nan ∨ b = .nan → r = 0x7FC00000) ∧
    (∀ n, a = .inf n → (b = .inf (!n) → r = 0x7FC00000) ∧ (b ≠ .nan → b ≠ .inf (!n) → r = (if n then 0xFF800000 else 0x7F800000))) ∧
    (∀ n, b = .inf n → a ≠ .nan → a ≠ .inf (!n) → r = (if n then 0xFF800000 else 0x7F800000)) ∧
    (∀ na ma ea nb mb eb, a = .fin na ma ea → b = .fin nb mb eb →
      ∃ n m e, r = (encodeFloat fp32 false (.fin n m e)).1 ∧ (m = 0 → n = (na && nb)) ∧
        ∀ q : Int, q ≤ e → q ≤ ea → q ≤ eb → scaled n m e q = scaled na ma ea q + scaled nb mb eb q))

/-- `fence` completes when no earlier access of the thread in its scope is unanswered, and parks until then; `bfence` also
waits for the thread's bank sums, completes at once where its scope holds no home slice (`.cr`), and else sends
every home slice in its scope a write-back request, whichever partition holds its quad (log 132: the model's choice), parks, and completes when
they are answered. `bar` with a count in range and no report pending parks the thread past itself with its arrival on its
way; `qprobe` asks for the caldera's next circuit. A write-back request applied at its home cleans the home's lines,
those of `ROWBLOCK` pages, as R96 asks, and the others, as R97 allows (log 34: the model's choice), and is answered; of a line of another
partition that is deterministic its vents see a free choice of the two values (R16; log 150: the model's choice); it is applied whatever stands before it
at the slice's input (log 127: the model's choice), an evicted line is clean, and any arrival may be the next to reach its entry that is not
behind a younger one of the same cycle: that arrivals are no messages of the network and in which order they are taken is the model's choice
(logs 27 and 43) (R95, R96, R97, R199, R202, R203, R207, R213). -/
def Obligations.FencesComplete : Prop :=
  ∀ (s : State) (sc : Scope) (d : Reg) (drain level : Bool) (index : Fin 16),
    let earlier (c : Scope) : Bool := s.pendingBefore s.cur.part s.issuer s.cur.core s.nextAccess (some c)
    let fenced : State := ((s.fenceStale s.cur.part s.ctx.uid s.cur.core sc).advance 4).endWalks
    let arrival : Arrival :=
      { tid := s.curTid, gen := s.ctx.gen, shadow := s.cur.shadow, d := d, atCaldera := level, index := index.val,
        count := (s.val d).toNat, drain := drain, sent := s.now }
    let probe : Probe :=
      { tid := s.curTid, gen := s.ctx.gen, shadow := s.cur.shadow, d := d, caldera := calderaOf s.quadNo }
    (earlier sc = false → exec (.fence sc) s = .next fenced) ∧
    (earlier sc = true → exec (.fence sc) s = .next (s.endWalks.park (.earlier (some sc)))) ∧
    (s.ctx.phase ≠ .bank → earlier sc = false → s.sumsPending s.cur.part s.curTid = false → sc = .cr →
      exec (.bfence sc) s = .next fenced) ∧
    (s.ctx.phase ≠ .bank → earlier sc = false → s.sumsPending s.cur.part s.curTid = false → sc ≠ .cr →
      let homes := (List.range 8192).filter fun q => quadInScope s.firmware.hops1 s.firmware.hops2 sc s.cur.core q
      ∃ t, exec (.bfence sc) s = .next t ∧ t.ctx.state = .parked .writeBacks ∧ t.ctx.phase = .bank ∧ t.mem = s.mem ∧
        ∀ i (h : i < homes.length), ∃ x, t.accesses.find? (s.nextAccess + i) = some x ∧ x.kind = .writeback ∧ x.dst = homes[i] ∧
          x.tid = s.curTid) ∧
    (s.ctx.phase = .bank → s.writeBacksPending s.cur.part s.curTid = false → exec (.bfence sc) s = .next fenced) ∧
    ((s.curCore.guardLog.pend >>> s.cur.ctx) &&& 1 ≠ 1 → Reads s [d] → 1 ≤ (s.val d).toNat →
      (s.val d).toNat ≤ (if level then 65536 else 64) → earlier (if level then .cd else .qd) = false →
      exec (.bar d drain level index) s = .next (((((s.fenceStale s.cur.part s.ctx.uid s.cur.core (if level then .cd else .qd)).writePending d).modCurPart
        fun P => { P with arrivals := P.arrivals ++ [arrival] }).advance 4).park (.full d)).endWalks) ∧
    (Takes s d → exec (.qprobe d) s = .next (((s.writePending d).modCurPart fun P =>
      { P with probes := P.probes ++ [probe] }).advance 4).endWalks) ∧
    (∀ id x, s.accesses.find? id = some x → x.kind = .writeback → x.stage = .home →
      ∃ t, exec (.writebackRequest id) s = .next t ∧ t.mem = s.mem ∧
        (∀ l, t.bank.find? l = if homeOf (l * 64) = x.dst ∧ (s.lineOwner l = x.part ∨ s.detLine l = false) then none else s.bank.find? l) ∧
        ∀ y, t.accesses.find? id = some y → y.answer = .ack) ∧
    (∀ line, ∃ t, exec (.sliceCacheEviction line) s = .next t ∧ t.mem = s.mem ∧
      ∀ l, t.bank.find? l = if l = line then none else s.bank.find? l) ∧
    (∀ p k x, (s.part p).arrivals[k]? = some x → (s.part p).run ≠ .frozen → s.barOutOfTurn p x = false →
      exec (.barrierArrival p k) s = .next ((s.modPart p fun P => { P with arrivals := P.arrivals.eraseIdx k }).arriveBar p x))

/-- An arrival at an idle entry starts it with its count and DRAIN; at a gathering entry it counts when count and DRAIN agree
and is answered MISMATCH otherwise; at a draining entry it is answered BUSY. The arrival that makes ARRIVED equal COUNT
completes an undrained entry, which answers every participant DONE with the generation and is idle under the next one, and
turns a drained entry DRAINING. A token that has visited every interface of its caldera ends its circuit: it answers with its sum and
black bit the probes that had asked before the circuit began, and where the sum is zero and nothing was black completes the drained
entries that were draining then; those that came later wait for another circuit, and a token still on its way does nothing yet (R202,
R203, R205 to R207). -/
def Obligations.BarrierArrivals : Prop :=
  ∀ (s : State) (p : Nat) (x : Arrival),
    let q := quadOfCore (coreOf x.tid)
    let last := (s.clock + 1, x.sent, x.tid)
    let e := s.barEntry p x.tid x.atCaldera x.index
    let put (y : BarEntry) : State :=
      (s.setBarEntry p q x.atCaldera x.index { e with latest := last }).setBarEntry p q x.atCaldera x.index y
    let noted : State := s.setBarEntry p q x.atCaldera x.index { e with latest := last }
    let w : Waiter := { tid := x.tid, gen := x.gen, shadow := x.shadow, d := x.d }
    let answer (t : State) (v : Waiter) (status : Nat) (gen : BitVec 16) : State :=
      t.deliver p v.tid v.gen v.shadow v.d (BitVec.ofNat 64 (status * 2 ^ 32 + gen.toNat))
    (e.state = 0 → 1 < x.count →
      s.arriveBar p x = put { e with state := 1, drain := x.drain, count := x.count, arrived := 1, waiters := [w], latest := last }) ∧
    (e.state = 0 → x.count = 1 → x.drain = false →
      s.arriveBar p x = answer (put { gen := e.gen + 1, latest := last }) w 0 e.gen) ∧
    (e.state = 0 → x.count = 1 → x.drain = true →
      s.arriveBar p x = put { e with state := 2, drain := true, count := 1, arrived := 1, waiters := [w], latest := last }) ∧
    (e.state = 1 → e.count = x.count → e.drain = x.drain → e.arrived + 1 < e.count →
      s.arriveBar p x = put { e with arrived := e.arrived + 1, waiters := e.waiters ++ [w], latest := last }) ∧
    (e.state = 1 → e.count = x.count → e.drain = x.drain → e.arrived + 1 = e.count → e.drain = true →
      s.arriveBar p x = put { e with state := 2, arrived := e.arrived + 1, waiters := e.waiters ++ [w], latest := last }) ∧
    (e.state = 1 → e.count = x.count → e.drain = x.drain → e.arrived + 1 = e.count → e.drain = false →
      s.arriveBar p x = (e.waiters ++ [w]).foldl (fun t v => answer t v 0 e.gen) (put { gen := e.gen + 1, latest := last })) ∧
    (e.state = 1 → (e.count ≠ x.count ∨ e.drain ≠ x.drain) → s.arriveBar p x = answer noted w 1 e.gen) ∧
    (e.state = 2 → s.arriveBar p x = answer noted w 2 e.gen) ∧
    (∀ k token, s.live p = true → (s.part p).tokens.find? k = some token →
      let P := s.part p
      let entry (P : Partition) (y : Nat × Bool × Nat) : BarEntry :=
        if y.2.1 then P.bars.getD (16 * k + y.2.2) {} else (P.quads.getD y.1 {}).bars.getD y.2.2 {}
      let asked := P.probes.filter fun y => decide (y.caldera = k) && y.counted
      let entries := (State.drainingOn P k).filter fun y => (entry P y).counted
      let closed : State := s.modPart p fun P => State.countWaiters k false
        { P with tokens := P.tokens.del k, probes := P.probes.filter fun y => !(decide (y.caldera = k) && y.counted) }
      let u := asked.foldl (fun t y => t.deliver p y.tid y.gen y.shadow y.d
          (BitVec.ofNat 64 ((if token.black then 2 ^ 32 else 0) + token.sum.toNat))) closed
      (token.visited < 1025 → exec (.quiesceCircuitEnd p k) s = .next s) ∧
      (1025 ≤ token.visited → (token.sum ≠ 0 ∨ token.black = true) → exec (.quiesceCircuitEnd p k) s = .next u) ∧
      (1025 ≤ token.visited → token.sum = 0 → token.black = false →
        exec (.quiesceCircuitEnd p k) s = .next (entries.foldl (fun t y => t.completeBar p y.1 y.2.1 y.2.2 (entry (t.part p) y)) u)))
/-- A release is held until no earlier access of its issuer in its scope is unanswered, a deposit until no refused one of its port and
register waits to be sent before it, and then enters the network, where its interface counts it (R93, R205, R224). A message that its
channel may deliver leaves its leg for the next, or after the last leg stands at its home, and an answer after its last leg stands at its
issuer's port; a message that may not be delivered yet stays (R85, R86). Memory and every context are unchanged. -/
def Obligations.MessagesMove : Prop :=
  ∀ (s : State) (id : Nat) (x : Access), s.accesses.find? id = some x → s.accesses.sorted = true →
    let free : Prop :=
      (∀ sc, x.rel = some sc → s.pendingBefore x.part x.issuer x.issuerCore x.bound (some sc) = false) ∧
        (x.rel = none → s.behindRefused id x = false)
    (x.stage = .held → free →
      ∃ t, exec (.messageDelivery id) s = .next t ∧
        t.accesses.find? id =
          some { x with stage := .leg 0 s.nextSeq, kind := s.sentKind x, entered := (s.part x.part).cycle } ∧
        ((t.part x.part).interfaces.getD x.src {}).count = ((s.part x.part).interfaces.getD x.src {}).count + 1 ∧
        t.mem = s.mem ∧ ∀ p c n, t.context p c n = s.context p c n) ∧
    (x.stage = .held → ¬ free → exec (.messageDelivery id) s = .next s) ∧
    (∀ n q, x.stage = .leg n q → s.mayDeliver x = true →
      ∃ t, exec (.messageDelivery id) s = .next t ∧
        t.accesses.find? id =
          some (if n + 1 < legCount x.src x.dst then { x with stage := .leg (n + 1) s.nextSeq }
                else { x with stage := .home, reached := s.clock }) ∧
        t.mem = s.mem ∧ ∀ p c m, t.context p c m = s.context p c m) ∧
    (∀ n q, x.stage = .ansLeg n q → s.mayDeliver x = true →
      ∃ t, exec (.messageDelivery id) s = .next t ∧
        t.accesses.find? id =
          some { x with stage := if n + 1 < legCount x.dst x.src then .ansLeg (n + 1) s.nextSeq else .answered } ∧
        t.mem = s.mem ∧ ∀ p c m, t.context p c m = s.context p c m) ∧
    (∀ n q, (x.stage = .leg n q ∨ x.stage = .ansLeg n q) → s.mayDeliver x = false →
      exec (.messageDelivery id) s = .next s)

/-- At its home, an access whose turn it is is applied (R85, R88, R90): a load answers the bytes at its address, or the poisoned
line; a store writes its bytes, `amo` the operation's value over the old word, and `cas` its new value when the old word equals the
expected one, each answering, and a `red` of a throughput partition the operation's value over the old word; every byte of memory outside
the address written reads as before. A `red` or an atomic of a throughput partition first takes its place in the queue before the atomic
unit (R231). A line whose bytes leave on a link has its check compared before it is read (R393). An address outside the module's memory,
which no translation yields, stops the machine, as the model has it (log 118: the model's choice). -/
def Obligations.AccessApplied : Prop :=
  ∀ (s : State) (id : Nat) (x : Access), MemoryOk s → s.accesses.find? id = some x →
    (x.stage = .home ∨ x.stage.isQueued = true) → s.mayApply id x = true →
    (memBytes < x.pa + x.size → ((∃ d, x.kind = .load d) ∨ (∃ b po, x.kind = .store b po) ∨ (∃ op w b d, x.kind = .amo op w b d) ∨
        (∃ w e b d, x.kind = .cas w e b d) ∨ (∃ op w b, x.kind = .red op w b) ∨ (∃ w e d, x.kind = .waitw w e d)) →
      exec (.accessApplication id) s = .fault (.physicalAddress x.pa)) ∧
    (x.pa + x.size ≤ memBytes → s.queues x = true → x.stage = .home →
      exec (.accessApplication id) s =
        .next (({ s with nextSeq := s.nextSeq + 1 } : State).setAccess id { x with stage := .queued s.nextSeq })) ∧
    (x.pa + x.size ≤ memBytes → (s.queues x = false ∨ x.stage.isQueued = true) →
      (∀ d, x.kind = .load d →
        let t := if d.leaves then s.leaveBlock x.pa else s
        exec (.accessApplication id) s = .next (t.sendAnswer id
          (if t.isPoisoned x.pa then .poisoned (x.va / 64 * 64) else .data (t.readMem x.pa x.size)))) ∧
      (∀ bytes, x.kind = .store bytes false → s.isPoisoned x.pa = false →
        ∃ t, exec (.accessApplication id) s = .next t ∧
          (∀ i (h : i < bytes.length), Memory.read t.mem (x.pa + i) = bytes[i]) ∧
          (∀ a, (a < x.pa ∨ x.pa + bytes.length ≤ a) → Memory.read t.mem a = Memory.read s.mem a)) ∧
      (∀ op w b d, x.kind = .amo op w b d → s.isPoisoned x.pa = false →
        ∃ t, exec (.accessApplication id) s = .next t ∧
          t.readMem x.pa x.size =
            bytesOfNat x.size (atomicOp op w.bits (natOfBytes (s.readMem x.pa x.size)) (b.toNat % 2 ^ w.bits)) ∧
          (∀ a, (a < x.pa ∨ x.pa + x.size ≤ a) → Memory.read t.mem a = Memory.read s.mem a)) ∧
      (∀ w e b d, x.kind = .cas w e b d → s.isPoisoned x.pa = false →
        ∃ t, exec (.accessApplication id) s = .next t ∧
          t.readMem x.pa x.size =
            (if natOfBytes (s.readMem x.pa x.size) = e.toNat % 2 ^ w.bits then bytesOfNat x.size (b.toNat % 2 ^ w.bits)
             else s.readMem x.pa x.size) ∧
          (∀ a, (a < x.pa ∨ x.pa + x.size ≤ a) → Memory.read t.mem a = Memory.read s.mem a)) ∧
      (∀ op w b, x.kind = .red op w b → (s.part x.part).det = false → s.isPoisoned x.pa = false →
        let n := w.bits / 8
        ∃ t, exec (.accessApplication id) s = .next t ∧
          t.readMem x.pa n = bytesOfNat n (atomicOp op w.bits (natOfBytes (s.readMem x.pa n)) (b.toNat % 2 ^ w.bits)) ∧
          (∀ a, (a < x.pa ∨ x.pa + n ≤ a) → Memory.read t.mem a = Memory.read s.mem a)))

/-- A `waitw` whose word differs from the expected value is answered CHANGED with the word, one whose word does not takes a
watch entry, or is answered SPURIOUS when the 64 are in use; the watch of a `waitw` that is held for 1,048,576 cycles is answered TIMEOUT with the
word, of memory or of the scratchpad (both here in a throughput partition; in a deterministic one they are recorded too); of a line that has
become poisoned meanwhile it is the line's bytes (log 138: the model's choice). A reduction of a deterministic partition is held while the queue has room. A deposit takes the core's port for the cycle: it fills a
register that is armed and empty, which ends its being armed (log 37: the model's choice), also one mapped to an output channel, and one mapped to an input channel from its peer stays armed and ends the core's DRY; it is refused
where the register is full or not armed, whatever channel it is mapped to, and abandoned at a context that is FREE or HALTED or from another than the peer of an input channel; a refused one is sent again 16
cycles after its return (log 140: the model's choice), in the order of its register's deposits (R84, R100, R101, R102, R196, R224, R225, R253). -/
def Obligations.WaitsAndDeposits : Prop :=
  ∀ (s : State) (id : Nat) (x : Access), s.accesses.find? id = some x →
    (x.stage = .home → s.mayApply id x = true → x.pa + x.size ≤ memBytes → s.isPoisoned x.pa = false →
      let v := natOfBytes (s.readMem x.pa x.size)
      ∀ w e d, x.kind = .waitw w e d →
        (v ≠ e.toNat % 2 ^ w.bits →
          exec (.accessApplication id) s = .next (s.sendAnswer id (.status (BitVec.ofNat 64 v) 0))) ∧
        (v = e.toNat % 2 ^ w.bits → s.watchesAt x.dst < 64 →
          exec (.accessApplication id) s = .next (s.setAccess id { x with stage := .watch (s.part x.part).cycle })) ∧
        (v = e.toNat % 2 ^ w.bits → 64 ≤ s.watchesAt x.dst → (s.part x.part).det = false →
          exec (.accessApplication id) s = .next (s.sendAnswer id (.status (BitVec.ofNat 64 v) 1)))) ∧
    (x.stage = .home → s.mayApply id x = true → x.pa + x.size ≤ memBytes →
      ∀ op w b, x.kind = .red op w b → (s.part x.part).det = true → (s.home x.dst).held.length < 4096 →
        exec (.accessApplication id) s = .next (((s.leaveLeg x.part x.src x.dst (legCount x.src x.dst - 1)).modHome x.dst
          fun m => { m with held := m.held ++ [{ part := x.part, pa := x.pa, src := x.tid, uid := x.uid, pc := x.pc, order := x.order,
                                                 op := op, w := w, b := b }] }).sendAnswer id .ack)) ∧
    (x.stage = .home → s.mayApply id x = true → ∀ target r v out, x.kind = .deposit target r v out →
      let c := s.threadCtx x.part target
      let g := c.regs.get r
      let u := s.modCore x.part (coreOf target) fun C => { C with deposited := s.clock + 1 }
      (c.state = .free ∨ c.state = .halted → exec (.accessApplication id) s = .next (u.sendAnswer id (.refused true))) ∧
      (∀ ch, c.chans.find? r.val = some ch → ch.dir = .inn → ch.peer % 2 ^ 19 ≠ x.tid →
        exec (.accessApplication id) s = .next (u.sendAnswer id (.refused true))) ∧
      (∀ ch, c.state ≠ .free → c.state ≠ .halted → c.chans.find? r.val = some ch → ch.dir = .inn → ch.peer % 2 ^ 19 = x.tid →
        g.armed = true → g.full = false →
        exec (.accessApplication id) s = .next (((u.modThread x.part target fun c =>
          { c with regs := c.regs.set r { val := v, full := true, armed := true, poison := none } }).modCore x.part (coreOf target)
            fun C => { C with dryFrom := (s.part x.part).cycle }).sendAnswer id .ack)) ∧
      (c.state ≠ .free → c.state ≠ .halted → (∀ ch, c.chans.find? r.val = some ch → ch.dir = .inn → ch.peer % 2 ^ 19 = x.tid) →
        (g.armed = false ∨ g.full = true) → exec (.accessApplication id) s = .next (u.sendAnswer id (.refused false))) ∧
      (c.state ≠ .free → c.state ≠ .halted → (∀ ch, c.chans.find? r.val = some ch → ch.dir = .out) → g.armed = true → g.full = false →
        exec (.accessApplication id) s = .next ((u.modThread x.part target fun c =>
          { c with regs := c.regs.set r { val := v, full := true, armed := false, poison := none } }).sendAnswer id .ack))) ∧
    (∀ w e d since, x.kind = .waitw w e d → x.stage = .watch since → s.live x.part = true → since + 1048576 ≤ (s.part x.part).cycle →
      (s.part x.part).det = false →
      (x.spad = false → exec (.waitwTimeout id) s =
        .next (s.sendAnswer id (.status (BitVec.ofNat 64 (natOfBytes (s.readMem x.pa x.size))) 2))) ∧
      (x.spad = true → s.firstGuarded x.part x.issuerCore x.pa x.size = none → exec (.waitwTimeout id) s =
        .next (s.sendAnswer id (.status (BitVec.ofNat 64 (natOfBytes (s.spadBytes x.part x.issuerCore x.pa x.size))) 2)))) ∧
    (∀ c, x.stage = .refusedAt c → c + 16 ≤ (s.part x.part).cycle → s.behindRefused id x = false →
      ∃ t, exec (.depositRetry id) s = .next t ∧ t.mem = s.mem ∧ (s.accesses.sorted = true →
        t.accesses.find? id = some { x with stage := .leg 0 s.nextSeq, kind := s.sentKind x, entered := (s.part x.part).cycle }))

/-- The answer of a load into a register that no channel is mapped to leaves that register full with the loaded bytes extended,
and that of an `amo` or a `cas` with the old word, sign-extended, of `fadd` zero-extended; the answer of a `waitw` leaves the word in the
one register and the code in the next; a poisoned answer leaves them empty, for their reader to trap on; the access is no longer
outstanding. A result of the scratchpad is written when its cycle has come. Memory is unchanged (R85, R106, R161, R170,
R171, R192, R193, R195). -/
def Obligations.AnswersArrive : Prop :=
  (∀ (s : State) (id : Nat) (x : Access) (d : Reg), s.accesses.find? id = some x → s.accesses.sorted = true →
    x.stage = .answered → x.issuer = .thread x.tid → (s.threadCtx x.part x.tid).gen = x.gen →
    (s.threadCtx x.part x.tid).chans.find? d.val = none →
    (∀ ext bytes, x.kind = .load (.reg d ext) → x.answer = .data bytes →
      ∃ t, exec (.answerDelivery id) s = .next t ∧ t.accesses.find? id = none ∧ t.mem = s.mem ∧
        (t.threadCtx x.part x.tid).regs.get d = .written (extendBytes ext bytes)) ∧
    (∀ ext l, x.kind = .load (.reg d ext) → x.answer = .poisoned l →
      ∃ t, exec (.answerDelivery id) s = .next t ∧ t.accesses.find? id = none ∧ t.mem = s.mem ∧
        ((t.threadCtx x.part x.tid).regs.get d).full = false ∧ ((t.threadCtx x.part x.tid).regs.get d).poison = some l) ∧
    (∀ bytes, x.answer = .data bytes →
      (∀ op w b, x.kind = .amo op w b d →
        ∃ t, exec (.answerDelivery id) s = .next t ∧ t.accesses.find? id = none ∧ t.mem = s.mem ∧
          (t.threadCtx x.part x.tid).regs.get d = .written (if op = .fadd then BitVec.ofNat 64 (natOfBytes bytes)
            else BitVec.ofInt 64 (signedOf w.bits (natOfBytes bytes)))) ∧
      (∀ w e b, x.kind = .cas w e b d →
        ∃ t, exec (.answerDelivery id) s = .next t ∧ t.accesses.find? id = none ∧ t.mem = s.mem ∧
          (t.threadCtx x.part x.tid).regs.get d = .written (BitVec.ofInt 64 (signedOf w.bits (natOfBytes bytes))))) ∧
    (∀ l, x.answer = .poisoned l → (∃ op w b, x.kind = .amo op w b d) ∨ (∃ w e b, x.kind = .cas w e b d) →
      ∃ t, exec (.answerDelivery id) s = .next t ∧ t.accesses.find? id = none ∧ t.mem = s.mem ∧
        ((t.threadCtx x.part x.tid).regs.get d).full = false ∧ ((t.threadCtx x.part x.tid).regs.get d).poison = some l) ∧
    (∀ w e, x.kind = .waitw w e d →
      let d1 : Reg := Fin.ofNat 16 (d.val + 1)
      (s.threadCtx x.part x.tid).chans.find? d1.val = none →
      (∀ v code, x.answer = .status v code →
        ∃ t, exec (.answerDelivery id) s = .next t ∧ t.accesses.find? id = none ∧ t.mem = s.mem ∧
          (t.threadCtx x.part x.tid).regs.get d = .written v ∧ (t.threadCtx x.part x.tid).regs.get d1 = .written code) ∧
      (∀ l, x.answer = .poisoned l →
        ∃ t, exec (.answerDelivery id) s = .next t ∧ t.accesses.find? id = none ∧ t.mem = s.mem ∧
          ∀ r ∈ [d, d1], ((t.threadCtx x.part x.tid).regs.get r).full = false ∧ ((t.threadCtx x.part x.tid).regs.get r).poison = some l))) ∧
    (∀ (s : State) (d : Reg) p q k y v, (s.quad p q).locals[k]? = some y → y.due ≤ (s.part p).cycle → y.kind = .reg d v → y.shadow = false →
      (s.threadCtx p y.tid).gen = y.gen → (s.threadCtx p y.tid).chans.find? d.val = none →
      ∃ t, exec (.localAnswer p q k) s = .next t ∧ t.mem = s.mem ∧ t.accesses = s.accesses ∧
        (t.threadCtx p y.tid).regs.get d = .written v)

/-- `chmap` in both directions completes where its source can be read and names a thread of the partition and the register is
not mapped: the register is mapped to the peer, and an input register is empty and armed. `chunmap` of an unmapped register
only goes on, of an idle output channel ends it and leaves the register full with its value, and of an input channel ends it and disarms the register. `chstat` writes the
status of a register's channel, or for all ones the count of abandoned deposits (R225 to R228). A thread's read of a register mapped to an input channel leaves it empty and armed. A write of a register mapped to an output
channel leaves it empty until its deposit is answered, and the deposit is in flight to the peer's register. A register mapped to
no channel is written full and disarmed, and reading it changes nothing (R106, R224, R225). -/
def Obligations.ChannelsComplete : Prop :=
  (∀ (s : State) (d a : Reg), Plain s →
    let v := (s.val a).toNat
    let mapped (dir : ChanDir) : State :=
      (s.consume [a]).modCtx fun c => { c with chans := c.chans.put d.val { dir := dir, peer := v } }
    let ended : State := s.modCtx fun c => { c with chans := c.chans.del d.val }
    (Reads s [a] → s.chan d = none → v < 2 ^ 23 → s.curPart.hasCore (coreOf (v % 2 ^ 19)) = true →
      exec (.chmapOut d a) s = .next ((mapped .out).advance 4).endWalks ∧
      ((s.reg d).pending = false → exec (.chmapIn d a) s = .next (((mapped .inn).setReg d
        { val := (mapped .inn).val d, full := false, armed := true, poison := none }).advance 4).endWalks)) ∧
    (s.chan d = none → exec (.chunmap d) s = .next (s.advance 4).endWalks) ∧
    (∀ c, s.chan d = some c →
      (c.dir = .out → c.busy = false → exec (.chunmap d) s =
        .next ((ended.setReg d { val := s.val d, full := true, armed := false, poison := none }).advance 4).endWalks) ∧
      (c.dir = .inn → exec (.chunmap d) s = .next ((ended.setReg d
        (if (s.reg d).full then { s.reg d with armed := false } else { val := 0, full := true, armed := false, poison := none })).advance
          4).endWalks)) ∧
    (Reads s [a] → Takes s d →
      (s.val a = BitVec.allOnes 64 →
        exec (.chstat d a) s = .next (((s.consume [a]).write d (s.curCore.deadDeposits.setWidth 64)).advance 4).endWalks) ∧
      (v < 16 → exec (.chstat d a) s = .next (((s.consume [a]).write d
        (match s.chan (Fin.ofNat 16 v) with
         | none => 0
         | some c => BitVec.ofNat 64 (2 ^ 63 + (if c.dir = .out then 2 ^ 62 else 0) +
             (if (if c.dir = .out then c.busy else (s.reg (Fin.ofNat 16 v)).full) then 2 ^ 61 else 0) +
             (if c.dir = .out then c.retry else 0) * 2 ^ 32 + c.peer))).advance 4).endWalks))) ∧
  (∀ (s : State) (d : Reg) (v : Word64), Plain s →
    (s.chan d = none → s.consume [d] = s ∧ (s.write d v).reg d = { val := v, full := true, armed := false, poison := none } ∧
      (s.write d v).accesses = s.accesses ∧ (s.write d v).mem = s.mem ∧ ∀ r, r ≠ d → (s.write d v).reg r = s.reg r) ∧
    (∀ c, s.chan d = some c → c.dir = .inn →
      (s.consume [d]).reg d = { s.reg d with full := false, armed := true } ∧ ∀ r, r ≠ d → (s.consume [d]).reg r = s.reg r) ∧
    (∀ c, s.chan d = some c → c.dir = .out →
      ((s.write d v).reg d).full = false ∧ ((s.write d v).reg d).armed = false ∧ (s.write d v).chan d = some { c with busy := true, retry := 0 } ∧
      (∀ r, r ≠ d → (s.write d v).reg r = s.reg r) ∧
      (∃ x, (s.write d v).accesses.find? s.nextAccess = some x ∧
        x.kind = .deposit (c.peer % 2 ^ 19) (Fin.ofNat 16 (c.peer / 2 ^ 19)) v (some d) ∧ x.tid = s.curTid ∧
        x.dst = quadOfCore (coreOf (c.peer % 2 ^ 19)))))

/-- Outside the shadow set, with no guard report pending and nothing of the thread outstanding, `migr` to a core of the partition
and `miga` to the core beside the vault of an address depart in their full and lean forms: the thread is MIGRATING past the
instruction and its carried context is on its way, unbound from its cell. A departure that R216 refuses, of a thread with a vector
window, a PARTIAL, an armed register or a channel, to a core outside the partition, or a lean one from a handler, takes the migrate-refused
trap with the target's number, in all four forms (R214, R216, R217). -/
def Obligations.MigrationsDepart : Prop :=
  ∀ (s : State) (sg : Seg) (a : Reg), Plain s → (s.curCore.guardLog.pend >>> s.cur.ctx) &&& 1 ≠ 1 → Reads s [a] →
    let settled (t : State) : Prop := t.ctx.openBatch = [] ∧ t.accessPending t.cur.part t.curTid = false ∧
      t.mergePending t.cur.part t.curTid t.ctx.gen = false ∧ t.copyPending t.cur.part t.curTid t.ctx.gen = false ∧ t.answerDue t.cur.part t.curTid t.ctx.gen = false ∧ t.ctx.errorRec = 0
    let gone (t : State) (target : Nat) (lean : Bool) : State :=
      ((t.unbind t.cur.part t.curTid).depart target lean none).endWalks
    let refused (target : Nat) : Out := .next (s.takeTrap 7 (BitVec.ofNat 64 target) s.ctx.pc).endWalks
    (∀ target lean, s.migrateRefused target lean = true ↔
      s.ctx.vwinSize ≠ 0 ∨ s.ctx.partialBytes ≠ 0 ∨ (∃ r : Reg, (s.reg r).armed = true) ∨ s.ctx.chans ≠ [] ∨
        s.curPart.hasCore target = false ∨ (lean = true ∧ s.ctx.inh = true)) ∧
    ((s.val a).toNat < 2 ^ 15 → settled s →
      (s.migrateRefused (s.val a).toNat false = false → exec (.migr a) s = .next (gone s (s.val a).toNat false)) ∧
      (s.migrateRefused (s.val a).toNat true = false → exec (.migrL a) s = .next (gone s (s.val a).toNat true))) ∧
    ((s.val a).toNat < 2 ^ 15 →
      (s.migrateRefused (s.val a).toNat false = true → exec (.migr a) s = refused (s.val a).toNat) ∧
      (s.migrateRefused (s.val a).toNat true = true → exec (.migrL a) s = refused (s.val a).toNat)) ∧
    ((s.seg sg).isK = false → InSegment (s.seg sg) (s.val a).toInt 1 0 →
      let va := (s.seg sg).addr (s.val a).toInt
      (s.cached s.quadNo s.asid va).isSome = true →
      let t := (s.usePart va).1
      let target := homeOf (s.usePart va).2.pa * 4 + coreInQuad s.cur.core
      (t.migrateRefused target false = true → exec (.miga sg a) s = refused target) ∧
      (t.migrateRefused target true = true → exec (.migaL sg a) s = refused target) ∧
      (settled t → (t.migrateRefused target false = false → exec (.miga sg a) s = .next (gone t target false)) ∧
      (t.migrateRefused target true = false → exec (.migaL sg a) s = .next (gone t target true))))

/-- A thread takes its last flit in its turn on the last leg of its way, and is then taken if it heads its core's arrivals: into a FREE
context when nothing waits before it, where it is LOADING under a new generation, else to the arrival queue's tail while the ring is
empty and the queue has room, else to the spill ring; the network counts it out, it travels no more, and the context that it left, no
crossing's, is FREE, where nothing waits for it there. A LOADING context whose parts have all arrived unpoisoned is RUNNABLE with the registers, segments, PC, TVEC and
position of its image, and halts with FILLREF on a refused or poisoned part. An arrival that the ring takes is accepted once its slot is translated and its writes
are sent; one whose slot is refused stays MIGRATING while no context is FREE. The oldest thread of the ring enters the arrival queue once its
slot has been read, with the poison marks of its registers (log 136: the model's choice) (R86, R108, R117, R213, R218, R219, R220). A core that
has halted on a machine error accepts no arrival (log 139: the model's choice). That a
context turns LOADING under a new generation is the model's choice (log 21), and so is that an arrival behind a younger one of its cycle
waits for the next (log 43). -/
def Obligations.ArrivalsLoad : Prop :=
  ∀ (s : State) (p core n k : Nat) (t : Traveller) (f : Fill),
    let left (u : State) : Prop :=
      u.mem = s.mem ∧ ((u.part p).interfaces.getD (quadOfCore t.target) {}).black = true ∧
        ((s.part p).travellers.sorted = true → (u.part p).travellers.find? k = none) ∧
        ((s.core p (coreOf t.origin)).queue = [] → coreOf t.origin ≠ t.target →
          (u.context p (coreOf t.origin) (ctxOf t.origin)).state = .free)
    let comes : Prop := (s.part p).travellers.find? k = some t ∧ (s.part p).run ≠ .frozen ∧ (s.core p t.target).dead = false ∧
      (∀ x, (s.core p t.target).ring.stalled = some x → x.2 = true) ∧
      t.crossing = none ∧ (s.core p (coreOf t.origin)).spillRefused = [] ∧ ((s.core p t.target).arriving.head? = some k ∨
        ((s.core p t.target).arriving = [] ∧ State.onLastLeg t = true ∧ s.firstOf p t.channel = true ∧ s.outOfTurn p t = false))
    (comes → (s.core p t.target).queue = [] → (s.core p t.target).ring.threads = [] → s.lowestFree p t.target = some n →
      ∃ u, exec (.migrationArrival p k) s = .next u ∧ left u ∧
        (coreOf t.origin ≠ t.target → u.context p t.target n =
          { t.ctx with state := .loading, gen := (s.context p t.target n).gen + 1, fill := none,
                       lastIssue := (s.context p t.target n).lastIssue })) ∧
    (comes → ((s.core p t.target).queue ≠ [] ∨ s.lowestFree p t.target = none) → (s.core p t.target).ring.threads = [] →
      (s.core p t.target).queue.length < 16 →
      ∃ u v, exec (.migrationArrival p k) s = .next u ∧ left u ∧ v.leg = (if (s.core p t.target).arriving = [] then none else t.leg) ∧
        v.ctx = t.ctx ∧ (coreOf t.origin ≠ t.target → (u.core p t.target).queue = (s.core p t.target).queue ++ [v])) ∧
    (comes → ((s.core p t.target).ring.threads ≠ [] ∨ 16 ≤ (s.core p t.target).queue.length) →
      (s.core p t.target).ring.threads.length < (s.part p).spilln →
      let s₀ := if (s.core p t.target).arriving = [] then
          (s.setTraveller p k { t with leg := none }).modCore p t.target fun C =>
            { C with arriving := [k], lastArrival := (s.clock + 1, t.sent, t.origin) }
        else s
      let va := s.slotAddr p t.target ((s.core p t.target).ring.head + (s.core p t.target).ring.threads.length)
      ∀ w, s₀.slotCached t.target (s.part p).spillAsid p (State.linePieces 8 va 320) = (w, .ok ()) →
      ∃ u x, exec (.migrationArrival p k) s = .next u ∧ left u ∧ x.seq = (s.core p t.target).ring.seq ∧ x.asid = t.ctx.asid ∧
        (coreOf t.origin ≠ t.target → (u.core p t.target).ring.threads = (s.core p t.target).ring.threads ++ [x])) ∧
    ((s.context p core n).state = .loading → (s.context p core n).fill = some f → f.sent = 0 → f.refused = none → f.poison = none →
      f.todo = [] → f.later = [] →
      let image := natOfBytes ((List.range 288).map fun i => f.bytes.getD i 0)
      let table := natOfBytes ((List.range 128).map fun i => f.bytes.getD (1024 + i) 0)
      ∃ u, exec (.contextLoaded p core n) s = .next u ∧ u.mem = s.mem ∧
        let c := u.context p core n
        c.state = .runnable ∧ c.fill = none ∧ c.gen = (s.context p core n).gen ∧ c.wake = (s.context p core n).wake ∧
        (∀ r : Reg, c.regs.get r = { val := BitVec.ofNat 64 (image / 2 ^ (64 * r.val)), full := true, armed := false, poison := none }) ∧
        (∀ g : Seg, c.segs.get g =
          segmentOf (if f.segt.isSome then table / 2 ^ (128 * g.val) else image / 2 ^ (1024 + 100 * g.val))) ∧
        c.pc = BitVec.ofNat 50 (image / 2 ^ 1824) ∧ c.tvec = BitVec.ofNat 50 (image / 2 ^ 1874) ∧
        c.posX = BitVec.ofNat 32 (image / 2 ^ 2038) ∧ c.posY = BitVec.ofNat 32 (image / 2 ^ 2070) ∧
        c.posZ = BitVec.ofNat 32 (image / 2 ^ 2102) ∧ c.flags = 0 ∧ c.inh = false ∧ c.vwinSize = 0) ∧
    ((s.context p core n).state = .loading → (s.context p core n).fill = some f → f.sent = 0 → f.later = [] →
      (∀ cause va, f.refused = some (cause, va) →
        exec (.contextLoaded p core n) s = .next (s.haltThread p core n .fillref cause va)) ∧
      (∀ l, f.refused = none → f.poison = some l →
        exec (.contextLoaded p core n) s = .next (s.haltThread p core n .fillref 9 l))) ∧
    ((s.core p core).arriving.head? = some k → (s.part p).travellers.find? k = some t → t.target = core → (s.part p).run ≠ .frozen →
      (s.core p core).dead = false → (s.core p core).ring.stalled = none →
      ((s.core p core).ring.threads ≠ [] ∨ 16 ≤ (s.core p core).queue.length) → (s.core p core).ring.threads.length < (s.part p).spilln →
      let va := s.slotAddr p core ((s.core p core).ring.head + (s.core p core).ring.threads.length)
      (∀ u, s.slotCached core (s.part p).spillAsid p (State.linePieces 8 va 320) = (u, .ok ()) →
        ∃ v, exec (.spillWrite p core) s = .next v ∧ v.mem = s.mem ∧
          ((s.part p).travellers.sorted = true → t.crossing = none → (s.core p (coreOf t.origin)).spillRefused = [] →
            (v.part p).travellers.find? k = none)) ∧
      (∀ u at_, s.slotCached core (s.part p).spillAsid p (State.linePieces 8 va 320) = (u, .error (.refused, at_)) →
        exec (.spillWrite p core) s = .next (u.refuseArrival p core k t 8 at_) ∧
        (u.lowestFree p core = none →
          ((u.refuseArrival p core k t 8 at_).part p).travellers.find? k = (u.part p).travellers.find? k ∧
          (∀ c n, (u.refuseArrival p core k t 8 at_).context p c n = u.context p c n) ∧
          ((8, at_), .inl k) ∈ ((u.refuseArrival p core k t 8 at_).core p core).spillRefused))) ∧
    (∀ x rest, (s.core p core).ring.threads = x :: rest → (s.part p).run ≠ .frozen → (s.core p core).ring.stalled = none →
      (s.core p core).queue.length < 16 →
      s.pendingBefore p (.spill core) core s.nextAccess none = false →
      let r : Reader := { issuer := .refill core, part := p, quad := quadOfCore core, tid := core * 16, asid := (s.part p).spillAsid }
      ∀ b u, engineReadMem r 8 s (s.slotAddr p core (s.core p core).ring.head) 320 = (u, .bytes b none) →
      exec (.spillRefill p core) s = .next (((u.freeSlot p core).modCore p core fun C => { C with queue := C.queue ++
        [State.unspilled core { x with origin := bitsOf (natOfBytes (b.drop 288)) 50 32, lean := (natOfBytes (b.drop 288)).testBit 51 }
          (ctxOfImage (natOfBytes (b.take 288)))] }).serveQueue p core))

/-- `rcast` with a role table's address and a role, while no other is unanswered on the core, sends its step to the table's home as a
release and an acquire, which is sent with the core's DRY of that cycle, and parks; on the reply it goes on, and on a poisoned line it
traps with its destination as it was. An input channel that is source and destination keeps the answer (R225). A step that R254 allows changes the counts of the table by one each and answers OK with them; every
other step leaves the table as it is and answers its status. The levelling of an epoch is made once, in throughput mode, and moves the
highest-numbered untaken units of an entry (R252 to R256). -/
def Obligations.RolesComplete : Prop :=
  ∀ (s : State) (d a : Reg),
    let v := (s.val a).toNat
    let tbl := v / 64 * 64
    (s.ctx.phase = .fresh → Reads s [a] → Takes s d → s.ctx.acquiring = [] → v < 2 ^ 52 → v / 4 % 16 = 0 → s.curCore.rcasting = none →
      Placed s tbl 64 false →
      let t := (s.usePart tbl).1
      let x := t.access (.rcast d (v % 4) s.curCore.role (decide (s.curCore.roleTable = tbl)) (s.dryOf s.cur.part s.cur.core)
        (s.reg d)) (s.usePart tbl).2 tbl 64 (some .md)
      exec (.rcast d a) s = .next (((((t.writePending d).issueAccess x true).modCurCore fun C =>
        { C with rcasting := some t.nextAccess }).modCtx fun c => { c with phase := .asked 1 }).endWalks.park .reply)) ∧
    (∀ m r, s.ctx.phase = .asked m → s.ctx.reply = some r →
      (r.poison = none → exec (.rcast d a) s = .next ((s.consume (if a = d then [] else [a])).advance 4).endWalks) ∧
      (∀ l, r.poison = some l → exec (.rcast d a) s = .next (s.takeTrap 9 (BitVec.ofNat 64 l) s.ctx.pc).endWalks)) ∧
    (∀ id x new frm same dry old, s.accesses.find? id = some x → x.kind = .rcast d new frm same dry old →
      (s.sentKind x = .rcast d new frm same (s.dryOf x.part (coreOf x.tid)) old) ∧
      (∀ l, x.stage = .answered → x.answer = .poisoned l → s.portHolds id x = false → x.issuer = .thread x.tid →
        (s.threadCtx x.part x.tid).gen = x.gen →
        ∃ u, exec (.answerDelivery id) s = .next u ∧ (u.threadCtx x.part x.tid).regs.get d = old ∧
          (u.core x.part (coreOf x.tid)).rcasting = none ∧ u.mem = s.mem)) ∧
    (∀ x new frm same dry, MemoryOk s → s.isPoisoned x.pa = false → x.pa % 64 = 0 →
      let w := natOfBytes (s.readMem x.pa 64)
      (roleStatus w (coreOf x.tid) frm new same dry = 0 → new ≠ frm →
        natOfBytes ((s.applyRcast x new frm same dry).1.readMem x.pa 64) = roleMoved w frm new ∧
        (s.applyRcast x new frm same dry).2 = .roles 0 (BitVec.ofNat 48 (roleMoved w frm new))) ∧
      (roleStatus w (coreOf x.tid) frm new same dry ≠ 0 →
        s.applyRcast x new frm same dry = (s, .roles (roleStatus w (coreOf x.tid) frm new same dry) (BitVec.ofNat 48 w)))) ∧
    (∀ p, s.levelDue p = true → ∃ t, exec (.loadLevel p) s = .next t ∧ t.levelDue p = false ∧ t.mem = s.mem ∧
      ((s.part p).quads = [] → t = s.modPart p fun P => { P with levelled := P.cycle + 1 })) ∧
    (∀ (p : Nat) (x : State.Shipment) (k : Nat) (e : TaskEntry), freeKey (s.core p x.target).tasks 16 = some k →
      (s.core p x.core).tasks.find? x.key = some e → x.core ≠ x.target →
      ((s.ship p x).core p x.core).tasks.find? x.key = some { e with last := e.last - x.count } ∧
      ((s.ship p x).core p x.target).tasks.find? k =
        some { e with next := e.last + 1 - x.count, since := (s.part p).cycle }) ∧
    (∀ p, (s.part p).det = true → exec (.loadLevel p) s = .next s)

/-- A walk of a region that is not valid fails with kind 1. One that finds its page caches the translation, unless the port has cached
one meanwhile, which is the model's choice (log 101), and one that does not keeps the failure for the instruction or the engine that it was made for, and for a thread's
enters a fault record where the page is not resident; one whose reads have not come goes on later. That a walk reads entry by entry and
waits with the instruction is the model's choice (log 6). The hub takes an ANSQ entry in order. RESOLVED for a page with a fault outstanding takes the
page from the fault tables and makes every thread that was dropped on it RUNNABLE; REFUSED gives each the access trap with its own address
(here the only thread that waits on it, with a vector and outside a handler, and no spill or refill); for another page both only take the entry. INVALIDATE leaves no cached
translation that meets its range, and its TAG goes to the ring's DONE word when no access of a removed entry is in flight and no vent
command holds a page of it; an entry of kind 3 is ignored, one with a reserved bit is ignored and counted (R147, R152, R153, R156, R157,
R329, R373). -/
def Obligations.PagesAnswered : Prop :=
  ∀ (s u : State) (f k : Nat) (w : Walk) (h : AnsqHead),
    (w.raf.toNat / 2 ^ 63 % 2 = 0 → s.walk w = (s, .failed (.fault 1))) ∧
    let ended (t : State) (x : WalkFail) : State :=
      { t.dropFetches w.part (.walk w.id) with walks := t.walks.set k { w with result := some x } }
    (s.walks[k]? = some w → w.result = none →
      (∀ e, s.walk w = (u, .found e) →
        let t : State := { u.dropFetches w.part (.walk w.id) with walks := u.walks.eraseIdx k }
        (t.cached w.quad w.asid w.va = none →
          exec (.tableWalk k) s = .next (t.modHome w.quad fun m => { m with tlb := insertTlb m.tlb e })) ∧
        (t.cached w.quad w.asid w.va ≠ none → exec (.tableWalk k) s = .next t)) ∧
      (∀ x, s.walk w = (u, .failed x) → (x = .refused ∨ x = .poison) → exec (.tableWalk k) s = .next (ended u x)) ∧
      (s.walk w = (u, .failed .held) → exec (.tableWalk k) s = .next u) ∧
      (∀ kind, s.walk w = (u, .failed (.fault kind)) →
        let r : FaultRecord := { kind := kind, acc := w.acc, thread := w.tid, asid := w.asid, va := w.va }
        exec (.tableWalk k) s =
          .next (ended (if w.engine.isNone then u.enterFault w.part (calderaOf w.quad) r else u) (.fault kind)))) ∧
    (s.ansqHead f = some h → h.reserved = false →
      (h.kind = 0 → s.faultHeld f h = true → ∃ t, exec (.pagerResolved f) s = .next t ∧
        (∀ core n va, n < 16 → (s.context f core n).state = .dropped h.asid va → s.samePage h.asid h.va va = true →
          (t.context f core n).state = .runnable ∧ (t.context f core n).pc = (s.context f core n).pc) ∧
        ((∀ c ∈ s.calderas, c.2.faultWait = []) → s.fillsOn f h = [] → (s.part f).rcbWrites = [] → s.mapsOn f h = [] →
          t.faultHeld f h = false)) ∧
      (h.kind = 0 → s.faultHeld f h = false → exec (.pagerResolved f) s = .next (s.ansqTake h)) ∧
      (h.kind = 1 → s.faultHeld f h = true → ∃ t, exec (.pagerRefused f) s = .next t ∧
        ∀ core n va, n < 16 → s.droppedOn f h = [(core * 16 + n, false, va)] → (s.stalledOn f h).rings = [] →
          (s.context f core n).inh = false → (s.context f core n).tvec ≠ 0 →
          let c := t.context f core n
          c.tcause = 8 ∧ c.tval = BitVec.ofNat 64 va ∧ c.tepc = (s.context f core n).pc ∧ c.inh = true ∧
            c.pc = (s.context f core n).tvec) ∧
      (h.kind = 1 → s.faultHeld f h = false → exec (.pagerRefused f) s = .next (s.ansqTake h)) ∧
      (h.kind = 2 →
        let z := s.pageSize h.asid h.va
        let lo := h.va / z * z
        let hi := lo + (h.count + 1) * z
        ∃ t, exec (.invalidate f) s = .next t ∧ t.mem = (s.ansqTake h).mem ∧
          (∀ q, ∀ e ∈ (t.home q).tlb, State.meetsRange e h.asid lo hi = false) ∧
          ∃ v, t.invalidations = (s.ansqTake h).invalidations ++ [v] ∧ v.func = f ∧ v.tag = h.tag ∧ v.lo = lo ∧ v.hi = hi) ∧
      (h.kind = 3 → exec (.ansqIgnored f) s = .next (s.ansqTake h))) ∧
    (s.ansqHead f = some h → h.reserved = true → exec (.ansqIgnored f) s = .next ((s.ansqTake h).postEvent f 6 0 h.index)) ∧
    (∀ v base n, s.invalidations[k]? = some v → v.accesses = [] → s.ventsUse v = false → ringOf (s.func v.func).ansq = some (base, n) →
      exec (.invalidationDone k) s = .next (({ s with invalidations := s.invalidations.eraseIdx k } : State).hubWrite
        (base + 16) (bytesOfNat 8 v.tag)))

/-- A copy whose acquire is done, whose pieces have all moved, and whose release has been met completes: it leaves the queue, and its
member of the thread's batches is done without an error. One piece of a copy, the bytes of a row within a destination line (log 22: the
model's choice), is read from its source, and once that has come written to the scratchpad, in a cycle in which no thread has used its banks, or sent to its
home as a write of the copy's own. A patrol read without a correction changes nothing; one with a correction, and a corrected
error, count one in their caldera, and change no byte of memory, poison nothing and leave every context as it is; a corrected error that a vent
read of the partition meets counts in the partition's CORR as well, to 65,535, and one that nothing reads counts nowhere. An uncorrectable error
is counted; one of a line of DRAM poisons the line, of a scratchpad line, an accumulator word or a tile granule exactly that (R98, R161, R170, R181,
R183, R313, R336, R392, R394, R399). That one of a full register poisons that register, and that one of another memory of a core halts the
core's contexts, is the model's choice (log 102); so is it that a patrol read and an error found elsewhere count in no CORR (log 99). -/
def Obligations.CopiesAndMemoryErrors : Prop :=
  ∀ (s : State) (p q k line core n : Nat) (slot : Nat) (c : CopyCmd),
    ((s.quad p q).copies.find? k = some c → s.live p = true → c.stalled = none → s.acquireDone p c.tid c.bound c.shadow c.h = true →
      (c.moved.length = c.pieceCount → s.releaseDone p c.tid (.copy q k) c.h = true →
        ∃ t, exec (.copyComplete p q k none) s = .next t ∧ t.mem = s.mem ∧
          ((s.quad p q).copies.sorted = true → (t.quad p q).copies.find? k = none) ∧
          ((s.threadCtx p c.tid).gen = c.gen →
            (t.threadCtx p c.tid).openBatch = markDone c.member none (s.threadCtx p c.tid).openBatch ∧
            (t.threadCtx p c.tid).committed = (retireBatches ((s.threadCtx p c.tid).committed.map (markDone c.member none))
              (s.threadCtx p c.tid).errorRec).1 ∧
            (t.threadCtx p c.tid).flags = (s.threadCtx p c.tid).flags)) ∧
      (∀ m, c.isPiece m = true → c.moved.contains m = false →
        let va := (c.dstRow (c.pieceAt m).1 + (c.pieceSpan m).1) % 2 ^ 52
        let moved (t : State) : State :=
          (t.useFetched p (.copy q k) m).modCopy p q k fun c => { c with moved := NSet.add c.moved m }
        let read := s.engineRead (State.copyReader p q k m c) c.sseg
          (c.soff + (c.pieceAt m).1 * c.spitch + (c.pieceSpan m).1 : Nat) (c.pieceSpan m).2
        (∀ u, read = (u, .held) → exec (.copyComplete p q k (some m)) s = .next u) ∧
        (∀ u b po, read = (u, .bytes b po) →
          (c.dseg.isK = true → u.bankTaken p (coreOf c.tid) va b.length = false →
            exec (.copyComplete p q k (some m)) s = .next (moved (u.engineSpad p c.tid va b po.isSome c.pc))) ∧
          (c.dseg.isK = false → ∀ t v x y, s.translateNow (.copy q k) p q c.tid c.asid va = (t, .ok y) →
            u.translateNow (.copy q k) p q c.tid c.asid va = (v, .ok x) →
            exec (.copyComplete p q k (some m)) s =
              .next (moved (v.engineWrite (.copy q k) p q c.tid c.uid c.asid c.pc x va b po.isSome !c.h.rel)))))) ∧
    (let told (o : Out) (k : Nat) : Prop := ∃ t, o = .next t ∧
       (t.caldera k).softErr.corrected = bump (s.caldera k).softErr.corrected ∧
       (t.caldera k).softErr.uncorrectable = (s.caldera k).softErr.uncorrectable ∧
       t.mem = s.mem ∧ t.poison = s.poison ∧ t.accesses = s.accesses ∧ ∀ p c n, t.context p c n = s.context p c n
     let vent (t : State) (x q : Nat) : VentCount := (t.part x).ventCounts.getD q {}
     exec (.patrolRead line false) s = .next s ∧
     told (exec (.patrolRead line true) s) (calderaOf (homeOf (line * 64))) ∧
     told (exec (.eccError (.dram line) true) s) (calderaOf (homeOf (line * 64))) ∧
     told (exec (.eccError (.spad p core n) true) s) (calderaOf (quadOfCore core)) ∧
     told (exec (.eccError (.vreg p core n) true) s) (calderaOf (quadOfCore core)) ∧
     (s.ventsRead p line = true → told (exec (.eccError (.vent p line) true) s) (calderaOf (homeOf (line * 64))) ∧
       ∃ t, exec (.eccError (.vent p line) true) s = .next t ∧
         (vent t p (homeOf (line * 64))).corr.toNat = min 65535 ((vent s p (homeOf (line * 64))).corr.toNat + 1) ∧
         ∀ x q, (x ≠ p ∨ q ≠ homeOf (line * 64)) → vent t x q = vent s x q) ∧
     (s.ventsRead p line = false → exec (.eccError (.vent p line) true) s = .next s) ∧
     (∀ t x q, exec (.eccError (.dram line) true) s = .next t → vent t x q = vent s x q) ∧
     (∀ t x q, exec (.patrolRead line true) s = .next t → vent t x q = vent s x q)) ∧
    (let counted (t : State) (k : Nat) : Prop := (t.caldera k).softErr.uncorrectable =
       (if (s.caldera k).softErr.uncorrectable = BitVec.allOnes 16 then (s.caldera k).softErr.uncorrectable
        else (s.caldera k).softErr.uncorrectable + 1)
     let here := calderaOf (quadOfCore core)
     (∃ t, exec (.eccError (.dram line) false) s = .next t ∧ counted t (calderaOf (homeOf (line * 64))) ∧
       t.isPoisoned (line * 64) = true) ∧
     (∃ t, exec (.eccError (.spad p core n) false) s = .next t ∧ counted t here ∧
       (t.core p core).spadPoison = NSet.add (s.core p core).spadPoison n ∧ (t.core p core).spad = (s.core p core).spad) ∧
     (∃ t, exec (.eccError (.acc p core n) false) s = .next t ∧ counted t here ∧
       (t.core p core).accPoison = NSet.add (s.core p core).accPoison n) ∧
     (∃ t, exec (.eccError (.tile p core slot n) false) s = .next t ∧ counted t here ∧
       (t.slotOf p core slot).poison = NSet.add (s.slotOf p core slot).poison n) ∧
     ((s.vreg p core n).full = true → ∃ t a, exec (.eccError (.vreg p core n) false) s = .next t ∧ counted t here ∧
       t.vreg p core n = { s.vreg p core n with poison := some a }) ∧
     (∀ r : Reg, ((s.context p core n).regs.get r).full = true →
       ∃ t, exec (.eccError (.reg p core n r.val) false) s = .next t ∧ counted t here ∧
         ((t.context p core n).regs.get r).full = false ∧ ((t.context p core n).regs.get r).poison.isSome = true) ∧
     (∃ t, exec (.eccError (.sram p core) false) s = .next t ∧ counted t here ∧ ∀ m, m < 16 → (t.context p core m).state = .halted))
/-- Inside the window, with full sources, a destination that takes a result and room in the dispatch queue, every vector form completes,
those with a literal form in both: the result of its lanes and its flags is dispatched with its latency, 4 to 12 cycles by the form. The
two-source forms, the reductions, dot products and shuffle come first, then `vfma`, `vfms` and `vsel` (which read their destination),
`vabs`, `vneg`, the transcendental functions, the conversions, `vbcast`, `vslide`, `viota` and `vmovg`, which traps on a lane that does not
exist (R286 to R296). -/
def Obligations.VectorFormsComplete : Prop :=
  (∀ (s : State) (t : ElemType) (d a b : VReg) (lit : Word64), VTakes s d →
      let x := (s.vecReg a).val
      let y := (s.vecReg b).val
      let l := literalLanes t lit
      (InWindow s [d, a, b] → VReads s [a, b] →
        exec (.vadd t d a b) s = .next (vectored s 4 d [] (vecArith .add t x y 0) (arithLatency .add t)) ∧
        exec (.vsub t d a b) s = .next (vectored s 4 d [] (vecArith .sub t x y 0) (arithLatency .sub t)) ∧
        exec (.vmul t d a b) s = .next (vectored s 4 d [] (vecArith .mul t x y 0) 6) ∧
        exec (.vmax t d a b) s = .next (vectored s 4 d [] (vecArith .max t x y 0) (arithLatency .max t)) ∧
        exec (.vmin t d a b) s = .next (vectored s 4 d [] (vecArith .min t x y 0) (arithLatency .min t)) ∧
        exec (.vaddSat t d a b) s = .next (vectored s 4 d [] (vecArith .addSat t x y 0) (arithLatency .addSat t)) ∧
        exec (.vsubSat t d a b) s = .next (vectored s 4 d [] (vecArith .subSat t x y 0) (arithLatency .subSat t)) ∧
        exec (.vcmpEq t d a b) s = .next (vectored s 4 d [] (vecCompare .eq t x y, 0) 4) ∧
        exec (.vcmpNe t d a b) s = .next (vectored s 4 d [] (vecCompare .ne t x y, 0) 4) ∧
        exec (.vcmpLt t d a b) s = .next (vectored s 4 d [] (vecCompare .lt t x y, 0) 4) ∧
        exec (.vcmpLe t d a b) s = .next (vectored s 4 d [] (vecCompare .le t x y, 0) 4) ∧
        exec (.vand t d a b) s = .next (vectored s 4 d [] (x &&& y, 0) 4) ∧
        exec (.vor t d a b) s = .next (vectored s 4 d [] (x ||| y, 0) 4) ∧
        exec (.vxor t d a b) s = .next (vectored s 4 d [] (x ^^^ y, 0) 4) ∧
        exec (.vshl t d a b) s = .next (vectored s 4 d [] (vecShift .left t x y, 0) 4) ∧
        exec (.vshr t d a b) s = .next (vectored s 4 d [] (vecShift .right t x y, 0) 4) ∧
        exec (.vsar t d a b) s = .next (vectored s 4 d [] (vecShift .arith t x y, 0) 4) ∧
        exec (.vshuf t d a b) s = .next (vectored s 4 d [] (vecShuffle t x y, 0) 5) ∧
        exec (.vredsum t d a b) s = .next (vectored s 4 d [] (vecReduce .sum t x y (decide (a = b))) 10) ∧
        exec (.vredsumSat t d a b) s = .next (vectored s 4 d [] (vecReduce .sumSat t x y (decide (a = b))) 10) ∧
        exec (.vredmax t d a b) s = .next (vectored s 4 d [] (vecReduce .max t x y (decide (a = b))) 10) ∧
        exec (.vredmin t d a b) s = .next (vectored s 4 d [] (vecReduce .min t x y (decide (a = b))) 10) ∧
        exec (.vdot t d a b) s = .next (vectored s 4 d [] (vecDot t false x y) 10) ∧
        exec (.vdotSat t d a b) s = .next (vectored s 4 d [] (vecDot t true x y) 10)) ∧
      (InWindow s [d, a] → VReads s [a] →
        exec (.vaddLit t d a lit) s = .next (vectored s 12 d [] (vecArith .add t x l 0) (arithLatency .add t)) ∧
        exec (.vsubLit t d a lit) s = .next (vectored s 12 d [] (vecArith .sub t x l 0) (arithLatency .sub t)) ∧
        exec (.vmulLit t d a lit) s = .next (vectored s 12 d [] (vecArith .mul t x l 0) 6) ∧
        exec (.vmaxLit t d a lit) s = .next (vectored s 12 d [] (vecArith .max t x l 0) (arithLatency .max t)) ∧
        exec (.vminLit t d a lit) s = .next (vectored s 12 d [] (vecArith .min t x l 0) (arithLatency .min t)) ∧
        exec (.vaddSatLit t d a lit) s = .next (vectored s 12 d [] (vecArith .addSat t x l 0) (arithLatency .addSat t)) ∧
        exec (.vsubSatLit t d a lit) s = .next (vectored s 12 d [] (vecArith .subSat t x l 0) (arithLatency .subSat t)) ∧
        exec (.vcmpEqLit t d a lit) s = .next (vectored s 12 d [] (vecCompare .eq t x l, 0) 4) ∧
        exec (.vcmpNeLit t d a lit) s = .next (vectored s 12 d [] (vecCompare .ne t x l, 0) 4) ∧
        exec (.vcmpLtLit t d a lit) s = .next (vectored s 12 d [] (vecCompare .lt t x l, 0) 4) ∧
        exec (.vcmpLeLit t d a lit) s = .next (vectored s 12 d [] (vecCompare .le t x l, 0) 4) ∧
        exec (.vandLit t d a lit) s = .next (vectored s 12 d [] (x &&& l, 0) 4) ∧
        exec (.vorLit t d a lit) s = .next (vectored s 12 d [] (x ||| l, 0) 4) ∧
        exec (.vxorLit t d a lit) s = .next (vectored s 12 d [] (x ^^^ l, 0) 4) ∧
        exec (.vshlLit t d a lit) s = .next (vectored s 12 d [] (vecShift .left t x l, 0) 4) ∧
        exec (.vshrLit t d a lit) s = .next (vectored s 12 d [] (vecShift .right t x l, 0) 4) ∧
        exec (.vsarLit t d a lit) s = .next (vectored s 12 d [] (vecShift .arith t x l, 0) 4))) ∧
  (∀ (s : State) (t src : ElemType) (d a b : VReg) (g e : Reg) (lit : Word64),
      let x := (s.vecReg a).val
      let y := (s.vecReg b).val
      let z := (s.vecReg d).val
      let l := literalLanes t lit
      (VTakes s d →
        (InWindow s [d, a, b] → VReads s [d, a, b] →
          exec (.vfma t d a b) s = .next (vectored s 4 d [] (vecArith .fma t x y z) 6) ∧
          exec (.vfms t d a b) s = .next (vectored s 4 d [] (vecArith .fms t x y z) 6) ∧
          exec (.vsel t d a b) s = .next (vectored s 4 d [] (vecSelect t x y z, 0) 4)) ∧
        (InWindow s [d, a] → VReads s [d, a] →
          exec (.vfmaLit t d a lit) s = .next (vectored s 12 d [] (vecArith .fma t x l z) 6) ∧
          exec (.vfmsLit t d a lit) s = .next (vectored s 12 d [] (vecArith .fms t x l z) 6) ∧
          exec (.vselLit t d a lit) s = .next (vectored s 12 d [] (vecSelect t x l z, 0) 4)) ∧
        (InWindow s [d, a] → VReads s [a] →
          exec (.vabs t d a) s = .next (vectored s 4 d [] (vecArith .abs t x 0 0) (arithLatency .abs t)) ∧
          exec (.vneg t d a) s = .next (vectored s 4 d [] (vecArith .neg t x 0 0) (arithLatency .neg t)) ∧
          exec (.vexp2 t d a) s = .next (vectored s 4 d [] (vecFunction .exp2 t x) 12) ∧
          exec (.vlog2 t d a) s = .next (vectored s 4 d [] (vecFunction .log2 t x) 12) ∧
          exec (.vrcp t d a) s = .next (vectored s 4 d [] (vecFunction .rcp t x) 12) ∧
          exec (.vrsq t d a) s = .next (vectored s 4 d [] (vecFunction .rsq t x) 12) ∧
          exec (.vcvt t src d a) s = .next (vectored s 4 d [] (vecConvert t src false x) 6) ∧
          exec (.vcvtSat t src d a) s = .next (vectored s 4 d [] (vecConvert t src true x) 6) ∧
          (Reads s [g] →
            exec (.vcvtSr t d a g) s = .next (vectored s 4 d [g] (vecStochastic t (s.val g) x) 6) ∧
            exec (.vslide t d a g) s = .next (vectored s 4 d [g] (vecSlide t x (s.val g).toInt, 0) 5))) ∧
        (InWindow s [d] →
          exec (.viota t d) s = .next (vectored s 4 d [] (vecIota t, 0) 4) ∧
          (Reads s [g] → exec (.vbcast t d g) s = .next (vectored s 4 d [g] (vecBroadcast t (s.val g), 0) 4)))) ∧
      (InWindow s [a] → VReads s [a] → Reads s [g] → Takes s e → s.curCore.dispatch.length < 16 →
        ((s.val g).toNat < laneCount t →
          exec (.vmovg t e a g) s = .next ((((s.consume [g]).writePending e).dispatch
            (.vec { kind := .reg e (movedLane t x (s.val g).toNat), flags := 0, latency := 4 })).advance 4).endWalks) ∧
        (laneCount t ≤ (s.val g).toNat → exec (.vmovg t e a g) s = .next (s.takeTrap 11 (s.val g) s.ctx.pc).endWalks)))

/-- The node at a level of a pairwise tree over leaves, with the flags under it (R38): the nodes `2 i` and `2 i + 1` of the level below. -/
def treeNode {α : Type} (op : α → α → α × Flags) (leaf : Nat → α × Flags) : Nat → Nat → α × Flags
  | 0, i => leaf i
  | k + 1, i =>
    let a := treeNode op leaf k (2 * i)
    let b := treeNode op leaf k (2 * i + 1)
    let c := op a.1 b.1
    (c.1, a.2 ||| b.2 ||| c.2)

/-- Where a vector register that is named lies outside the window, the window trap with the number of the first such (R286). -/
def OutsideWindow (s : State) (names : List VReg) (o : Out) : Prop :=
  ∀ v, names.find? (fun v => decide (s.ctx.vwinSize.toNat ≤ v.val)) = some v →
    o = .next (s.takeTrap 5 (BitVec.ofNat 64 v.val) s.ctx.pc).endWalks

/-- Lane by lane, the integer vector operations give on INT32 the sum, difference and product modulo 2^32, all ones where a compare
holds, the selected lane and the lane at the index of a shuffle, on INT8 the clipped sum with SAT exactly when a lane clips, and
`viota` numbers the lanes. In every type a shift moves a lane by its count modulo the width, and `vslide` and `vbcast` move lanes as
they are. An integer reduction sums modulo 2^32 the lanes that take part, or gives the greatest or the least of them and the extreme where
none does; a dot product sums the lane products modulo 2^32; the saturating forms clip at every node of the tree, a dot product's products
too, with SAT exactly when one clips (R27, R38, R290, R292, R295, R296). -/
def Obligations.IntegerLanes : Prop :=
  ∀ (x y z : BitVec 512),
    (∀ i < 16,
      laneOf (vecArith .add .i32 x y z).1 32 i = (laneOf x 32 i + laneOf y 32 i) % 2 ^ 32 ∧
      laneOf (vecArith .sub .i32 x y z).1 32 i = (laneOf x 32 i + 2 ^ 32 - laneOf y 32 i) % 2 ^ 32 ∧
      laneOf (vecArith .mul .i32 x y z).1 32 i = laneOf x 32 i * laneOf y 32 i % 2 ^ 32 ∧
      laneOf (vecCompare .lt .i32 x y) 32 i =
        (if signedOf 32 (laneOf x 32 i) < signedOf 32 (laneOf y 32 i) then 2 ^ 32 - 1 else 0) ∧
      laneOf (vecCompare .eq .i32 x y) 32 i = (if laneOf x 32 i = laneOf y 32 i then 2 ^ 32 - 1 else 0) ∧
      laneOf (vecSelect .i32 x y z) 32 i = (if laneOf z 32 i ≠ 0 then laneOf x 32 i else laneOf y 32 i) ∧
      laneOf (vecShuffle .i32 x y) 32 i = laneOf x 32 (laneOf y 32 i % 16) ∧
      laneOf (vecIota .i32) 32 i = i) ∧
    (∀ i < 64, signedOf 8 (laneOf (vecArith .addSat .i8 x y z).1 8 i) =
      max (-128) (min 127 (signedOf 8 (laneOf x 8 i) + signedOf 8 (laneOf y 8 i)))) ∧
    ((vecArith .addSat .i8 x y z).2 = flagSat ∨ (vecArith .addSat .i8 x y z).2 = 0) ∧
    ((vecArith .addSat .i8 x y z).2 = flagSat ↔ ∃ i < 64, signedOf 8 (laneOf x 8 i) + signedOf 8 (laneOf y 8 i) < -128 ∨
      127 < signedOf 8 (laneOf x 8 i) + signedOf 8 (laneOf y 8 i)) ∧
    (vecArith .add .i32 x y z).2 = 0 ∧
    (∀ (t : ElemType) (k : Int) (g : Word64),
      let w := elemBits t
      ∀ i < 512 / w,
        let c := laneOf y w i % w
        laneOf (vecShift .left t x y) w i = laneOf x w i * 2 ^ c % 2 ^ w ∧
        laneOf (vecShift .right t x y) w i = laneOf x w i / 2 ^ c ∧
        signedOf w (laneOf (vecShift .arith t x y) w i) = signedOf w (laneOf x w i) / 2 ^ c ∧
        laneOf (vecSlide t x k) w i = (if 0 ≤ (i : Int) + k ∧ (i : Int) + k < (512 / w : Nat) then laneOf x w ((i : Int) + k).toNat else 0) ∧
        laneOf (vecBroadcast t g) w i = g.toNat % 2 ^ w) ∧
    (∀ (t : ElemType) (k : Nat) (all : Bool), (t, k) ∈ [(ElemType.i32, 4), (.i16, 5), (.i8, 6), (.ui8, 6), (.i4, 7)] →
      let w := elemBits t
      let a (i : Nat) : Int := intLane t (laneOf x w i)
      let on (i : Nat) : Bool := all || decide (laneOf y w i ≠ 0)
      let prod (i : Nat) : Int := intLane t (laneOf x w i) * intLane t (laneOf y w i)
      let total (f : Nat → Int) : Int := ((List.range (2 ^ k)).map f).sum
      let result (o : BitVec 512 × Flags) : Int := signedOf 32 o.1.toNat
      let clip (v : Int) : Int := max (-2 ^ 31) (min (2 ^ 31 - 1) v)
      let clipped (v : Int) : Flags := if clip v = v then 0 else flagSat
      let node (p q : Int) : Int × Flags := (clip (p + q), clipped (p + q))
      let whole (o : BitVec 512 × Flags) (n : Int × Flags) : Prop := o.1.toNat < 2 ^ 32 ∧ result o = n.1 ∧ o.2 = n.2
      (((vecReduce .sum t x y all).1.toNat : Int) = (total fun i => if on i then a i else 0) % 2 ^ 32 ∧ (vecReduce .sum t x y all).2 = 0) ∧
      (((vecDot t false x y).1.toNat : Int) = total prod % 2 ^ 32 ∧ (vecDot t false x y).2 = 0) ∧
      (let m := vecReduce .max t x y all
       m.1.toNat < 2 ^ 32 ∧ m.2 = 0 ∧ (∀ i < 2 ^ k, on i = true → a i ≤ result m) ∧
        ((∃ i < 2 ^ k, on i = true ∧ result m = a i) ∨ ((∀ i < 2 ^ k, on i = false) ∧ result m = -2 ^ 31))) ∧
      (let m := vecReduce .min t x y all
       m.1.toNat < 2 ^ 32 ∧ m.2 = 0 ∧ (∀ i < 2 ^ k, on i = true → result m ≤ a i) ∧
        ((∃ i < 2 ^ k, on i = true ∧ result m = a i) ∨ ((∀ i < 2 ^ k, on i = false) ∧ result m = 2 ^ 31 - 1))) ∧
      whole (vecReduce .sumSat t x y all) (treeNode node (fun i => (if on i then a i else 0, 0)) k 0) ∧
      whole (vecDot t true x y) (treeNode node (fun i => (clip (prod i), clipped (prod i))) k 0))

/-- An encoding has the value of its fields, in a format that flushes zero for a subnormal one (R23, R31). A finite value rounds to the
nearest encoding, to the even one where two are as near: it overflows exactly where its rounded magnitude exceeds the largest finite one,
turns zero of its sign where a format that flushes would make it subnormal, and sets the flags of R31 to R33. A lane of an addition, a
product or a fused form has the exact value rounded once; a NaN gives the canonical NaN without a flag, ∞ − ∞ and 0 × ∞ give it with NV, and
any other sum, product or fused form with an infinity is infinite; an infinity converts to itself, and to E4M3 as R33 says; an infinity is
above or below every finite value in `vmax`, `vmin` and compares; compares hold of the values, and none but `ne` of a NaN; the transcendental forms have their special values; conversions saturate, clip and
truncate as R33, R34 and R293 say, and the stochastic one rounds away from zero where the fraction and its draw reach one unit. A
reduction and a dot product combine their lanes by the tree of R38 in FP32: a sum rounds at every node, the products of a dot product enter
exact, of FP32 rounded once, and a lane that is excluded enters as the identity (R24, R29,
R35, R38, R290 to R294, R296). -/
def Obligations.FloatLanes : Prop :=
  (∀ (f : FloatFormat) (neg : Bool) (x k : Nat), f ∈ [fp32, fp16, bf16, fpE4m3, fpE5m2] → x < 2 ^ f.eb → k < 2 ^ f.mb → ∀ flush : Bool,
    let bits := (if neg then 2 ^ (f.eb + f.mb) else 0) + x * 2 ^ f.mb + k
    (x = 0 → decodeFloat f flush bits = .fin neg (if flush then 0 else k) (if flush then 0 else 1 - (f.bias : Int) - f.mb)) ∧
    (0 < x → (if f.e4m3 then ¬ (x = 15 ∧ k = 7) else x < 2 ^ f.eb - 1) →
      decodeFloat f flush bits = .fin neg (2 ^ f.mb + k) ((x : Int) - f.bias - f.mb)) ∧
    (x = 2 ^ f.eb - 1 → f.e4m3 = false → decodeFloat f flush bits = if k = 0 then .inf neg else .nan) ∧
    (f.e4m3 = true → x = 15 → k = 7 → decodeFloat f flush bits = .nan)) ∧
  (∀ (f : FloatFormat) (neg : Bool) (m : Nat) (e : Int), f ∈ [fp32, fp16, bf16, fpE4m3, fpE5m2] → 0 < m →
    let sign := if neg then 2 ^ (f.eb + f.mb) else 0
    let q : Int := min e (-(f.bias : Int) - f.mb - 1)
    let val (m : Nat) (e : Int) : Int := (m : Int) * 2 ^ (e - q).toNat
    let top := if f.e4m3 then val 29 4 < val m e else val (2 ^ (f.mb + 2) - 1) ((f.bias : Int) - f.mb - 1) ≤ val m e
    let tiny := val m e < val (2 ^ (f.mb + 2) - 1) (-(f.bias : Int) - f.mb - 1)
    let r := encodeFloat f false (.fin neg m e)
    (top → f.e4m3 = false → r = (sign + (2 ^ f.eb - 1) * 2 ^ f.mb, flagOf ||| flagNx) ∧
      encodeFloat f true (.fin neg m e) = (sign + (2 ^ f.eb - 1) * 2 ^ f.mb - 1, flagSat ||| flagNx)) ∧
    (top → f.e4m3 = true → r = (0x7F, flagOf ||| flagNx) ∧ encodeFloat f true (.fin neg m e) = (sign + 0x7E, flagSat ||| flagNx)) ∧
    (tiny → f.flush = true → r = (sign, flagUf ||| flagNx)) ∧
    (¬ top → ¬ (tiny ∧ f.flush = true) → encodeFloat f true (.fin neg m e) = r ∧ ∃ m' e', decodeFloat f f.flush r.1 = .fin neg m' e' ∧
      let off := (val m e - val m' e').natAbs
      (2 * off : Int) ≤ val 1 e' ∧ ((2 * off : Int) = val 1 e' → m' % 2 = 0) ∧
      (m' = 2 ^ f.mb → val m e < val m' e' → 1 - (f.bias : Int) - f.mb < e' → (4 * off : Int) ≤ val 1 e') ∧
      r.2 = if off = 0 then 0 else if tiny then flagUf ||| flagNx else flagNx)) ∧
  ([fp32, fp16, bf16, fpE4m3, fpE5m2].map (fun f => encodeFloat f false .nan) =
    [(0x7FC00000, 0), (0x7E00, 0), (0x7FC0, 0), (0x7F, 0), (0x7E, 0)]) ∧
  (∀ neg sat : Bool,
    (∀ f ∈ [fp32, fp16, bf16, fpE5m2], encodeFloat f sat (.inf neg) =
      ((if neg then 2 ^ (f.eb + f.mb) else 0) + (2 ^ f.eb - 1) * 2 ^ f.mb, 0)) ∧
    encodeFloat fpE4m3 sat (.inf neg) = if sat then ((if neg then 0x80 else 0) + 0x7E, flagSat) else (0x7F, flagNv)) ∧
  (∀ (t : ElemType) (f : FloatFormat) (a b d : Nat), (t, f) ∈ [(.f32, fp32), (.f16, fp16), (.bf16, bf16)] →
    let x := decodeFloat f f.flush a
    let y := decodeFloat f f.flush b
    let z := decodeFloat f f.flush d
    let sign (n : Bool) : Nat := if n then 2 ^ (f.eb + f.mb) else 0
    let inf (n : Bool) : Nat := sign n + (2 ^ f.eb - 1) * 2 ^ f.mb
    let bad (g : Flags) : Nat × Flags := ((encodeFloat f false .nan).1, g)
    let exactly (o : Nat × Flags) (n1 : Bool) (m1 : Nat) (e1 : Int) (n2 : Bool) (m2 : Nat) (e2 : Int) : Prop :=
      ∃ n m e, o = encodeFloat f false (.fin n m e) ∧ (m = 0 → n = (n1 && n2)) ∧ ∀ q : Int, q ≤ e → q ≤ e1 → q ≤ e2 →
        scaled n m e q = scaled n1 m1 e1 q + scaled n2 m2 e2 q
    (∀ na ma ea nb mb eb, x = .fin na ma ea → y = .fin nb mb eb →
      exactly (arithLane .add t a b d) na ma ea nb mb eb ∧ exactly (arithLane .sub t a b d) na ma ea (!nb) mb eb ∧
      arithLane .mul t a b d = encodeFloat f false (.fin (na != nb) (ma * mb) (ea + eb)) ∧
      (∀ nd md ed, z = .fin nd md ed → exactly (arithLane .fma t a b d) (na != nb) (ma * mb) (ea + eb) nd md ed ∧
        exactly (arithLane .fms t a b d) nd md ed (na == nb) (ma * mb) (ea + eb)) ∧
      (let less := decide (scaled na ma ea (min ea eb) < scaled nb mb eb (min ea eb))
       let more := decide (scaled nb mb eb (min ea eb) < scaled na ma ea (min ea eb))
       let zeros := decide (ma = 0 ∧ mb = 0)
       arithLane .max t a b d = encodeFloat f false (if less || (zeros && na && !nb) then y else x) ∧
       arithLane .min t a b d = encodeFloat f false (if more || (zeros && !na && nb) then y else x) ∧
       testLane .lt t a b = less ∧ testLane .le t a b = !more ∧ testLane .eq t a b = (!less && !more) ∧
       testLane .ne t a b = (less || more))) ∧
    (x = .nan ∨ y = .nan → (∀ op ∈ [VecOp.add, .sub, .mul, .fma, .fms, .max, .min], arithLane op t a b d = bad 0) ∧
      testLane .ne t a b = true ∧ ∀ c ∈ [VecTest.eq, .lt, .le], testLane c t a b = false) ∧
    (∀ n, x = .inf n → (y = .inf n → arithLane .add t a b d = (inf n, 0) ∧ arithLane .sub t a b d = bad flagNv) ∧
      (y = .inf (!n) → arithLane .add t a b d = bad flagNv ∧ arithLane .sub t a b d = (inf n, 0)) ∧
      ∀ nb mb eb, y = .fin nb mb eb → arithLane .add t a b d = (inf n, 0) ∧ arithLane .sub t a b d = (inf n, 0) ∧
        arithLane .mul t a b d = (if mb = 0 then bad flagNv else (inf (n != nb), 0)) ∧
        (mb = 0 → arithLane .fma t a b d = bad flagNv ∧ arithLane .fms t a b d = bad flagNv) ∧
        testLane .lt t a b = n ∧ testLane .lt t b a = !n) ∧
    (∀ n, x = .inf n →
      (∀ nb mb eb, y = .fin nb mb eb →
        (∀ o ∈ [arithLane .max t a b d, arithLane .max t b a d], o = if n then encodeFloat f false y else (inf n, 0)) ∧
        (∀ o ∈ [arithLane .min t a b d, arithLane .min t b a d], o = if n then (inf n, 0) else encodeFloat f false y) ∧
        testLane .le t a b = n ∧ testLane .le t b a = !n ∧ testLane .eq t a b = false ∧ testLane .eq t b a = false ∧
        testLane .ne t a b = true ∧ testLane .ne t b a = true ∧
        arithLane .add t b a d = (inf n, 0) ∧ arithLane .sub t b a d = (inf (!n), 0) ∧
        arithLane .mul t b a d = (if mb = 0 then bad flagNv else (inf (n != nb), 0)) ∧
        (mb = 0 → arithLane .fma t b a d = bad flagNv ∧ arithLane .fms t b a d = bad flagNv)) ∧
      (∀ m, y = .inf m →
        arithLane .max t a b d = (inf (n && m), 0) ∧ arithLane .min t a b d = (inf (n || m), 0) ∧
        testLane .lt t a b = (n && !m) ∧ testLane .le t a b = (n || !m) ∧ testLane .eq t a b = (n == m) ∧
        testLane .ne t a b = (n != m) ∧ arithLane .mul t a b d = (inf (n != m), 0)) ∧
      (∀ minus, (y = .inf (n != minus) ∨ ∃ mb eb, y = .fin (n != minus) mb eb ∧ 0 < mb) →
        (∀ o ∈ [arithLane .fma t a b d, arithLane .fma t b a d],
          (z.isNan = false → z ≠ .inf (!minus) → o = (inf minus, 0)) ∧ (z = .inf (!minus) → o = bad flagNv) ∧ (z = .nan → o = bad 0)) ∧
        (∀ o ∈ [arithLane .fms t a b d, arithLane .fms t b a d],
          (z.isNan = false → z ≠ .inf minus → o = (inf (!minus), 0)) ∧ (z = .inf minus → o = bad flagNv) ∧ (z = .nan → o = bad 0)))) ∧
    (∀ na ma ea nb mb eb, x = .fin na ma ea → y = .fin nb mb eb →
      (∀ n, z = .inf n → arithLane .fma t a b d = (inf n, 0) ∧ arithLane .fms t a b d = (inf n, 0)) ∧
      (z = .nan → arithLane .fma t a b d = bad 0 ∧ arithLane .fms t a b d = bad 0)) ∧
    (∀ nb mb eb, x.isNan = false → y = .fin nb mb eb → 0 < mb → z = .nan → arithLane .fma t a b d = bad 0 ∧ arithLane .fms t a b d = bad 0) ∧
    (∀ g : VecFun, transcend g .nan = (.nan, 0)) ∧
    (∀ n, transcend .exp2 (.inf n) = (if n then .fin false 0 0 else .inf false, 0) ∧ transcend .rcp (.inf n) = (.fin n 0 0, 0) ∧
      transcend .log2 (.inf n) = (if n then (.nan, flagNv) else (.inf false, 0)) ∧
      transcend .rsq (.inf n) = (if n then (.nan, flagNv) else (.fin false 0 0, 0))) ∧
    (∀ n e, transcend .rcp (.fin n 0 e) = (.inf n, flagDz) ∧ transcend .rsq (.fin n 0 e) = (.inf n, flagDz) ∧
      transcend .log2 (.fin n 0 e) = (.inf true, flagDz)) ∧
    (∀ m e, 0 < m → transcend .log2 (.fin true m e) = (.nan, flagNv) ∧ transcend .rsq (.fin true m e) = (.nan, flagNv))) ∧
  (∀ (src dst : ElemType) (flip : Bool) (n : Nat),
    (∀ f g, formatOf src = some f → formatOf dst = some g →
      convertLane dst src flip n = encodeFloat g (decide (dst = .e4m3) != flip) (decodeFloat f f.flush n)) ∧
    (∀ f, formatOf src = some f → formatOf dst = none →
      let w := elemBits dst
      let lo := intLo dst
      let hi := intHi dst
      (decodeFloat f f.flush n = .nan → convertLane dst src flip n = (0, flagNv)) ∧
      (∀ neg, decodeFloat f f.flush n = .inf neg → convertLane dst src flip n = (wrapTo w (if neg then lo else hi), flagNv)) ∧
      (∀ neg m e, decodeFloat f f.flush n = .fin neg m e →
        let num : Int := (if neg then -1 else 1) * ((m : Int) * 2 ^ e.toNat)
        let v := num.tdiv (2 ^ (-e).toNat)
        (lo ≤ v → v ≤ hi → convertLane dst src flip n = (wrapTo w v, if v * 2 ^ (-e).toNat = num then 0 else flagNx)) ∧
        (v < lo → convertLane dst src flip n = (wrapTo w lo, flagNv)) ∧ (hi < v → convertLane dst src flip n = (wrapTo w hi, flagNv)))) ∧
    (∀ g, formatOf src = none → formatOf dst = some g → convertLane dst src flip n = encodeFloat g (decide (dst = .e4m3) != flip)
      (.fin (decide (intLane src n < 0)) (intLane src n).natAbs 0)) ∧
    (formatOf src = none → formatOf dst = none →
      let v := intLane src n
      (intLo dst ≤ v → v ≤ intHi dst → convertLane dst src flip n = (wrapTo (elemBits dst) v, 0)) ∧
      (v < intLo dst → convertLane dst src flip n = (wrapTo (elemBits dst) (intLo dst), flagSat)) ∧
      (intHi dst < v → convertLane dst src flip n = (wrapTo (elemBits dst) (intHi dst), flagSat)))) ∧
  (∀ (dst : ElemType) (g : FloatFormat) (seed : Word64) (a : BitVec 512) (neg : Bool) (m : Nat) (e : Int), formatOf dst = some g →
    (∀ i < 16, elemBits dst ≤ 16 → laneOf (vecStochastic dst seed a).1 (elemBits dst) i =
      (stochastic g (decide (dst = .e4m3)) (srBits seed.toNat i) (decodeFloat fp32 false (laneOf a 32 i))).1) ∧
    (let q : Int := max (e + bitLength m - (g.mb + 1)) (1 - (g.bias : Int) - g.mb)
     let unit := 2 ^ (q - e).toNat
     0 < m → e < q → ∀ draw < 2 ^ 16, (stochastic g (decide (dst = .e4m3)) draw (.fin neg m e)).1 =
       (encodeFloat g (decide (dst = .e4m3))
         (.fin neg (if 2 ^ 16 ≤ 2 ^ 16 * (m % unit) / unit + draw then m / unit + 1 else m / unit) q)).1)) ∧
  (∀ (t : ElemType) (f : FloatFormat) (k : Nat) (all sat : Bool) (x y : BitVec 512),
    (t, f, k) ∈ [(ElemType.f32, fp32, 4), (.f16, fp16, 5), (.bf16, bf16, 5), (.e4m3, fpE4m3, 6), (.e5m2, fpE5m2, 6)] →
    let w := elemBits t
    let a (i : Nat) : FVal := decodeFloat f f.flush (laneOf x w i)
    let on (i : Nat) : Bool := all || decide (laneOf y w i ≠ 0)
    let tree (op : FVal → FVal → FVal × Flags) (leaf : Nat → FVal × Flags) : BitVec 512 × Flags :=
      let n := treeNode op leaf k 0
      let o := encodeFloat fp32 false n.1
      (BitVec.ofNat 512 o.1, n.2 ||| o.2)
    let lane (out : FVal) (i : Nat) : FVal × Flags := (if on i then a i else out, 0)
    (∀ r ∈ [VecRed.sum, .sumSat], vecReduce r t x y all = tree addFp32 (lane (.fin false 0 0))) ∧
    vecReduce .max t x y all = tree (fun p q => (fmax p q, 0)) (lane (.inf true)) ∧
    vecReduce .min t x y all = tree (fun p q => (fmin p q, 0)) (lane (.inf false)) ∧
    vecDot t sat x y = tree addFp32 fun i =>
      let p := fmul (a i) (decodeFloat f f.flush (laneOf y w i))
      if t = .f32 then ((roundTo fp32 p.1).1, p.2 ||| (roundTo fp32 p.1).2) else p)

/-- A vector instruction of majors 0x40 to 0x44, an `acrd` or an `acwr` that names a register outside the thread's window takes the window
trap with the number of the first such register, in the order D, A, B, before any source is read; an `ldv`, `stv`, `gath` or `scat` does so
once its address register can be read and no acquire of the thread is unanswered (R94). The array takes the head of the queue it grants and puts a vector result on its way with its latency; a result that is due
fills its register and ORs its flags into its thread's (R230, R286, R287). -/
def Obligations.VectorResults : Prop :=
  ∀ (s : State) (t src : ElemType) (d a b : VReg) (e g : Reg) (sg : Seg) (off : BitVec 7) (lit : Word64) (p q i k : Nat),
    (∀ o ∈ [exec (.vadd t d a b) s, exec (.vsub t d a b) s, exec (.vmul t d a b) s, exec (.vmax t d a b) s, exec (.vmin t d a b) s,
        exec (.vaddSat t d a b) s, exec (.vsubSat t d a b) s, exec (.vfma t d a b) s, exec (.vfms t d a b) s, exec (.vcmpEq t d a b) s,
        exec (.vcmpNe t d a b) s, exec (.vcmpLt t d a b) s, exec (.vcmpLe t d a b) s, exec (.vsel t d a b) s, exec (.vand t d a b) s,
        exec (.vor t d a b) s, exec (.vxor t d a b) s, exec (.vshl t d a b) s, exec (.vshr t d a b) s, exec (.vsar t d a b) s,
        exec (.vshuf t d a b) s, exec (.vredsum t d a b) s, exec (.vredsumSat t d a b) s, exec (.vredmax t d a b) s,
        exec (.vredmin t d a b) s, exec (.vdot t d a b) s, exec (.vdotSat t d a b) s], OutsideWindow s [d, a, b] o) ∧
    (∀ o ∈ [exec (.vaddLit t d a lit) s, exec (.vsubLit t d a lit) s, exec (.vmulLit t d a lit) s, exec (.vmaxLit t d a lit) s,
        exec (.vminLit t d a lit) s, exec (.vaddSatLit t d a lit) s, exec (.vsubSatLit t d a lit) s, exec (.vfmaLit t d a lit) s,
        exec (.vfmsLit t d a lit) s, exec (.vcmpEqLit t d a lit) s, exec (.vcmpNeLit t d a lit) s, exec (.vcmpLtLit t d a lit) s,
        exec (.vcmpLeLit t d a lit) s, exec (.vselLit t d a lit) s, exec (.vandLit t d a lit) s, exec (.vorLit t d a lit) s,
        exec (.vxorLit t d a lit) s, exec (.vshlLit t d a lit) s, exec (.vshrLit t d a lit) s, exec (.vsarLit t d a lit) s,
        exec (.vabs t d a) s, exec (.vneg t d a) s, exec (.vexp2 t d a) s, exec (.vlog2 t d a) s, exec (.vrcp t d a) s,
        exec (.vrsq t d a) s, exec (.vcvt t src d a) s, exec (.vcvtSat t src d a) s, exec (.vcvtSr t d a g) s,
        exec (.vslide t d a g) s], OutsideWindow s [d, a] o) ∧
    (∀ o ∈ [exec (.viota t d) s, exec (.vbcast t d g) s], OutsideWindow s [d] o) ∧
    OutsideWindow s [a] (exec (.vmovg t e a g) s) ∧
    (∀ o ∈ [exec (.acrd e g) s, exec (.acwr e g) s], OutsideWindow s [State.lowVreg e] o) ∧
    (Reads s [g] → s.ctx.acquiring = [] →
      (∀ o ∈ [exec (.ldv d sg g off) s, exec (.ldvLit d sg g lit) s, exec (.stv d sg g off) s, exec (.stvLit d sg g lit) s],
        OutsideWindow s [d] o) ∧
      (∀ o ∈ [exec (.gath t d sg g b) s, exec (.scat t d sg g b) s], OutsideWindow s [d, b] o)) ∧
    (∀ h rest j, s.live p = true → (s.quad p q).accepted ≠ (s.part p).cycle + 1 →
      (s.quad p q).granted (s.part p).det (s.part p).cycle (s.part p).launchedAt = some i →
      ((s.quad p q).cores.getD i {}).dispatch = h :: rest →
      let C : Core := { ((s.quad p q).cores.getD i {}) with dispatch := rest }
      let taken (Q : Quad) (C : Core) : Quad := { Q with lastGrant := i, accepted := (s.part p).cycle + 1, cores := Q.cores.put i C }
      (h.cmd = .vec j → exec (.arrayAccept p q) s = .next (s.modQuad p q fun Q =>
        { taken Q C with
          results := Q.results ++ [{ tid := h.tid, gen := h.gen, shadow := h.shadow, due := (s.part p).cycle + j.latency,
                                     kind := j.kind, flags := j.flags }] })) ∧
      (∀ y, h.cmd = .step y → exec (.arrayAccept p q) s = .next (s.modQuad p q fun Q =>
        { taken Q C with matrix := Q.matrix ++ [{ h with cmd := .step { y with codebook := C.codebook } }] })) ∧
      (∀ id r, h.cmd = .cbld id (some r) → exec (.arrayAccept p q) s = .next (s.modQuad p q fun Q =>
        { taken Q { C with codebook := .loaded r } with matrix := Q.matrix ++ [h] })) ∧
      ((∃ n m, h.cmd = .aclr n m) ∨ (∃ v n, h.cmd = .acrd v n) ∨ (∃ n v, h.cmd = .acwr n v) →
        exec (.arrayAccept p q) s = .next (s.modQuad p q fun Q => { taken Q C with matrix := Q.matrix ++ [h] }))) ∧
    (∀ h rest, ((s.quad p q).cores.getD ((s.part p).cycle - (s.part p).launchedAt) {}).dispatch = h :: rest → h.issued < (s.part p).cycle →
      (∃ j, h.cmd = .vec j) → (s.part p).cycle - (s.part p).launchedAt < 4 →
      (s.quad p q).granted true (s.part p).cycle (s.part p).launchedAt = some ((s.part p).cycle - (s.part p).launchedAt)) ∧
    (∀ x v val po, (s.quad p q).results[k]? = some x → x.due ≤ (s.part p).cycle → x.kind = .vec v val po →
      (s.threadCtx p x.tid).gen = x.gen →
      ∃ u, exec (.vectorResult p q k) s = .next u ∧ u.vreg p (coreOf x.tid) v = { val := val, full := true, poison := po } ∧
        (u.threadCtx p x.tid).flags = (s.threadCtx p x.tid).flags ||| x.flags ∧ u.mem = s.mem)

/-- `mma` and `mmar` in both forms complete where R302 holds of their operands, the dispatch queue has room and the open batch has
room: the step is dispatched as a member of the batch, and an `mma` leaves its K, N and BTYPE for later `mmar`. `aclr`, `acrd` and
`acwr`, accesses of the thread to a local home (R87), and `cbld` complete with their commands dispatched where their indices, compared as
signed numbers, are not above what the accumulator holds and their operands stand, and take the operand trap where they are above it (R4,
R301, R302, R308 to R310, R312). That a negative index or count names the words it reaches that exist is the model's choice (log 135). -/
def Obligations.MatrixComplete : Prop :=
  ∀ (s : State) (h : Header) (d a b : Reg) (f : MmaFields) (g : MmarFields) (lit : Word64) (sg : Seg),
    (∀ alim blim, StepFits s (State.mmaIssue h d a b f 0) alim blim →
      exec (.mma h d a b f) s = .next (stepped s 12 (State.mmaIssue h d a b f 0))) ∧
    (∀ alim blim, StepFits s (State.mmaIssue h d a b f lit) alim blim →
      exec (.mmaPitch h d a b f lit) s = .next (stepped s 20 (State.mmaIssue h d a b f lit))) ∧
    (∀ alim blim, StepFits s (s.mmarIssue h d a g 0) alim blim →
      exec (.mmar h d a g) s = .next (stepped s 12 (s.mmarIssue h d a g 0))) ∧
    (∀ alim blim, StepFits s (s.mmarIssue h d a g lit) alim blim →
      exec (.mmarPitch h d a g lit) s = .next (stepped s 20 (s.mmarIssue h d a g lit))) ∧
    (s.curCore.dispatch.length < 16 → s.ctx.acquiring = [] →
      (Reads s [a, b] → (s.val a).toInt < 8192 → (s.val a).toInt + (s.val b).toInt ≤ 8192 →
        exec (.aclr a b) s = .next (((s.consume [a, b]).dispatchAccess
          (.aclr (s.val a).toInt.toNat (((s.val a).toInt + (s.val b).toInt).toNat - (s.val a).toInt.toNat))).advance 4).endWalks) ∧
      (Reads s [a] → (s.val a).toInt ≤ 8176 → InWindow s [State.lowVreg d] →
        ((s.vecReg (State.lowVreg d)).settled = true → exec (.acrd d a) s =
          .next ((((s.consume [a]).vpending (State.lowVreg d)).dispatchAccess (.acrd (s.phys (State.lowVreg d)) (s.val a).toInt)).advance
            4).endWalks) ∧
        (VReads s [State.lowVreg d] → exec (.acwr d a) s =
          .next (((s.consume [a]).dispatchAccess (.acwr (s.val a).toInt (s.vecReg (State.lowVreg d)).val)).advance 4).endWalks)) ∧
      (Reads s [a] → InSegment (s.seg sg) (s.val a).toInt 32 rightR →
        let addr := (s.seg sg).addr (s.val a).toInt
        addr % 32 = 0 →
        ((s.seg sg).isK = true → ∀ t bytes po, s.spadLoad s.cur.part s.cur.core s.cur.ctx addr 32 = (t, bytes, po) →
          exec (.cbld sg a) s =
            .next (((t.consume [a]).dispatch (.cbld t.nextAccess (some { bytes := bytes, poison := po }))).advance 4).endWalks) ∧
        ((s.seg sg).isK = false → Placed s addr 32 true →
          let t := (s.usePart addr).1.noteSinkLoad (s.usePart addr).2.pa
          exec (.cbld sg a) s = .next ((((t.consume [a]).issueAccess (t.access (.load (.codebook 0)) (s.usePart addr).2 addr 32 none)
            false).dispatch (.cbld t.nextAccess none)).advance 4).endWalks))) ∧
    (Reads s [a, b] →
      (8192 ≤ (s.val a).toInt → exec (.aclr a b) s = .next (s.takeTrap 11 (s.val a) s.ctx.pc).endWalks) ∧
      ((s.val a).toInt < 8192 → 8192 < (s.val a).toInt + (s.val b).toInt →
        exec (.aclr a b) s = .next (s.takeTrap 11 (s.val b) s.ctx.pc).endWalks)) ∧
    (Reads s [a] → 8176 < (s.val a).toInt → InWindow s [State.lowVreg d] →
      exec (.acrd d a) s = .next (s.takeTrap 11 (s.val a) s.ctx.pc).endWalks ∧
      exec (.acwr d a) s = .next (s.takeTrap 11 (s.val a) s.ctx.pc).endWalks)

/-- At the head of its section a step starts once its acquire is done and the section is free: an `mma` replaces the core's weights
and latches for 16 cycles, an `mmar` takes the stationary weights of its class, and fails without them. The latch of an `mma` reads
the first block of B, which becomes the core's weights if it is the whole of B; poison in the codebook or in B fails the step. A pass
that ends with equal checksums writes the accumulator words that R303 gives and no others, adds its flags, and the next one follows
after its width, or the step ends after 24 cycles; a first mismatch is counted and the pass is run again with the same inputs, a
second fails the step, and so does a poisoned operand. A step whose passes have ended leaves the section, merges its flags and is done
in its batch, its weights stationary if it was one block without error. `aclr` at the head clears its accumulator words and `acwr` writes
sixteen, both with the errors of their words (log 44: for `aclr` the model's choice; words below the first do not exist and are not written,
log 135: the model's choice), and `acrd` of words without an error, none below the first, puts them on
their way (R98, R300, R303, R305, R307 to R309, R313). -/
def Obligations.MatrixSteps : Prop :=
  ∀ (s : State) (p q : Nat) (mismatch : Bool), s.live p = true →
    (∀ x, s.headStep p q = some x →
      let now := (s.part p).cycle
      let core := coreOf x.tid
      let w := (s.core p core).weights
      let failed (t : State) (kind detail : Nat) : State :=
        t.modHead p q { x with error := some { kind := kind, detail := detail } }
      (s.startDue p q x = true →
        (x.reuse = false → exec (.matrixPass p q mismatch) s = .next ((s.modCore p core fun C =>
          { C with weights := { C.weights with stationary := false, b := [] } }).modHead p q
          { x with started := some now, passEnds := now + 16 })) ∧
        (x.reuse = true → w.stationary = true → isIntClass w.btype = isIntClass x.atype →
          exec (.matrixPass p q mismatch) s = .next (s.modHead p q
            { x with
              k := w.k, n := w.n, btype := w.btype, started := some now
              passEnds := now + ({ x with btype := w.btype } : MatStep).width })) ∧
        (x.reuse = true → (w.stationary = false ∨ isIntClass w.btype ≠ isIntClass x.atype) →
          exec (.matrixPass p q mismatch) s = .next (s.modHead p q
            { x with started := some now, passEnds := now + 1, error := some { kind := 3, detail := 0 } }))) ∧
      (s.startDue p q x = false → s.passDue p x = true → x.reuse = false → x.latched = none →
        (∀ l, x.btype = .cb4 → x.codebook.poison = some l → exec (.matrixPass p q mismatch) s = .next (failed s 2 l)) ∧
        ((x.btype = .cb4 → x.codebook.poison = none) →
          (∀ t l, s.readWeights x = (t, .error l) → exec (.matrixPass p q mismatch) s = .next (failed t 2 l)) ∧
          (∀ t b, s.readWeights x = (t, .ok b) →
            exec (.matrixPass p q mismatch) s = .next ((if 16 < x.k ∨ 16 < x.n then t
              else t.modCore x.part core fun C =>
                { C with weights := { C.weights with stationary := false, k := x.k, n := x.n, btype := x.btype, b := b.flatten } }
              ).modHead p q { x with latched := some b, passEnds := x.passEnds + x.width })))) ∧
      (s.startDue p q x = false → s.passDue p x = true → (x.reuse = true ∨ x.latched ≠ none) →
        (∀ t l, s.passInputs x = (t, .error l) → exec (.matrixPass p q mismatch) s = .next (failed t 2 l)) ∧
        (∀ t a b, s.passInputs x = (t, .ok (a, b)) →
          (x.reruns = 0 → ∃ u, exec (.matrixPass p q true) s = .next u ∧
            u.headStep p q = some { x with reruns := 1, passEnds := x.passEnds + x.width, inputs := some (a, b) } ∧
            (u.caldera (calderaOf q)).softErr.reruns =
              (if (s.caldera (calderaOf q)).softErr.reruns = BitVec.allOnes 16 then BitVec.allOnes 16
               else (s.caldera (calderaOf q)).softErr.reruns + 1) ∧
            (u.core p core).acc = (s.core p core).acc ∧ u.mem = s.mem) ∧
          (x.reruns ≠ 0 → exec (.matrixPass p q true) s = .next (failed t 1 (x.pass % 256 * 2 ^ 13 + x.abase))) ∧
          (let first := x.zero && decide (x.block.2 = 0)
           let words := passWords x (s.core p core).acc a b x.block.1 first (min 16 (x.n - 16 * x.block.1))
           ∃ u, exec (.matrixPass p q false) s = .next u ∧
            u.headStep p q = some { x with
              pass := x.pass + 1, reruns := 0, inputs := none, flags := words.foldl (fun f y => f ||| y.2.2) x.flags
              passEnds := x.passEnds + (if x.pass + 1 < x.passes then x.width else 24) } ∧
            ((words.map fun y => y.1).Nodup → ∀ y ∈ words, (u.core p core).acc.getD y.1 0 = BitVec.ofNat 32 y.2.1) ∧
            (∀ k, (∀ y ∈ words, y.1 ≠ k) → (u.core p core).acc.getD k 0 = (s.core p core).acc.getD k 0) ∧ u.mem = s.mem))) ∧
      (s.completeDue p x = true →
        let t := s.modQuad p q fun Q => { Q with matrix := Q.matrix.drop 1, matrixFree := (s.part p).cycle }
        let u := if x.error = none ∧ x.reuse = false ∧ x.k ≤ 16 ∧ x.n ≤ 16 then
            t.modCore p (coreOf x.tid) fun C => { C with weights := { C.weights with stationary := true } }
          else t
        exec (.matrixStepComplete p q) s = .next (u.completeMember p x.tid x.gen x.member x.flags x.error) ∧
        ((u.completeMember p x.tid x.gen x.member x.flags x.error).quad p q).matrix = (s.quad p q).matrix.drop 1)) ∧
    (∀ h rest, (s.quad p q).matrix = h :: rest → (s.quad p q).matrixFree ≤ (s.part p).cycle → quadOfCore (coreOf h.tid) = q →
      (∀ i n, h.cmd = .aclr i n → ∃ t, exec (.accCommandEffect p q) s = .next t ∧ (t.quad p q).matrix = rest ∧ t.mem = s.mem ∧
        (∀ w, i ≤ w → w < i + n → (t.core p (coreOf h.tid)).acc.getD w 0 = 0) ∧
        (∀ w, (w < i ∨ i + n ≤ w) → (t.core p (coreOf h.tid)).acc.getD w 0 = (s.core p (coreOf h.tid)).acc.getD w 0) ∧
        ∀ w, w ∈ (t.core p (coreOf h.tid)).accPoison ↔ w ∈ (s.core p (coreOf h.tid)).accPoison ∧ (w < i ∨ i + n ≤ w)) ∧
      (∀ v (i : Nat), h.cmd = .acrd v i → (∀ w ∈ (s.core p (coreOf h.tid)).accPoison, w < i ∨ i + 16 ≤ w) →
        exec (.accCommandEffect p q) s = .next (s.modQuad p q fun Q => { Q with
          matrix := rest, matrixFree := (s.part p).cycle + 1, results := Q.results ++
            [{ access := h.access, tid := h.tid, gen := h.gen, shadow := h.shadow, due := (s.part p).cycle + 4,
               kind := .vec v (State.accWords (s.core p (coreOf h.tid)) i) none, flags := 0 }] })) ∧
      (∀ i v, h.cmd = .acwr i v → ∃ t, exec (.accCommandEffect p q) s = .next t ∧ (t.quad p q).matrix = rest ∧ t.mem = s.mem ∧
        (∀ (j w : Nat), j < 16 → i + j = w → (t.core p (coreOf h.tid)).acc.getD w 0 = BitVec.ofNat 32 (laneOf v 32 j)) ∧
        (∀ w : Nat, ((w : Int) < i ∨ i + 16 ≤ w) → (t.core p (coreOf h.tid)).acc.getD w 0 = (s.core p (coreOf h.tid)).acc.getD w 0) ∧
        ∀ w : Nat, w ∈ (t.core p (coreOf h.tid)).accPoison ↔
          w ∈ (s.core p (coreOf h.tid)).accPoison ∧ ((w : Int) < i ∨ i + 16 ≤ w)))

/-- `commit` closes the open batch when fewer than eight are outstanding, and an empty one is no batch; `waitb` completes when at most
its count of batches is outstanding and no error is pending, parks until then, and takes the error trap on a pending error. `repb`
and `repx` with a legal description and a fetched block whose words are all legal start the block, with its index register apart
from the staggered ones. A batch retires only after every earlier one, when all its members are done (R312 to R317). -/
def Obligations.BatchesAndRepetitions : Prop :=
  ∀ (s : State) (n : Fin 16) (d a : Reg),
    (s.ctx.openBatch = [] → exec .commit s = .next (s.advance 4).endWalks) ∧
    (s.ctx.openBatch ≠ [] → s.ctx.committed.length ≠ 8 → exec .commit s = .next ((s.modCtx Ctx.commit).advance 4).endWalks) ∧
    (s.ctx.openBatch ≠ [] → s.ctx.committed.length = 8 → exec .commit s = .next (s.endWalks.park (.batches 7))) ∧
    (s.ctx.committed.length ≤ n.val → s.ctx.errorRec = 0 → exec (.waitb n) s = .next (s.advance 4).endWalks) ∧
    (s.ctx.committed.length ≤ n.val → s.ctx.errorRec ≠ 0 →
      exec (.waitb n) s = .next (s.takeTrap 13 s.ctx.errorRec s.ctx.pc).endWalks) ∧
    (n.val < s.ctx.committed.length → exec (.waitb n) s = .next (s.endWalks.park (.batches n.val))) ∧
    (Reads s [a] →
      let v := (s.val a).toNat
      let w := v / 2 ^ 16 % 16 + 1
      let lo := v / 2 ^ 12 % 16
      let k := v % 64
      v < 2 ^ 48 → v / 2 ^ 24 % 256 = 0 → v / 64 % 64 = 0 → v / 2 ^ 32 ≠ 0 → k ≠ 0 → k ≤ 32 → lo + w ≤ 16 →
      ∀ t block, State.fetchBlock (s.val a) k 0 s (s.ctx.pc + 1) = .ok (t, block) → (∀ e ∈ block, blockOk e.2 = true) →
        let rep (x : Option Reg) : Rep :=
          { start := s.ctx.pc + 1, words := blockWords block, count := v / 2 ^ 32, lo := lo, w := w, step := v / 2 ^ 20 % 16, x := x,
            due := x.isSome }
        exec (.repb a) s = .next (((t.consume [a]).advance 4).modCtx fun c => { c with rep := some (rep none) }).endWalks ∧
        (Takes s d → (d.val < lo ∨ lo + w ≤ d.val) →
          exec (.repx d a) s = .next (((t.consume [a]).advance 4).modCtx fun c => { c with rep := some (rep (some d)) }).endWalks)) ∧
    (∀ b rest e, (∃ m ∈ b, m.done = false) → retireBatches (b :: rest) e = (b :: rest, e)) ∧
    (∀ b rest e, (∀ m ∈ b, m.done = true) → (retireBatches (b :: rest) e).1.length ≤ rest.length)

/-- `twait` answers at once for a READY slot and for one with a mark, which it takes, and otherwise parks with its destination empty.
On a READY slot `tld` puts the element at its offset on its way to the register, `tst` writes it, and `thold` extends the limit of a
visit up to the tour's cap; `tstat` writes the slot's status, STATE in [63:62], MARK in [61:60], STOP in [59:56], OVR in [55:48], LEFT in
[47:24], ISSUER in [19:5] and INDEX in [4:0], all 0 but the first two where the slot holds no tour; `tabort` of a slot without a tour answers 1, and of one with a tour whose
slots no array command reads ends it and answers 0, `trel` of a slot that no array command has still to read gives the tile on, and at the last stop of
a tour that writes back parks until the tour has ended. For `trel`, `thold`, `tld` and `tst` an EMPTY slot with a mark traps; for `tld` and
`tst` an offset below 0, or one from which the element does not end inside the tile, traps so too, and a misaligned one takes the alignment
trap (R268 to R279). -/
def Obligations.TileInstructions : Prop :=
  ∀ (s : State) (t : Slot) (size : Fin 4) (d a : Reg),
    let x := s.slotHere t
    let n : Nat := 2 ^ size.val
    let marked : Out := .next (s.takeTrap 6 (BitVec.ofNat 64 t.val) s.ctx.pc).endWalks
    (s.ctx.phase = .fresh → Takes s d →
      (x.state = .ready → exec (.twait t d) s = .next ((s.write d
        (BitVec.ofNat 64 (x.stop * 2 ^ 56 + (if x.poison = [] then 0 else 2 ^ 55) + x.size))).advance 4).endWalks) ∧
      (x.state ≠ .ready → x.mark ≠ .none → exec (.twait t d) s = .next (((s.modSlot s.cur.part s.cur.core t.val fun y =>
        { y with mark := .none }).write d (BitVec.ofNat 64 (x.mark.code * 2 ^ 60))).advance 4).endWalks) ∧
      (x.state ≠ .ready → x.mark = .none → exec (.twait t d) s =
        .next (((s.writePending d).modCtx fun c => { c with phase := .asked 1 }).endWalks.park (.slot t)))) ∧
    (x.state = .empty → x.mark ≠ .none → (∀ m, s.ctx.phase ≠ .drained m) →
      exec (.trel t) s = marked) ∧
    (x.state = .empty → x.mark ≠ .none →
      (Reads s [a] → exec (.thold t a) s = marked ∧ (Takes s d → s.ctx.acquiring = [] → exec (.tld t size d a) s = marked)) ∧
      (Reads s [a, d] → s.ctx.acquiring = [] → exec (.tst t size d a) s = marked)) ∧
    (x.state = .ready → (∀ m, s.ctx.phase ≠ .drained m) → s.slotHeld s.cur.part s.cur.core t.val = false →
      (s.slotTour s.cur.part s.cur.core t.val = none → exec (.trel t) s = .next (s.advance 4).endWalks) ∧
      (∀ i j y pl q k, s.slotTour s.cur.part s.cur.core t.val = some (i, j, y, pl) → x.tour = some (q, k) →
        let u := s.drainSlot s.cur.part q k y pl false
        (y.wb = false ∨ (State.nextPlace y pl false).isSome = true → exec (.trel t) s = .next (u.advance 4).endWalks) ∧
        (y.wb = true → State.nextPlace y pl false = none →
          exec (.trel t) s = .next ((u.modCtx fun c => { c with phase := .drained y.seq }).endWalks.park (.tourEnd y.seq))))) ∧
    (∀ m, s.ctx.phase = .drained m →
      let on := s.curPart.quads.any fun q => q.2.tours.any fun y => decide (y.2.seq = m)
      (on = false → exec (.trel t) s = .next (s.advance 4).endWalks) ∧
      (on = true → exec (.trel t) s = .next (s.endWalks.park (.tourEnd m)))) ∧
    (x.state = .ready → Reads s [a] →
      (s.slotTour s.cur.part s.cur.core t.val = none → exec (.thold t a) s = .next ((s.consume [a]).advance 4).endWalks) ∧
      (∀ z, s.slotTour s.cur.part s.cur.core t.val = some z → x.limit = 0 →
        exec (.thold t a) s = .next ((s.consume [a]).advance 4).endWalks) ∧
      (∀ i j y pl, s.slotTour s.cur.part s.cur.core t.val = some (i, j, y, pl) → x.limit ≠ 0 →
        exec (.thold t a) s = .next (((s.consume [a]).modSlot s.cur.part s.cur.core t.val fun z =>
          { z with limit := min (x.limit + ((s.val a).toNat + 63) / 64) y.cap,
                   overrun := z.overrun && !(!s.overrunLeaves s.cur.part y pl &&
                     decide (s.now < x.readyAt + 64 * min (x.limit + ((s.val a).toNat + 63) / 64) y.cap)) }).advance 4).endWalks)) ∧
    (Takes s d →
      let state := match x.state with | .empty => 0 | .filling => 1 | .ready => 2 | .draining => 3
      let mark := match x.mark with | .none => 0 | .overrun => 1 | .aborted => 2 | .error => 3
      (x.tour = none → exec (.tstat t d) s = .next ((s.write d (BitVec.ofNat 64 (state * 2 ^ 62 + mark * 2 ^ 60))).advance 4).endWalks) ∧
      (∀ q k y left, x.tour = some (q, k) → s.tourOf s.cur.part q k = some y →
        (x.state = .draining → left = 0) → (x.state ≠ .draining → x.limit = 0 → left = 0xFFFFFF) →
        (x.state = .ready → x.limit ≠ 0 → left = x.limit - (s.now - x.readyAt) / 64) →
        (x.state ≠ .draining → x.state ≠ .ready → x.limit ≠ 0 → left = x.limit) →
        exec (.tstat t d) s = .next ((s.write d (BitVec.ofNat 64 (state * 2 ^ 62 + mark * 2 ^ 60 + x.stop * 2 ^ 56 +
          min y.overruns 255 * 2 ^ 48 + left * 2 ^ 24 + coreOf y.tid * 2 ^ 5 + k))).advance 4).endWalks)) ∧
    (∀ q k y, Takes s d → x.tour = some (q, k) → s.tourOf s.cur.part q k = some y → y.state ≠ .reserving →
      (s.quad s.cur.part q).tours.sorted = true →
      (y.places.any fun z => s.holds s.cur.part q k z && s.slotHeld s.cur.part z.core z.slot) = false →
      ∃ u, exec (.tabort t d) s = .next u ∧ u.tourOf s.cur.part q k = none ∧ u.ctx.pc = s.ctx.pc + 1 ∧
        (y.aborts = [] → s.cur.ctx < 16 → s.chan d = none → (u.reg d).val = 0 ∧ (u.reg d).full = true) ∧
        (y.aborts = [] → ∀ z ∈ y.places, s.holds s.cur.part q k z = true →
          u.slotOf s.cur.part z.core z.slot =
            { mark := if z.core = s.cur.core ∧ z.slot = t.val then .none else .aborted })) ∧
    (Takes s d → x.tour = none → exec (.tabort t d) s = .next ((s.write d 1).advance 4).endWalks) ∧
    (x.state = .ready → s.ctx.acquiring = [] →
      (Reads s [a] → Takes s d → 0 ≤ (s.val a).toInt → (s.val a).toInt + n ≤ x.size → (s.val a).toNat % n = 0 →
        exec (.tld t size d a) s = .next ((((s.consume [a]).writePending d).answerAccess 4
          (match x.poisoned (s.val a).toNat n with
           | some l => .regPoison d l
           | none => .reg d (extendBytes (if size.val < 2 then .sign else .zero) (x.read (s.val a).toNat n)))).advance 4).endWalks) ∧
      (Reads s [a, d] → 0 ≤ (s.val a).toInt → (s.val a).toInt + n ≤ x.size → (s.val a).toNat % n = 0 →
        x.poisoned (s.val a).toNat n = none →
        exec (.tst t size d a) s = .next ((((s.noteOperands s.cur.part s.cur.core (.slot t) (s.val a).toNat
          (x.read (s.val a).toNat n) (bytesOfNat n (s.val d).toNat) s.ctx.pc).modSlot s.cur.part s.cur.core t.val
            fun y => y.write (s.val a).toNat (bytesOfNat n (s.val d).toNat)).consume [a, d]).advance 4).endWalks) ∧
      (Reads s [a, d] → 0 ≤ (s.val a).toInt → (s.val a).toInt + n ≤ x.size → (s.val a).toNat % n = 0 →
        x.poisoned (s.val a).toNat n ≠ none → exec (.tst t size d a) s = .next ((s.consume [a, d]).advance 4).endWalks) ∧
      ((s.val a).toInt < 0 ∨ (x.size : Int) < (s.val a).toInt + n →
        (Reads s [a] → Takes s d → exec (.tld t size d a) s = marked) ∧ (Reads s [a, d] → exec (.tst t size d a) s = marked)) ∧
      (0 ≤ (s.val a).toInt → (s.val a).toInt + n ≤ x.size → (s.val a).toNat % n ≠ 0 →
        let off : Out := .next (s.takeTrap 4 (BitVec.ofNat 64 (s.val a).toNat) s.ctx.pc).endWalks
        (Reads s [a] → Takes s d → exec (.tld t size d a) s = off) ∧ (Reads s [a, d] → exec (.tst t size d a) s = off)))

/-- `tour` and its ordered form (R263). With its operands there and an entry free, an aligned record in the window is read a line at a
time; in the scratchpad it is read at once, its stops as one access (log 129: the model's choice). A record that R262 calls malformed, or one
whose number of stops is none or above 16,
puts status 4 in the destination and starts nothing; the ISSUER field of that answer is open (log 97: the model's choice). A well-formed one whose ranges the segments allow makes a command that is
reserving, with the destination empty, in the table's lowest free entry (log 147: the model's choice); where the thread has no region, the
number of its region, whose units it is granted, is the model's own (log 128: the model's choice). A poisoned record traps, in both forms
(R260 to R263). -/
def Obligations.ToursIssue : Prop :=
  ∀ (s : State) (g : Seg) (h : Header) (d a : Reg),
    let addr := (s.seg g).addr (s.val a).toInt
    let bad (s : State) (len : Nat) : State :=
      (((s.consume [a]).write d
        (BitVec.ofNat 64 (4 * 2 ^ 60 + (if Config.baditinIssuer then s.cur.core * 2 ^ 5 else 0)))).advance len).endWalks
    let cmd (s : State) (x : Itinerary) (stops : List Nat) (o : Header) : Tour :=
      { part := s.cur.part, tid := s.curTid, gen := s.ctx.gen, pc := s.ctx.pc, seq := s.nextSeq, shadow := s.cur.shadow,
        uid := s.ctx.uid, issued := s.now, region := match s.region? with | some _ => s.ctx.handle.toNat | none => 1024, d := d, asid := s.asid, h := o,
        bound := s.nextAccess, sseg := s.seg x.sseg, soff := x.soff, rows := x.rows, rowBytes := x.rowBytes, pitch := x.pitch,
        cap := x.cap, wb := x.wb, wseg := s.seg x.wseg, woff := x.woff, stops := stops.map stopOf }
    let made (s : State) (len k : Nat) (x : Itinerary) (stops : List Nat) (o : Header) : State :=
      (((({ s with nextSeq := s.nextSeq + 1 } : State).consume [a]).writePending d).modCurQuad fun Q =>
        { Q with tours := Q.tours.put k (cmd s x stops o) }).advance len |>.endWalks
    let fits (x : Itinerary) : Prop :=
      InSegment (s.seg x.sseg) x.soff x.rowBytes rightT ∧ InSegment (s.seg x.sseg) (x.soff + (x.rows - 1) * x.pitch : Nat) x.rowBytes rightT ∧
        (x.wb = true → InSegment (s.seg x.wseg) x.woff x.rowBytes rightW ∧
          InSegment (s.seg x.wseg) (x.woff + (x.rows - 1) * x.pitch : Nat) x.rowBytes rightW)
    (s.ctx.phase = .fresh → Reads s [a] → Takes s d → s.ctx.acquiring = [] → (s.seg g).isK = false →
      InSegment (s.seg g) (s.val a).toInt 64 rightR → addr % 64 = 0 → (∃ k, freeKey s.curQuad.tours 32 = some k) → Placed s addr 64 false →
      let t := (s.usePart addr).1
      let ph := (s.usePart addr).2
      let u := (((t.noteSinkLoad ph.pa).issueAccess (t.access (.load (.reply 0)) ph addr 64 none) false).modCtx
        fun c => { c with phase := .asked 1 }).endWalks.park .reply
      exec (.tour g d a) s = .next u ∧ exec (.tourOrdered h g d a) s = .next u) ∧
    (∀ r hdr, s.ctx.phase = .asked 1 → s.ctx.reply = some r → s.replyPending = false → r.poison = none →
      hdr = natOfBytes (r.bytes.take 64) → (bitsOf hdr 4 0 = 0 ∨ 16 < bitsOf hdr 4 0) → Takes s d →
      exec (.tour g d a) s = .next (bad s 4) ∧ exec (.tourOrdered h g d a) s = .next (bad s 12)) ∧
    (∀ r hdr stops, s.ctx.phase = .asked 2 → s.ctx.reply = some r → s.replyPending = false → r.poison = none → Takes s d →
      hdr = natOfBytes (r.bytes.take 64) →
      stops = ((List.range (bitsOf hdr 4 0)).map fun i => natOfBytes ((r.bytes.drop (64 + 16 * i)).take 16)) →
      (itineraryMalformed s.curPart hdr stops = true →
        exec (.tour g d a) s = .next (bad s 4) ∧ exec (.tourOrdered h g d a) s = .next (bad s 12)) ∧
      (∀ k, itineraryMalformed s.curPart hdr stops = false → fits (itineraryOf hdr) → freeKey s.curQuad.tours 32 = some k →
        exec (.tour g d a) s = .next (made s 4 k (itineraryOf hdr) stops .none) ∧
        exec (.tourOrdered h g d a) s = .next (made s 12 k (itineraryOf hdr) stops h))) ∧
    (s.ctx.phase = .fresh → Reads s [a] → Takes s d → s.ctx.acquiring = [] → (s.seg g).isK = true →
      InSegment (s.seg g) (s.val a).toInt 64 rightR → addr % 64 = 0 → ∀ k, freeKey s.curQuad.tours 32 = some k →
      (∀ t b l, s.spadLoad s.cur.part s.cur.core s.cur.ctx addr 64 = (t, b, some l) →
        exec (.tour g d a) s = .next (s.takeTrap 9 (BitVec.ofNat 64 l) s.ctx.pc).endWalks ∧
        exec (.tourOrdered h g d a) s = .next (s.takeTrap 9 (BitVec.ofNat 64 l) s.ctx.pc).endWalks) ∧
      (∀ t b, s.spadLoad s.cur.part s.cur.core s.cur.ctx addr 64 = (t, b, none) →
        let hdr := natOfBytes b
        let n := bitsOf hdr 4 0
        (n = 0 ∨ 16 < n → exec (.tour g d a) s = .next (bad t 4) ∧ exec (.tourOrdered h g d a) s = .next (bad t 12)) ∧
        (1 ≤ n → n ≤ 16 → InSegment (s.seg g) ((s.val a).toInt + 64) (16 * n) rightR →
          (∀ u c l, t.spadLoad s.cur.part s.cur.core s.cur.ctx ((s.seg g).addr ((s.val a).toInt + 64)) (16 * n) = (u, c, some l) →
            exec (.tour g d a) s = .next (s.takeTrap 9 (BitVec.ofNat 64 l) s.ctx.pc).endWalks ∧
            exec (.tourOrdered h g d a) s = .next (s.takeTrap 9 (BitVec.ofNat 64 l) s.ctx.pc).endWalks) ∧
          ∀ u c, t.spadLoad s.cur.part s.cur.core s.cur.ctx ((s.seg g).addr ((s.val a).toInt + 64)) (16 * n) = (u, c, none) →
          let stops := (List.range n).map fun i => natOfBytes ((c.drop (16 * i)).take 16)
          (itineraryMalformed s.curPart hdr stops = true →
            exec (.tour g d a) s = .next (bad u 4) ∧ exec (.tourOrdered h g d a) s = .next (bad u 12)) ∧
          (itineraryMalformed s.curPart hdr stops = false → fits (itineraryOf hdr) →
            exec (.tour g d a) s = .next (made u 4 k (itineraryOf hdr) stops .none) ∧
            exec (.tourOrdered h g d a) s = .next (made u 12 k (itineraryOf hdr) stops h))))) ∧
    (∀ m r l, s.ctx.phase = .asked m → s.ctx.reply = some r → s.replyPending = false → r.poison = some l →
      exec (.tour g d a) s = .next (s.takeTrap 9 (BitVec.ofNat 64 l) s.ctx.pc).endWalks ∧
      exec (.tourOrdered h g d a) s = .next (s.takeTrap 9 (BitVec.ofNat 64 l) s.ctx.pc).endWalks)

/-- The reservation step of the thread's oldest reserving tour first takes the registry step, in the order of R213 among its caldera's
requests: it answers 2 for toured bytes of a read-once region and 3 for a full registry, and else enters the tour. Then each place is asked
in turn, which its quad grants when the slot is EMPTY without a mark and the units are there, and after the last the tour reads, with
answer 0, or is refused with 1 and holds nothing. A tile whose pieces have all been read is READY at its first place. A tile
that leaves a place goes to the next one, to another quad leg by leg, and where there is no next one and no write-back the tour has ended
as the slot drains; an aborted tour whose slots no array command reads ends. A copy of a tile to the scratchpad of its stop waits for a bank that a thread has used in the cycle (R170). In what order the registry and the places are asked, and in
what pieces a tile is read, is the model's choice (logs 49, 22). A stop that overruns is counted. A write-back whose pieces are written, and whose release has been met, ends the tour (R98, R264
to R269, R278). -/
def Obligations.ToursRun : Prop :=
  ∀ (s : State) (p q k core slot : Nat) (t : Tour) (x z : TourPlace),
    (s.tourOf p q k = some t → s.live p = true →
      (t.state = .reserving →
        ((s.quad p q).tours.any fun y =>
          decide (y.2.tid = t.tid ∧ y.2.shadow = t.shadow ∧ y.2.state = .reserving ∧ y.2.seq < t.seq)) = false →
        let region := (s.part p).regions.find? t.region
        let ronce := match region with | some r => r.ronce | none => false
        let uses := match region with | some r => r.ronce || r.strict | none => false
        let entry : RegistryEntry :=
          { part := p, region := t.region, base := t.sseg.base.toNat + t.soff, rowBytes := t.rowBytes, rows := t.rows, pitch := t.pitch }
        let full := decide (1024 ≤ (s.caldera (calderaOf q)).registry.length)
        let ended := s.endTour p q k t fun _ => .none
        (t.registered = false →
          (uses = false → exec (.tourReservation p q k) s = .next (s.modTour p q k fun t => { t with registered := true })) ∧
          (uses = true → s.registryTaken p q t = false → t.aborts = [] →
            ((ronce && s.toured p q t) = true → exec (.tourReservation p q k) s = .next (ended.answerTour p k t 2)) ∧
            ((ronce && s.toured p q t) = false → full = true → exec (.tourReservation p q k) s = .next (ended.answerTour p k t 3)) ∧
            ((ronce && s.toured p q t) = false → full = false → exec (.tourReservation p q k) s = .next
              ((s.modCaldera (calderaOf q) fun c => { c with registry := c.registry ++ [entry] }).modTour p q k
                fun t => { t with registered := true })))) ∧
        (t.registered = true →
          (t.places[t.asked]? = some x →
            (s.grantPlace p q k t x = none → exec (.tourReservation p q k) s =
              .next (s.modTour p q k fun t => { t with asked := t.asked + 1, refused := true })) ∧
            (∀ u, s.grantPlace p q k t x = some u → exec (.tourReservation p q k) s =
              .next (u.modTour p q k fun t => { t with asked := t.asked + 1 }))) ∧
          (t.places[t.asked]? = none →
            (t.refused = false → exec (.tourReservation p q k) s =
              .next ((s.modTour p q k fun t => { t with state := .reading }).answerTour p k t 0)) ∧
            (t.refused = true → t.aborts = [] → exec (.tourReservation p q k) s =
              .next ((if uses = true then
                  ended.modCaldera (calderaOf q) fun c => { c with registry := c.registry.erase entry }
                else ended).answerTour p k t 1))))) ∧
      (let y := s.slotOf p x.core x.slot
       let units := (t.bytes + 4095) / 4096
       (s.grantPlace p q k t x).isSome = true ↔ y.state = .empty ∧ y.mark = .none ∧ y.tour = none ∧
         State.unitsHeld (s.quad p (quadOfCore x.core)) none + units ≤ 64 ∧
         (∀ r, (s.part p).regions.find? t.region = some r →
           State.unitsHeld (s.quad p (quadOfCore x.core)) (some t.region) + units ≤ r.tsb)) ∧
      (t.state = .reading → t.aborts = [] → t.stalled = none → t.places.head? = some x →
        s.acquireDone p t.tid t.bound t.shadow t.h = true → t.rowsRead.length = t.pieces t.srcRow →
        (s.copyWaits p t x = true → exec (.tourReadDone p q k none) s = .next s) ∧
        (s.copyWaits p t x = false → ∃ u, exec (.tourReadDone p q k none) s = .next u ∧ u = s.tileArrives p q k t x ∧
          (u.slotOf p x.core x.slot).state = .ready ∧ (u.slotOf p x.core x.slot).readyAt = (s.part p).cycle ∧
          u.tourOf p q k = some { t with state := .atStop x.stop x.alternate } ∧ u.mem = s.mem)) ∧
      (∀ m, t.state = .reading → t.aborts = [] → t.stalled = none → t.places.head? = some x →
        s.acquireDone p t.tid t.bound t.shadow t.h = true →
        let i := (pieceOf t.rowBytes m).1
        let j := (pieceOf t.rowBytes m).2
        let piece := linePiece (t.srcRow i) t.rowBytes j
        i < t.rows → j < lineCount (t.srcRow i) t.rowBytes → t.rowsRead.contains m = false →
        let r : Reader := { issuer := .tour q k, part := p, quad := q, tid := t.tid, tag := m, asid := t.asid }
        let read := s.engineRead r t.sseg (t.soff + i * t.pitch + piece.1 : Nat) piece.2
        (∀ u, read = (u, .held) → exec (.tourReadDone p q k (some m)) s = .next u) ∧
        (∀ u b, read = (u, .bytes b none) →
          exec (.tourReadDone p q k (some m)) s = .next (((u.modSlot p x.core x.slot fun y => y.write (i * t.rowBytes + piece.1) b).useFetched
            p (.tour q k) m).modTour p q k fun t => { t with rowsRead := NSet.add t.rowsRead m }))) ∧
      (t.aborts = [] → (∃ i alt, t.state = .atStop i alt) → s.placeNow p q k t = some x → (s.slotOf p x.core x.slot).state = .draining →
        let y := s.slotOf p x.core x.slot
        let mark : SlotMark := if y.bypassed then .overrun else .none
        let passed (u : State) : State := (((u.modTour p q k fun t => { t with hop := none }).modSlot p z.core z.slot fun w =>
          { w with bytes := y.bytes, poison := y.poison }).tileArrives p q k t z).emptySlot p x mark
        let enters (u : State) (h : Hop) : State := (({ u with nextSeq := u.nextSeq + 1 } : State).modTour p q k fun t =>
          { t with hop := some { h with seq := u.nextSeq } }).enterLeg p h.src h.dst h.leg
        let src := quadOfCore x.core
        let dst := quadOfCore z.core
        State.nextPlace t x (State.diverts t x y.bypassed) = some z →
          (t.hop = none → src = dst → exec (.tourHandover p q k) s = .next (if s.copyWaits p t z then s else passed s)) ∧
          (t.hop = none → src ≠ dst → exec (.tourHandover p q k) s = .next (enters s { src := src, dst := dst, leg := 0, seq := 0 })) ∧
          (∀ h, t.hop = some h →
            (s.firstOf p (some h.channel) = false → exec (.tourHandover p q k) s = .next s) ∧
            (s.firstOf p (some h.channel) = true → legCount h.src h.dst ≤ h.leg + 1 → s.copyWaits p t z = true →
              exec (.tourHandover p q k) s = .next s) ∧
            (s.firstOf p (some h.channel) = true → (h.leg + 1 < legCount h.src h.dst ∨ s.copyWaits p t z = false) →
              let u := s.leaveLeg p h.src h.dst h.leg
              exec (.tourHandover p q k) s =
                .next (if h.leg + 1 < legCount h.src h.dst then enters u { h with leg := h.leg + 1 } else passed u)))) ∧
      (∀ o, (s.quad p q).tours.sorted = true → State.nextPlace t x (State.diverts t x o) = none → t.wb = false →
        (s.drainSlot p q k t x o).tourOf p q k = none) ∧
      (t.aborts ≠ [] → t.state ≠ .reserving → (s.quad p q).tours.sorted = true →
        (t.places.any fun x => s.holds p q k x && s.slotHeld p x.core x.slot) = false →
        ∃ u, exec (.tourHandover p q k) s = .next u ∧ u.tourOf p q k = none) ∧
      (t.state = .writingBack → t.aborts = [] → t.stalled = none → s.placeNow p q k t = some x →
        t.written.length = t.pieces t.dstRow → s.releaseDone p t.tid (.tour q k) t.h = true →
        exec (.tourWritebackDone p q k none) s = .next (s.endTour p q k t fun w =>
          if w = x ∧ (s.slotOf p x.core x.slot).bypassed then .overrun else .none)) ∧
      (∀ f, (s.quad p q).tours.sorted = true → (s.endTour p q k t f).tourOf p q k = none)) ∧
    (s.overrunDue p core slot = false → exec (.holdOverrun p core slot) s = .next s) ∧
    (s.slotTour p core slot = some (q, k, t, x) → s.live p = true → t.aborts = [] → s.overrunNow p t x = true →
      let u := (s.modSlot p core slot fun y => { y with overrun := true, died := (s.core p core).dead }).modTour p q k
        fun t => { t with overruns := t.overruns + 1 }
      (s.overrunLeaves p t x = false → exec (.holdOverrun p core slot) s = .next u) ∧
      (s.overrunLeaves p t x = true → u.slotHeld p core slot = false →
        exec (.holdOverrun p core slot) s = .next (u.drainSlot p q k t x true)))
/-- `mvb`, in its plain and codebook forms, with its operands there, an entry free, its scratchpad range inside the scratchpad, its
ranges inside their segments and aligned, becomes a command and a member of the open batch; an activation range that leaves the
scratchpad traps. Its pages are translated once each and held; a page that is not resident stalls it with a fault record, weights that are not
ROWBLOCK fail it, and with all its pages it reads its activations and streams. A row that its vent takes next, which is read in one step (log 108: the model's choice), delivers the sums of
its vectors, and one with a poisoned line is done with an error and delivers nothing; both count. A command whose rows are all done,
with its release met, completes. A row whose sum waits for a bank of the scratchpad that a thread has used in the cycle is not taken, and a
command reads its activations only in a cycle in which no thread has used their banks (R170). `bstat` of 0 writes the status of the thread's
own commands: in [63:56] how many are not complete, to 255, and in [19:0] how many rows of the oldest have ended; of a vault it writes its
counts, ROWS in [63:32], PACED in [31:16] and CORR in [15:0], four cycles later (log 116: the model's choice) (R170, R326 to R336). -/
def Obligations.VentsComplete : Prop :=
  ∀ (s : State) (h : Header) (d a b : Reg) (f : MvbFields) (lit : Word64) (k : Nat),
    let x : VentCmd :=
      { part := s.cur.part, tid := s.curTid, gen := s.ctx.gen, shadow := s.cur.shadow, uid := s.ctx.uid, pc := s.ctx.pc, asid := s.asid, h := h, bound := s.nextAccess,
        order := s.nextAccess, member := s.nextSeq, wseg := s.seg f.wseg, dseg := s.seg f.dseg, woff := (s.val a).toNat,
        doff := (s.val d).toNat, act := (s.val b).toNat, v := f.vm1.val + 1, c := f.cm1.toNat + 1, m := f.rm1.toNat + 1,
        st := 64 * 2 ^ f.slog.val, wtype := f.wtype, accum := f.accum, cboff := 0 }
    let w0 := (s.seg f.wseg).addr (s.val a).toInt
    let d0 := (s.seg f.dseg).addr (s.val d).toInt
    let apart (lo n : Nat) : Prop := (s.seg f.dseg).isK = true → lo + n ≤ d0 ∨ d0 + x.destLen ≤ lo
    let fits : Prop :=
      Reads s [a, b, d] ∧ s.ctx.acquiring = [] ∧ x.act + x.v * x.vecStep ≤ 65536 ∧ x.act % 64 = 0 ∧
        (s.val a).toNat < 2 ^ 63 ∧ (s.val d).toNat < 2 ^ 63 ∧
        InSegment (s.seg f.wseg) (s.val a).toInt x.weightLen rightB ∧ w0 % x.st = 0 ∧
        InSegment (s.seg f.dseg) (s.val d).toInt x.destLen (if (s.seg f.dseg).isK then rightW else rightA) ∧ d0 % 4 = 0 ∧
        apart x.act (x.v * x.vecStep) ∧ s.ctx.openBatch.length < 127
    let queued (len : Nat) (x : VentCmd) : State :=
      let t := ({ s with nextSeq := s.nextSeq + 1, nextAccess := s.nextAccess + 1 } : State).modCtx fun c =>
        { c with openBatch := c.openBatch ++ [{ id := s.nextSeq }] }
      (((t.consume [a, b, d]).modCurQuad fun Q => { Q with vents := Q.vents.put k x }).advance len).endWalks
    (freeKey s.curQuad.vents 16 = some k → fits →
      (f.wtype ≠ .cb4 → exec (.mvb h d a b f) s = .next (queued 12 x)) ∧
      (f.wtype = .cb4 → bitsOf lit.toNat 63 16 = 0 → lit.toNat % 32 = 0 → apart (bitsOf lit.toNat 15 0) 32 →
        exec (.mvbCb4 h d a b f lit) s = .next (queued 20 { x with cboff := bitsOf lit.toNat 15 0 }))) ∧
    (freeKey s.curQuad.vents 16 = some k → Reads s [a, b, d] → s.ctx.acquiring = [] → 65536 < x.act + x.v * x.vecStep →
      exec (.mvb h d a b f) s = .next (s.takeTrap 11 (s.val b) s.ctx.pc).endWalks) ∧
    (∀ p q j r y, (s.quad p q).vents.find? j = some y → s.live p = true → y.state = .streaming →
      (y.rowsDone.length = y.m → s.releaseDone p y.tid (.vent q j) y.h = true →
        exec (.ventCommandComplete p q j) s = .next (((s.endReads p (.vent q j)).modQuad p q fun Q => { Q with vents := Q.vents.del j }).completeMember
          p y.tid y.gen y.member y.flags y.error)) ∧
      (r < y.m → y.rowsDone.contains r = false → State.ventBehind (s.quad p q) y r = false → y.rowAt (y.vent r) r = false →
        s.ventTaken y (y.vent r) = false → (s.sumWaits p y r = true → exec (.ventRow p q j r) s = .next s) ∧ (s.sumWaits p y r = false →
        let counted (u : State) : State := u.modVentCount p (y.vent r).1 fun c =>
          { c with rows := if c.rows = BitVec.allOnes 32 then c.rows else c.rows + 1 }
        (∀ u bytes l, y.readBanks (y.rowLen / 64 + 2) s (y.rowVa r) y.rowLen = (u, bytes, some l) →
          exec (.ventRow p q j r) s = .next ((counted u).modVent p q j fun z =>
            { z with
              rowsDone := NSet.add z.rowsDone r
              error := some { kind := 5, detail := match z.error with | some e => min e.detail (l + 1) | none => l + 1 } })) ∧
        (∀ u bytes, y.readBanks (y.rowLen / 64 + 2) s (y.rowVa r) y.rowLen = (u, bytes, none) →
          let weights := (List.range y.c).map fun i => natOfBytes bytes / 2 ^ (y.weightBits * i) % 2 ^ y.weightBits
          let sent := (counted u).ventDeliver p q j y r ((List.range y.v).map fun v => (v, y.sum weights v))
          exec (.ventRow p q j r) s = .next (sent.1.modVent p q j fun z =>
            { z with rowsDone := NSet.add z.rowsDone r, flags := z.flags ||| sent.2 }))))) ∧
    (∀ p q j y, (s.quad p q).vents.find? j = some y → s.live p = true → y.stalled = none → State.ventHead (s.quad p q) y = true →
      s.acquireDone p y.tid y.bound y.shadow y.h = true →
      let wl := s.rangePages y.asid (y.weightLen / blockBytes + 2) (y.rowVa 0) y.weightLen
      let dl := if y.dseg.isK then [] else s.rangePages y.asid (y.destLen / blockBytes + 2) (y.wordVa 0 0) y.destLen
      let hold (u : State) (l : List VentPage) : State := u.modVent p q j fun z => { z with state := .translating, pages := l }
      (∀ u l va, s.ventPages p q j y true y.pages wl = (u, l, some (some .held, va)) →
        exec (.ventTranslation p q j) s = .next (hold u l)) ∧
      (∀ u l va kind, s.ventPages p q j y true y.pages wl = (u, l, some (some (.fault kind), va)) →
        exec (.ventTranslation p q j) s = .next (((hold u l).enterFault p (calderaOf q)
          { kind := kind, acc := 6, thread := y.tid, asid := y.asid, va := va }).modVent p q j fun z => { z with stalled := some va })) ∧
      (∀ u l va, s.ventPages p q j y true y.pages wl = (u, l, some (none, va)) →
        exec (.ventTranslation p q j) s = .next ((hold u l).endVent p q j
          { y with error := some { kind := 5, detail := va / 64 * 64 + 3 } })) ∧
      (∀ u w l t, s.ventPages p q j y true y.pages wl = (u, w, none) → u.ventPages p q j y false w dl = (t, l, none) →
        y.wtype ≠ .cb4 → y.olds = [] →
        ((hold t l).bankTaken p (coreOf y.tid) y.act (y.v * y.vecStep) = true → exec (.ventTranslation p q j) s = .next (hold t l)) ∧
        ((hold t l).bankTaken p (coreOf y.tid) y.act (y.v * y.vecStep) = false →
        ∀ bytes v, State.ventGranules p (coreOf y.tid) (ctxOf y.tid) [] (y.v * y.vecStep / 64) (hold t l) y.act = (v, bytes, none) →
          exec (.ventTranslation p q j) s = .next (v.modVent p q j fun z =>
            { z with state := .streaming, entered := (s.part p).cycle, acts := bytes, olds := [] })))) ∧
    (Reads s [a] → Takes s d → s.val a = 0 →
      let mine := s.curQuad.vents.filter fun y => decide (y.2.tid = s.curTid ∧ y.2.gen = s.ctx.gen)
      (mine = [] → exec (.bstat d a) s = .next (((s.consume [a]).write d 0).advance 4).endWalks) ∧
      (∀ y ∈ mine, (∀ z ∈ mine, z = y ∨ y.2.order < z.2.order) →
        exec (.bstat d a) s = .next (((s.consume [a]).write d
          (BitVec.ofNat 64 (min mine.length 255 * 2 ^ 56 + y.2.rowsDone.length))).advance 4).endWalks)) ∧
    (Reads s [a] → Takes s d → (s.val a).toNat / 8192 = 2 ^ 50 →
      let c := s.curPart.ventCounts.getD ((s.val a).toNat % 8192) {}
      exec (.bstat d a) s = .next ((((s.consume [a]).writePending d).answerAfter 4 (.reg d (c.rows ++ c.paced ++ c.corr))).advance 4).endWalks)

/-- `posw` and `posa`, outside the shadow set and in a region whose map is well formed, publish the new position where the core
holds the part, and cross to the owner of the new cell where it does not and R216 allows it. `nbr` writes the records of the
threads within the radius, in ascending order of their identifiers, and puts its count and its marks on their way to the
destination; `cellq` does so for a cell's status. A position off the map traps, and so does a region without a map (R340, R344,
R348 to R351). That `nbr` lists the thread itself by its own entry as it stands is the model's choice (log 51), and so are the four cycles
after which it and `cellq` are answered (log 116). -/
def Obligations.PositionsComplete : Prop :=
  ∀ (s : State) (d a b : Reg) (m : CellMap),
    (Plain s → Reads s [a, b] → s.cellCheck = .ok m →
      let v := positionOf (s.val a) (s.val b)
      let move (pos : Position) (o : Out) : Prop :=
        (∀ cell, pos.fits = true → m.cellAt pos.x pos.y pos.z = some cell →
          let part := m.partIn cell pos.x pos.y pos.z
          let owner := m.owners.getD cell 0
          ((m.part part).holder = s.cur.core →
            o = .next (((s.consume [a, b]).publish part pos).advance 4).endWalks ∧
              ((s.consume [a, b]).publish part pos).ctx.posX = BitVec.ofInt 32 pos.x ∧
              ((s.consume [a, b]).publish part pos).ctx.posY = BitVec.ofInt 32 pos.y ∧
              ((s.consume [a, b]).publish part pos).ctx.posZ = BitVec.ofInt 32 pos.z) ∧
          ((m.part part).holder ≠ s.cur.core → (s.curCore.guardLog.pend >>> s.cur.ctx) &&& 1 ≠ 1 → s.ctx.errorRec = 0 →
            s.migrateRefused owner false = false → s.ctx.openBatch = [] → s.accessPending s.cur.part s.curTid = false →
            s.mergePending s.cur.part s.curTid s.ctx.gen = false → s.copyPending s.cur.part s.curTid s.ctx.gen = false →
            s.answerDue s.cur.part s.curTid s.ctx.gen = false → s.ownCrossing = none →
            o = .next ((s.consume [a, b]).crossTo owner part pos).endWalks)) ∧
        (pos.fits = false ∨ m.cellAt pos.x pos.y pos.z = none → o = .next (s.takeTrap 11 (s.val a) s.ctx.pc).endWalks)
      move v (exec (.posw a b) s) ∧ move (s.ctx.position.add v) (exec (.posa a b) s)) ∧
    (s.region? = none → Plain s → Reads s [a, b] → exec (.posw a b) s = .next (s.takeTrap 11 0 s.ctx.pc).endWalks) ∧
    (Reads s [a, b] → Takes s d → s.cellCheck = .ok m → ∀ own, s.residentOf s.cur.part s.curTid = some own →
      let at_ := bitsOf (s.val a).toNat 15 0
      let n := bitsOf (s.val a).toNat 31 16
      (s.val a).toNat < 2 ^ 32 → n ≤ 4096 → at_ + 16 * n ≤ 65536 → (s.val b).toNat < 2 ^ 32 → at_ % 16 = 0 →
      let pos := s.ctx.position
      let region := s.ctx.handle.toNat
      let m := s.mapSeen s.cur.part s.quadNo region m
      let view := m.viewParts s.cur.core
      let seen := State.oneEach (own :: (s.viewEntries s.cur.part s.cur.core region m).filter fun e => decide (e.origin ≠ own.origin ∧ e.uid ≠ own.uid))
      let hits := State.sortByTid (seen.filter fun e => decide (pos.dist2 e.position ≤ (s.val b).toNat * (s.val b).toNat))
      let far := view.any fun i => decide (calderaOf (quadOfCore (m.part i).holder) ≠ calderaOf s.quadNo)
      let t := (List.zip (List.range n) hits).foldl (fun t x =>
        (t.useBanks s.cur.part s.cur.core (at_ + 16 * x.1) 16).spadStoreLine s.cur.part s.cur.core s.cur.ctx (at_ + 16 * x.1)
          (State.entryRecord x.2) s.ctx.pc)
        (if far then s.recordDet s.cur.part 5 s.ctx.pc else s)
      let short := s.curQuad.missing.any fun e => decide (e.region = region) && m.inView s.cur.core e.part
      let past := (List.range m.cells).any fun c => !m.seesCell s.cur.core c && decide (m.cellDist2 c pos ≤ (s.val b).toNat * (s.val b).toNat)
      let crowded := view.any fun i => decide ((m.part i).state = .crowded)
      let w : Word64 := BitVec.ofNat 64 ((if short || past then 2 ^ 63 else 0) + (if crowded then 2 ^ 62 else 0) +
        (if n < hits.length then 2 ^ 61 else 0) + hits.length)
      exec (.nbr d a b) s = .next ((((t.consume [a, b]).writePending d).answerAfter 4 (.reg d w)).advance 4).endWalks) ∧
    (Reads s [a] → Takes s d → s.cellCheck = .ok m → (s.val a).toNat < m.cells →
      let cell := (s.val a).toNat
      let owner := m.owners.getD cell 0
      let m := s.mapSeen s.cur.part (quadOfCore owner) s.ctx.handle.toNat m
      let parts := m.partsOf cell
      let count := ((s.viewEntries s.cur.part owner s.ctx.handle.toNat m).filter fun e =>
        parts.contains e.part && decide (e.kind ≠ .ghost)).length
      let w := (if 1 < parts.length then 2 ^ 63 else 0) + (if parts.any fun i => decide ((m.part i).state = .crowded) then 2 ^ 62 else 0) +
        min count 65535 * 2 ^ 40 + owner
      s.val a ≠ allOnes →
      exec (.cellq d a) s = .next ((((s.consume [a]).writePending d).answerAfter 4 (.reg d (BitVec.ofNat 64 w))).advance 4).endWalks)

/-- In throughput mode a change that is the next of its core for its quad is applied there and no longer waits. The ghost of a
crossing goes once its last flit is accepted and no copy misses the new entry; the origin is then set, and once that stands in every
copy the crossing is over and the context that was left is given up, if it is still MIGRATING (log 28: the model's choice). A split sends
its reserve step to the map's home, where it counts the reserved core that it takes, if one is left, and answers; the answer halves the
part, which in one step gives the quads that now see more the entries that they miss (log 46: the model's choice), or without a reserved
core the part is CROWDED (R342 to R346). -/
def Obligations.CrossingsEnd : Prop :=
  ∀ (s u : State) (p k region part : Nat) (c : CellChange) (x : Crossing) (tid : Nat) (m : CellMap) (r : Region) (ph : Phys),
    ((s.part p).changes[k]? = some c → (s.part p).det = false → State.changeNext (s.part p) k c = true →
      exec (.cellChangeApply p k) s =
        .next ((s.modPart p fun P => { P with changes := P.changes.eraseIdx k }).applyChange p c)) ∧
    ((s.part p).crossings.find? k = some x → x.last = true →
      (x.ghostGone = false → State.changePending (s.part p) k 1 = false →
        ∃ t, exec (.ghostRemoval p k) s = .next t ∧ (∃ y, (t.part p).crossings.find? k = some y ∧ y.ghostGone = true) ∧ t.mem = s.mem) ∧
      (x.newTid = some tid → x.ghostGone = true → State.changePending (s.part p) k 2 = false → State.changePending (s.part p) k 5 = false →
        (x.originSet = false → ∃ t, exec (.crossingEnd p k) s = .next t ∧
          (∃ y, (t.part p).crossings.find? k = some y ∧ y.originSet = true) ∧ t.mem = s.mem) ∧
        (x.originSet = true → State.changePending (s.part p) k 3 = false →
          let w := s.modPart p fun P =>
            { P with
              crossings := P.crossings.del k
              quads := P.quads.mapVal fun _ Q =>
                { Q with cells := Q.cells.map fun e => if e.crossing = some k then { e with crossing := none } else e } }
          exec (.crossingEnd p k) s =
            .next (if (s.threadCtx p x.tid).state = .migrating then w.freeContext p (coreOf x.tid) (ctxOf x.tid) else w)))) ∧
    (s.cellMap p region = some m → (s.part p).regions.find? region = some r → (m.part part).state = .splitting →
      (m.part part).stalled = false → (s.part p).run ≠ .frozen → s.reserving p region part = false →
      let core := (m.part part).holder
      s.translateNow (.cellPart region part) p (quadOfCore core) (core * 16) r.asid (m.addr + 22) = (u, .ok ph) →
      exec (.cellSplit p region part) s = .next (u.sendAccess
        { part := p, issuer := .cellPart region part, tid := core * 16, order := (u.nextAccess, 0), kind := .reserve region part m.nres,
          pa := ph.pa, size := 2, asid := r.asid, va := m.addr + 22, counted := false, src := quadOfCore core, dst := homeOf ph.pa,
          stage := .home, issuedAt := (u.part p).cycle })) ∧
    (∀ id y nres, s.accesses.find? id = some y → y.kind = .reserve region part nres →
      (y.stage = .home → s.mayApply id y = true → y.pa + y.size ≤ memBytes → s.isPoisoned y.pa = false →
        let v := natOfBytes (s.readMem y.pa 2)
        (v % 2 ^ 11 < nres → exec (.accessApplication id) s = .next ((s.storeLine y.pa (bytesOfNat 2 (v + 1))).sendAnswer id
          (.status (BitVec.ofNat 64 (v % 2 ^ 11)) 1))) ∧
        (nres ≤ v % 2 ^ 11 → exec (.accessApplication id) s = .next (s.sendAnswer id (.status 0 0)))) ∧
      (∀ n taken, y.stage = .answered → y.answer = .status n taken → y.part = p →
        exec (.answerDelivery id) s =
          .next ((s.finishAccess id y).reserveAnswered p region part (if taken = 0 then none else some n.toNat)))) ∧
    (s.cellMap p region = some m → (m.part part).state = .splitting →
      (∀ n, s.reserveAnswered p region part (some n) = s.halvePart p region part m (m.resv.getD n 0)) ∧
      s.reserveAnswered p region part none = s.setCellPart p region part { m.part part with state := .crowded, stalled := false })
/-- `launch` of an aligned address reads the region control block and then decides: the launch's code and handle go to the
destination. `wunext` takes the next unit of the core's best entry, or writes 2^60 where there is none; `wudone` counts a unit of a
live region and ends the region with its last one. The fold gives the cores of a region consecutive shares of all its units. The
launch word queues a packet's address or marks an overflow; the packet at the head waits for the bytes of its region control block,
is refused where it is malformed or they are poisoned, and is launched otherwise; the completion word of a root launch that was
refused, or that has ended, is written once the partition's writes are applied (R236 to R248). The model's choices: `launch` decides and answers in
one step (log 59, DEDUCED), a launch that ends EMPTY answers with the handle 0 (log 142), a producer that is launched again is waited for again
(log 143), the number and the moment of a fold (log 57, DEDUCED), which address space a core's share is read in and what an unaligned image does
(logs 144 and 145), which writes the completion word waits for (log 58, DEDUCED), and what a malformed packet leaves (log 53, DEDUCED). -/
def Obligations.LaunchesComplete : Prop :=
  ∀ (s : State) (d a : Reg),
    let v := (s.val a).toNat
    let decided (rcb : Nat) (deps : List Nat) : State :=
      let r := (s.consume [a]).decideLaunch s.cur.part s.quadNo true s.region? 0 s.asid v rcb deps
      ((r.1.write d (BitVec.ofNat 64 (r.2.1 * 2 ^ 60 + r.2.2))).advance 4).endWalks
    (s.ctx.phase = .fresh → Reads s [a] → Takes s d → s.ctx.acquiring = [] → v % 256 = 0 → v < 2 ^ 52 →
      s.pendingBefore s.cur.part s.issuer s.cur.core s.nextAccess (some .md) = false →
      (∀ i, i < 4 → Placed s (v + 64 * i) 64 false) →
      ∃ t : State, exec (.launch d a) s = .next (t.park .reply) ∧ t.ctx.phase = .asked 1 ∧ t.mem = s.mem) ∧
    (Reads s [a] → Takes s d → s.ctx.phase = .fresh → s.ctx.acquiring = [] → (v % 256 ≠ 0 ∨ 2 ^ 52 ≤ v) →
      exec (.launch d a) s = .next (s.takeTrap 4 (s.val a) s.ctx.pc).endWalks) ∧
    (∀ r rcb, s.ctx.reply = some r → s.replyPending = false → r.poison = none → rcb = natOfBytes (r.bytes.take 256) →
      (s.ctx.phase = .asked 1 → (bitsOf rcb 835 832 = 0 ∨ 8 < bitsOf rcb 835 832 ∨ bitsOf rcb 819 768 % 8 ≠ 0) →
        exec (.launch d a) s = .next (decided rcb [])) ∧
      (s.ctx.phase = .asked 2 → exec (.launch d a) s = .next (decided rcb
        ((List.range (bitsOf rcb 835 832)).map fun i => natOfBytes ((r.bytes.drop (256 + 8 * i)).take 8))))) ∧
    (∀ p q child parent root asid va w deps,
      let cores := match parent with | some x => x.cores | none => (s.part p).cores
      let r : Region :=
        { regionOf parent asid va w with
          root := if child then (regionOf parent asid va w).root else root
          cores := coreSet cores (bitsOf w 383 352) (bitsOf w 351 320)
          deps := deps.map (rcbKey (regionOf parent asid va w).asid) }
      let code := launchCode (s.part p) child parent r w deps cores.length
      (code ≠ 0 → s.decideLaunch p q child parent root asid va w deps =
        (((s.noteLaunch p asid va true).writeRcb p q asid va (rcbWord (if code = 1 then 3 else 5) code 0)).activateAll p, code, 0)) ∧
      (code = 0 → s.decideLaunch p q child parent root asid va w deps =
        ((s.acceptRegion p q r parent).1, 0, (s.acceptRegion p q r parent).2))) ∧
    (∀ P r w deps n, launchCode P true none r w deps n = 8) ∧
    (Takes s d →
      (State.nextEntry s.curCore s.now = none → exec (.wunext d) s = .next ((s.write d (BitVec.ofNat 64 (2 ^ 60))).advance 4).endWalks) ∧
      (∀ k e r, State.nextEntry s.curCore s.now = some (k, e) → s.curPart.regions.find? e.handle = some r →
        let x := BitVec.ofNat 24 (e.next % r.nx)
        let y := BitVec.ofNat 24 (e.next / r.nx % r.ny)
        let z := BitVec.ofNat 24 (e.next / (r.nx * r.ny))
        exec (.wunext d) s = .next (((((s.modCurCore fun C =>
          { C with
            tasks := if e.next < e.last then C.tasks.put k { e with next := e.next + 1 } else C.tasks.del k
            curRegion := e.handle, curImage := r.image, curSegt := r.segt, curAsid := r.asid, curX := x, curY := y, curZ := z }).modCtx
          fun c => { c with wuX := x, wuY := y, wuZ := z, rv := true, handle := BitVec.ofNat 10 e.handle, asid := r.asid }).unitTaken
            s.cur.part e.handle r).write d (BitVec.ofNat 64 (r.wctx * 2 ^ 13 + r.prio * 2 ^ 10 + e.handle))).advance 4).endWalks)) ∧
    (Reads s [a] → s.ctx.acquiring = [] → s.pendingBefore s.cur.part s.issuer s.cur.core s.nextAccess (some .md) = false → v < 2 ^ 10 →
      ∀ r, s.curPart.regions.find? v = some r → r.done < r.taken →
        let t := ((s.consume [a]).advance 4).modCurPart fun P => { P with regions := P.regions.put v { r with done := r.done + 1 } }
        (¬(r.taken = r.units ∧ r.done + 1 = r.units) → exec (.wudone a) s = .next t.endWalks) ∧
        (r.taken = r.units → r.done + 1 = r.units → exec (.wudone a) s = .next (t.endRegion s.cur.part v false).endWalks)) ∧
    (Reads s [a] → (2 ^ 10 ≤ v ∨ s.curPart.regions.find? v = none) →
      exec (.wudone a) s = .next (s.takeTrap 11 (s.val a) s.ctx.pc).endWalks) ∧
    (∀ p h r, (s.part p).regions.find? h = some r → r.folding = true → r.mapDue = false → (s.part p).holdsQuads = true →
      (r.cores.any fun c => (freeKey (s.core p c).tasks 16).isNone) = false →
      let t := s.modPart p fun P => { P with nextFold := (s.part p).nextFold + 1, regions := P.regions.put h { r with folding := false } }
      let l := ((List.zip (List.range r.cores.length) r.cores).map fun x => (x.2, State.foldShare r.units r.cores.length x.1)).filter
        fun x => decide (0 < x.2.2)
      exec (.fold p h) s = .next (l.foldl (fun t x => t.foldHalted p x.1)
        (l.foldl (fun t x => t.foldCore p h r (s.part p).nextFold x.1 x.2.1 x.2.2) t))) ∧
    (∀ u c k, 0 < c → (State.foldShare u c 0).1 = 0 ∧ (State.foldShare u c k).1 + (State.foldShare u c k).2 = (State.foldShare u c (k + 1)).1 ∧
      (State.foldShare u c c).1 = u) ∧
    (∀ f (w : Word64), s.firmware.state ≠ .recovery → w.toNat % 64 = 0 →
      s.ownsBlocks f (w.toNat / blockBytes) (w.toNat / blockBytes) = true →
      ((s.func f).packets.length < 16 →
        exec (.launchWordWrite f w) s = .next (s.modFunc f fun x => { x with packets := x.packets ++ [w.toNat] })) ∧
      (16 ≤ (s.func f).packets.length → exec (.launchWordWrite f w) s = .next (s.modFunc f fun x => { x with ovf := true }))) ∧
    (∀ f,
      (s.bar0Responds f 0 = true → exec (.launchWordRead f) s =
        .next (({ s with hostValue := some (bytesOfNat 8 ((s.func f).packets.length + (if (s.func f).ovf then 32 else 0))) } : State).modFunc f
          fun x => { x with ovf := false })) ∧
      (s.bar0Responds f 0 = false →
        exec (.launchWordRead f) s = .next { s with hostValue := some (List.replicate 8 0) })) ∧
    (∀ f q rest, (s.func f).packets = q :: rest → s.servesLaunch f = true → (s.func f).packetFault = none → s.isPoisoned q = false →
      let w := natOfBytes (s.readMem q 64)
      (s.packetMalformed f w = true → exec (.launchPacket f) s = .next (s.refusePacket f w 4)) ∧
      (∀ u a, s.packetMalformed f w = false →
        engineReadMem { issuer := .packet, part := f, quad := s.hubQuad f, tid := 0, asid := bitsOf w 200 192 } 5 s (bitsOf w 51 0) 256 =
          (u, a) →
        (a = .held → exec (.launchPacket f) s = .next u) ∧
        (∀ b, a = .bytes b none → exec (.launchPacket f) s = .next (u.launchRoot f w (natOfBytes b))) ∧
        (∀ b l, a = .bytes b (some l) → exec (.launchPacket f) s = .next (u.refusePacket f w 7)))) ∧
    (∀ f w code,
      let asid := bitsOf w 200 192
      let va := bitsOf w 51 0
      let t := (s.popPacket f).noteLaunch f asid va true
      let told := if code = 7 ∨ va % 256 ≠ 0 then t else t.writeRcb f (t.hubQuad f) asid va (rcbWord 5 code 0)
      s.refusePacket f w code = ((told.addRoot f w (some code)).1).activateAll f) ∧
    (∀ p k r, (s.part p).roots.find? k = some r →
      let t := s.modPart p fun P => { P with roots := P.roots.del k }
      let told (w : Word64) : State :=
        let u := if r.done = 0 then t else t.hubWrite r.done (bytesOfNat 8 w.toNat)
        if r.irq then { u with msix := u.msix ++ [(p, r.vec)] } else u
      (s.writesPending p = true → exec (.launchDoneWrite p k) s = .next s) ∧
      (∀ c, r.refusedCode = some c → s.writesPending p = false →
        exec (.launchDoneWrite p k) s = .next (told (BitVec.ofNat 64 (2 ^ 63 + c)))) ∧
      (r.refusedCode = none → ((s.part p).regions.any fun x => decide (x.2.root = k)) = false → s.writesPending p = false →
        exec (.launchDoneWrite p k) s = .next (told r.doneVal)))

/-- `timrd` writes seconds and the rest of device time into two registers. `tickw` of a geyser of the thread's function, `winq` and
`wintake` of a stream that is open for it, send their request and leave their destinations empty. The window unit answers a tick
that has fired LATE, one of a disabled geyser OFF, and holds any other; a `winq` gets the masks of the window; a `wintake` is
refused by the state of the slot, or copies the token and marks the slot taken, and a copy that ends is answered; of a stream closed
since the issue the answers are no slot and CLOSED. The readings of one thread never decrease, and those of one caldera's copy do not
either; a tick is compared as a signed number (R4, R352, R356 to R366). The model's choices: a
request names the opening of its stream and is no access (log 60, DEDUCED), and the bytes of a copy are captured at the unit's step,
written when the copy ends, and the tokens held for the slot judged again then (log 61, DEDUCED). -/
def Obligations.WindowsComplete : Prop :=
  ∀ (s : State) (d a b : Reg) (id : Nat) (x : Access),
    (Takes s d → Takes s (State.nextReg d) →
      let r := s.readDtime (calderaOf s.quadNo) s.ctx.lastTime
      let time := r.2
      let t := r.1.modCtx fun c => { c with lastTime := time }
      exec (.timrd d) s = .next ((((t.recordDet t.cur.part 6 t.ctx.pc).write d (BitVec.ofNat 64 (time / dtimeSecond % 2 ^ 48))).write
        (State.nextReg d) (BitVec.ofNat 64 (time % dtimeSecond))).advance 4).endWalks ∧ s.ctx.lastTime ≤ time ∧
        s.windows.copies.getD (calderaOf s.quadNo) 0 ≤ time ∧ t.windows.copies.getD (calderaOf s.quadNo) 0 = time) ∧
    (Reads s [a, b] → Takes s d → (s.val a).toNat < 64 → (s.windows.geyser (s.val a).toNat).func = s.cur.part →
      (s.val b).toInt < 2 ^ 48 →
      exec (.tickw d a b) s =
        .next ((((s.consume [a, b]).writePending d).requestWindow 0 d (s.val a) (s.val b) 0).advance 4).endWalks) ∧
    (Reads s [a, b] → Takes s d → 64 ≤ (s.val a).toNat →
      exec (.tickw d a b) s = .next (s.takeTrap 11 (s.val a) s.ctx.pc).endWalks) ∧
    (Reads s [a, b] → Takes s d → (s.val a).toNat < 64 → (s.windows.geyser (s.val a).toNat).func = s.cur.part →
      2 ^ 48 ≤ (s.val b).toInt → exec (.tickw d a b) s = .next (s.takeTrap 11 (s.val b) s.ctx.pc).endWalks) ∧
    (let y := s.windows.streams.getD ((s.val a).toNat % 256) {}
     ∀ o, y.opened = some o → o.func = s.cur.part →
      bitsOf (s.val a).toNat 15 8 = 0 → s.ctx.acquiring = [] →
      let t := s.recordDet s.cur.part 7 s.ctx.pc
      (Reads s [a] → Takes s d → Takes s (State.nextReg d) → exec (.winq d a) s =
        .next (((((t.consume [a]).writePending d).writePending (State.nextReg d)).requestWindow 1 d (s.val a) 0 y.openings).advance 4).endWalks) ∧
      (Reads s [a, b] → Takes s d → (s.val b).toNat + 2 ^ o.slotlog ≤ 65536 → (s.val b).toNat % 64 = 0 → exec (.wintake d a b) s =
        .next ((((t.consume [a, b]).writePending d).requestWindow 2 d (s.val a) (s.val b) y.openings).advance 4).endWalks)) ∧
    (s.accesses.find? id = some x → s.requestReady x = true →
      let t := s.modWindows fun w => { w with lastRequest := some (w.ns, x.part, x.issuedAt, x.tid) }
      (∀ r g n, x.kind = .window 0 r g n →
        let y := s.windows.geyser g.toNat
        (y.en = false → exec (.windowRequest id) s = .next (t.answerTick id x 2 y.current48)) ∧
        (y.en = true → n.toInt < y.fired → exec (.windowRequest id) s = .next (t.answerTick id x 1 y.current48)) ∧
        (y.en = true → y.fired ≤ n.toInt →
          exec (.windowRequest id) s = .next (t.setAccess id { x with stage := .watch (s.part x.part).cycle }))) ∧
      (∀ r g n, x.kind = .window 1 r g n →
        let z := s.windows.streams.getD (g.toNat % 256) {}
        ((z.opened = none ∨ z.openings ≠ x.opening) → exec (.windowRequest id) s = .next (t.answerWindow id x (.status 0 0))) ∧
        (∀ o, z.opened = some o → z.openings = x.opening → o.func = x.part →
          let m := State.windowMasks t.windows o (g.toNat / 2 ^ 16)
          exec (.windowRequest id) s = .next (t.answerWindow id x (.status m.1 m.2)))) ∧
      (∀ r g n, x.kind = .window 2 r g n →
        let refused (c : Nat) : State := t.answerWindow id x (.data (bytesOfNat 8 (c * 2 ^ 60)))
        let z := s.windows.streams.getD (g.toNat % 256) {}
        ((z.opened = none ∨ z.openings ≠ x.opening) → exec (.windowRequest id) s = .next (refused 6)) ∧
        (∀ o, z.opened = some o → z.openings = x.opening → o.func = x.part →
          (t.windows.tick o (g.toNat / 2 ^ 16) = .expired → exec (.windowRequest id) s = .next (refused 3)) ∧
          (t.windows.tick o (g.toNat / 2 ^ 16) = .early → exec (.windowRequest id) s = .next (refused 4)) ∧
          (∀ y, t.windows.tick o (g.toNat / 2 ^ 16) = .slot y →
            (y.taken = true → exec (.windowRequest id) s = .next (refused 5)) ∧
            (y.taken = false → y.state = .empty → exec (.windowRequest id) s = .next (refused 2)) ∧
            (y.taken = false → y.state ≠ .empty →
              let i := g.toNat / 2 ^ 16 % o.w
              let c := State.tokenBytes o 65 t (i * 2 ^ o.slotlog) y.len
              let v := BitVec.ofNat 64 ((if y.state = .late then 1 else 0) * 2 ^ 60 + (if y.p || c.2.2 then 2 ^ 59 else 0) + y.len)
              exec (.windowRequest id) s = .next ((c.1.modStream (g.toNat % 256) fun z =>
                { z with opened := z.opened.map fun o => { o with slots := o.slots.put i { y with taken := true, copying := some id } } }).setAccess
                id { x with kind := .take r (n.toNat % 2 ^ 16) v c.2.1 })))))) ∧
    (∀ r addr v bytes, s.accesses.find? id = some x → x.kind = .take r addr v bytes → x.stage = .home →
      let t := ((List.range ((bytes.length + 63) / 64)).foldl (fun t i =>
        t.spadStoreLine x.part (coreOf x.tid) (ctxOf x.tid) (addr + 64 * i) ((bytes.drop (64 * i)).take 64) (BitVec.ofNat 50 x.pc)) s)
      let u := (t.answerWindow id x (.data (bytesOfNat 8 v.toNat))).modWindows fun w => { w with streams := w.streams.mapVal fun _ z =>
        { z with opened := z.opened.map fun o =>
            { o with slots := o.slots.mapVal fun _ y => if y.copying = some id then { y with copying := none } else y } } }
      ((u.windows.held = [] ∨ u.arrivalsOver = true) → exec (.wintakeCopyDone id) s = .next u) ∧
      (u.windows.held ≠ [] → u.arrivalsOver = false →
        exec (.wintakeCopyDone id) s =
          .next (u.fireAll.windows.held.foldl (fun u t => u.placeToken t) (u.fireAll.modWindows fun w => { w with held := [] }))))

/-- A due geyser fires every tick that its time has passed; one that is not due does nothing. A disabled geyser's words are written,
an enabled one's are not, but for the write that disables it; a write that enables it takes the ticks fired so far, and is
refused on a bad configuration. A message of IEEE 1588 steps device time forward, marks a step back, or slews; with no
source it does nothing. The host sets device time forward only. Only the physical function writes these. A stream opens from a
descriptor that R357 allows, once the walks of its pages have ended, and closes, the ticks that are due fired first, for its own function. A datagram is placed, or counted as what it is, by the tick of
its presentation time (R352 to R361, R377). The model's choices: a refused write of EN is discarded whole (log 62, DEDUCED), and the
transitions of LOCKED, BACKSTEP and HOLDOVER (log 63, DEDUCED). -/
def Obligations.TimeAndStreams : Prop :=
  ∀ (s : State) (f g port : Nat) (v : Word64),
    ((s.windows.geyser g).due s.windows.ns = false → exec (.geyserTick g) s = .next s) ∧
    ((s.windows.geyser g).due s.windows.ns = true → ∃ t, exec (.geyserTick g) s = .next t ∧
      (t.windows.geyser g).fired = (s.windows.geyser g).firedBy s.windows.ns ∧ (t.windows.geyser g).regs = (s.windows.geyser g).regs ∧
      t.mem = s.mem) ∧
    (g < 64 → s.mayGeyser f g = true → s.bar0Responds f 0x4000 = true → (s.windows.geyser g).en = false →
      let word (k : Nat) (v : Word64) : BitVec 192 :=
        ((s.windows.geyser g).regs &&& ~~~ ((BitVec.allOnes 64).setWidth 192 <<< (64 * k))) ||| (v.setWidth 192 <<< (64 * k))
      (∀ k, 1 ≤ k → k < 3 → exec (.geyserFieldWrite f g k v) s =
        .next (s.modGeyser g fun _ => { regs := word k v, fired := (s.windows.geyser g).fired })) ∧
      (f = 0 → ({ regs := word 0 (v ||| 32) } : Geyser).refused = true → exec (.geyserEnable f g v) s = .next s) ∧
      (f = 0 → ({ regs := word 0 (v ||| 32) } : Geyser).refused = false → ∃ t, exec (.geyserEnable f g v) s = .next t ∧
        (t.windows.geyser g).regs = word 0 (v ||| 32) ∧ (t.windows.geyser g).en = true ∧
        (t.windows.geyser g).fired = (t.windows.geyser g).firedBy s.windows.ns ∧ t.mem = s.mem)) ∧
    (g < 64 → s.mayGeyser f g = true → s.bar0Responds f 0x4000 = true → (s.windows.geyser g).en = true →
      (s.windows.geyser g).due s.windows.ns = false →
      (∀ k, 1 ≤ k → exec (.geyserFieldWrite f g k v) s = .next s) ∧
      exec (.geyserEnable f g v) s = .next s ∧
      ∃ t, exec (.geyserDisable f g v) s = .next t ∧ (t.windows.geyser g).en = false ∧
        (t.windows.geyser g).fired = (s.windows.geyser g).fired) ∧
    (∀ offset : Int,
      (s.windows.ptpcfg.toNat % 4 = 0 → exec (.ptpMessage offset) s = .next s) ∧
      (s.windows.ptpcfg.toNat % 4 ≠ 0 →
        let t := s.modWindows fun w => { w with holdover := false }
        (offset < -(10 * dtimeSecond : Nat) → exec (.ptpMessage offset) s =
          .next ((t.modWindows fun w => { w with backstep := true }).postEvent 0 4 0 (offset.natAbs / 2 ^ 16))) ∧
        ((10 ^ 6 * 2 ^ 16 : Nat) < offset → exec (.ptpMessage offset) s =
          .next ((t.modWindows fun w => { w with backstep := false, slew := 0 }).stepTime offset.toNat)) ∧
        (-(10 * dtimeSecond : Nat) ≤ offset → offset ≤ (10 ^ 6 * 2 ^ 16 : Nat) → exec (.ptpMessage offset) s =
          .next (t.modWindows fun w => { w with backstep := false, locked := true, slew := offset })))) ∧
    exec .holdover s = .next (s.modWindows fun w => { w with holdover := true, locked := false, slew := 0 }) ∧
    (f ≠ 0 → exec (.ptpcfgWrite f v) s = .next s ∧ exec (.dtimesetLow f v) s = .next s ∧ exec (.dtimesetHigh f v) s = .next s) ∧
    (bitsOf v.toNat 7 6 ≠ 3 → ∃ t, exec (.ptpcfgWrite 0 v) s = .next t ∧ t.windows.ptpcfg = v.setWidth 16 ∧ t.windows.locked = false ∧
      t.windows.dtime = s.windows.dtime) ∧
    exec (.dtimesetLow 0 v) s = .next (s.modWindows fun w => { w with dtimeLow := v }) ∧
    (let w := s.windows.dtimeLow.toNat + v.toNat % 2 ^ 32 * 2 ^ 64
     (bitsOf w 47 16 ≤ 999999999 → s.windows.dtime < State.timeOf w → ∃ t, exec (.dtimesetHigh 0 v) s = .next t ∧
       t.windows.dtime = State.timeOf w) ∧
     (State.timeOf w ≤ s.windows.dtime → exec (.dtimesetHigh 0 v) s = .next s)) ∧
    (let n := bitsOf v.toNat 59 52
     let a := bitsOf v.toNat 51 6 * 64
     let w := natOfBytes (s.readMem a 64)
     let o := State.streamOf f w
     s.bar0Responds f 0x28 = true →
     ((s.windows.streams.getD n {}).opened = none → s.ownsBlocks f (a / blockBytes) (a / blockBytes) = true → s.isPoisoned a = false →
       (s.badStream f w = true → exec (.streamOpen f v) s = .next (s.noteOpen f true)) ∧
       (∀ u a, s.badStream f w = false →
         State.sinkPages f (s.hubQuad f) o.asid ((o.w * 2 ^ o.slotlog + 4095) / 4096) s o.sink = (u, a) →
         (∀ pages, a = .ok pages → exec (.streamOpen f v) s = .next ((u.modStream n fun z =>
           { opened := some { o with pages := pages }, func := f, openings := z.openings + 1 }).noteOpen f false)) ∧
         (a = .error .held → exec (.streamOpen f v) s = .next { u with inputs := .reopen f v :: u.inputs }) ∧
         (∀ e, a = .error e → e ≠ .held → exec (.streamOpen f v) s = .next (u.noteOpen f true)))) ∧
     (∀ o, (s.windows.streams.getD n {}).opened = some o → o.func = f → ∃ t, exec (.streamClose f v) s = .next t ∧
       (t.windows.streams.getD n {}).opened = none ∧ (t.func f).streamRefused = false ∧ t.mem = s.mem) ∧
     ((s.windows.streams.getD n {}).opened = none → exec (.streamClose f v) s = .next (s.fireAll.noteOpen f true))) ∧
    exec (.frameDrop port) s = .next (s.countDrop port) ∧
    ((s.countDrop port).windows.drops.getD port 0 = bump (s.windows.drops.getD port 0)) ∧
    (∀ (h : HeldToken) (o : OpenStream), (s.windows.streams.getD h.stream {}).opened = some o →
      let g := s.windows.geyser o.geyser
      let k := (h.time - g.start * 2 ^ 16) / (g.period * 2 ^ 16)
      let counted (f : StreamCount → StreamCount) : State := s.countStream h.stream f
      (h.time < g.start * 2 ^ 16 → s.placeToken h = counted fun c => { c with expired := bump c.expired }) ∧
      (g.start * 2 ^ 16 ≤ h.time → g.period ≠ 0 →
        (s.windows.tick o k = .early → s.placeToken h = counted fun c => { c with early := bump c.early }) ∧
        (s.windows.tick o k = .expired → s.placeToken h = counted fun c => { c with expired := bump c.expired }) ∧
        (∀ y, s.windows.tick o k = .slot y →
          ((y.state ≠ .empty ∨ y.taken = true) → s.placeToken h = counted fun c => { c with dup := bump c.dup }) ∧
          (y.state = .empty → y.taken = false → y.copying ≠ none →
            s.placeToken h = s.modWindows fun w => { w with held := w.held ++ [h] }) ∧
          (y.state = .empty → y.taken = false → y.copying = none →
            let blocks := (h.payload.length + 63) / 64
            s.placeToken h = (State.writePayload o (blocks + 1) s (k % o.w * 2 ^ o.slotlog) h.payload h.intact).modStream h.stream
              fun z =>
                { z with
                  opened := z.opened.map fun o =>
                    { o with
                      slots := o.slots.put (k % o.w) { state := if k < g.fired then .late else .present, len := h.payload.length,
                                                       p := (h.intact.take blocks).any fun b => !b } }
                  counts := { z.counts with
                    arrived := bump z.counts.arrived
                    late := if k < g.fired then bump z.counts.late else z.counts.late } })))) ∧
    (∀ (t : List Byte) (ok : List Bool), s.arrivalsOver = false →
      let u := s.fireAll
      let n := State.bigEndian ((t.drop 1).take 1)
      let len := State.bigEndian ((t.drop 2).take 2)
      let pt := State.bigEndian ((t.drop 4).take 12)
      (t.length < 16 → exec (.tokenArrival port f t ok) s = .next (u.countDrop port)) ∧
      (16 ≤ t.length → (u.windows.streams.getD n {}).opened = none → exec (.tokenArrival port f t ok) s = .next (u.countDrop port)) ∧
      (∀ o, 16 ≤ t.length → (u.windows.streams.getD n {}).opened = some o → o.func = f → o.ports.testBit port = true →
        ((t.headD 0 ≠ 1 ∨ len ≠ t.length - 16 ∨ 2 ^ o.slotlog < len ∨ 999999999 < bitsOf pt 47 16) →
          exec (.tokenArrival port f t ok) s = .next (u.countStream n fun c => { c with bad := bump c.bad })) ∧
        (t.headD 0 = 1 → len = t.length - 16 → len ≤ 2 ^ o.slotlog → bitsOf pt 47 16 ≤ 999999999 →
          exec (.tokenArrival port f t ok) s =
            .next (u.placeToken { stream := n, time := State.timeOf pt, payload := t.drop 16, intact := ok }))))

/-- A request stops a live partition; a quantum that has passed stops it where a partition of no lower priority waits, and starts again where
none waits; a stopping partition with no step begun that
it must complete is frozen, after the ticks that are due; a quad that passes to another partition is scrubbed, the lines of a deterministic one apart (log 150: the model's choice); a partition that may take its quads, all its own, runs. The
host reads and writes memory through its window and not outside it. A function is enabled unless its ranges overlap another's, its
blocks are then zeroed, tracked and snapshot. A block that
the host writes carries its check from then on, and one whose check fails is poisoned. A partition's quads are named from outside while it
holds none (the model's choice, log 87). Only the physical function's record writes and reads a frozen partition. A quote that
was asked for is written once (R18, R119, R250, R371 to R376, R388, R390, R391, R397). The model's choices: what a pre-emption waits for and
yields to (log 66, DEDUCED), the bodies of records and which partition IMPORT takes (logs 12, DESIGN CHOICE, and 72, DEDUCED), what a
refused VFCTL write leaves (log 70, DEDUCED), and the check that a block keeps (log 88, DEDUCED). -/
def Obligations.HostAndPartitions : Prop :=
  ∀ (s : State) (p q f v n : Nat) (value : Word64) (b : List Byte),
    (s.bar0Responds p 0x20 = true → (s.part p).run = .live → ∃ t, exec (.preemptRequest p) s = .next t ∧ (t.part p).run = .freezing ∧ t.mem = s.mem) ∧
    (s.quantumOver p = false → exec (.quantumExpiry p) s = .next s) ∧
    (s.quantumOver p = true →
      (s.contended p (s.part p).prio = true → exec (.quantumExpiry p) s = .next (s.modPart p fun P => { P with run := .freezing })) ∧
      (s.contended p (s.part p).prio = false → s.contended p 0 = true → exec (.quantumExpiry p) s = .next s) ∧
      (s.contended p 0 = false → exec (.quantumExpiry p) s = .next (s.modPart p fun P => { P with resumed := P.cycle }))) ∧
    ((s.part p).run = .freezing →
      (s.fireAll.draining p = true → exec (.partitionFreeze p) s = .next s.fireAll) ∧
      (s.fireAll.draining p = false → ∃ t, exec (.partitionFreeze p) s = .next t ∧ (t.part p).run = .frozen ∧
        (∀ q, (t.quad p q).cores = (s.quad p q).cores) ∧ (t.part p).regions = (s.part p).regions ∧ t.mem = s.mem)) ∧
    (s.serves p = true → s.mayTake p = true → ((shapeQuads (s.part p).shape).any fun q => decide (s.owner.getD q 0 ≠ p)) = false →
      exec (.partitionResume p) s = .next ((((s.modPart p fun P =>
        { P with run := .live, waiting := none, resumed := P.cycle }).resumeTicks p).activateAll p).wakeAll p)) ∧
    (∀ P, s.parts.first? (fun p P => P.hasQuad q && s.mayTake p && decide (s.owner.getD q 0 ≠ p)) = some (p, P) →
      ∃ t, exec (.sinterScrub q) s = .next t ∧ t.owner.getD q 0 = p ∧ t.mem = s.mem ∧
        (P.run = .idle → t.quad p q = {}) ∧ (∀ l, homeOf (l * 64) = q → s.detLine l = false → (t.bank.find? l).isSome = false)) ∧
    (let t := State.checkRead f (v + 1) s (s.bar2Addr f n) v
     exec (.hostBar2Read f n v) s = .next { t with hostValue := t.hostLoad f (v + 1) (t.bar2Addr f n) v }) ∧
    (b ≠ [] → b.length ≤ 64 - s.bar2Addr f n % 64 →
      (s.bar2Reaches f (s.bar2Addr f n) = true →
        let a := s.bar2Addr f n
        let t := s.storeLine a b
        ((s.isPoisoned a = false ∨ b.length = 64) → exec (.hostBar2Write f n b true) s =
          .next { t with checks := t.checks.put (a / 64) (crc16 (t.readMem (a / 64 * 64) 64)) }) ∧
        (s.isPoisoned a = true → b.length < 64 → exec (.hostBar2Write f n b true) s = .next s) ∧
        exec (.hostBar2Write f n b false) s = .next ((s.markBlock a).poisonTold a)) ∧
      (s.bar2Reaches f (s.bar2Addr f n) = false → ∀ ok, exec (.hostBar2Write f n b ok) s = .next s)) ∧
    (v ≠ 0 → v ≤ 31 → s.firmware.state ≠ .recovery →
      ((s.func v).en = false → s.firmware.state ≠ .failed →
        (s.funcs.any fun y => decide (y.1 ≠ v ∧ y.1 ≠ 0) && y.2.en && State.Func.overlaps (s.func v) y.2) = false →
        exec (.vfEnable v) s = .next (s.modFunc v fun _ => { s.func v with en := true, err := false, scrubbing := true })) ∧
      (∀ on, ∃ t, exec (.vfTrack v on) s = .next t ∧ (t.func v).track = on ∧ t.mem = s.mem) ∧
      ((s.func v).en = true → value.getLsbD 63 = false →
        exec (.vfctlWrite v 0 value) s = .next (s.modFunc v fun x => { x with en := false, err := false, scrubbing := false })) ∧
      (∃ t, exec (.vfctlWrite v 2 value) s = .next t ∧ (t.func v).err = false ∧ (t.func v).track = value.getLsbD 63 ∧
        (t.func v).dirty.toNat = bitsOf value.toNat 51 6 * 64 ∧ (t.func v).snap = ((s.func v).snap || value.getLsbD 62)) ∧
      ((s.func v).en = true → ∃ t, exec (.vfctlWrite v 1 value) s = .next t ∧ (t.func v).err = true ∧ (t.func v).aslo = (s.func v).aslo) ∧
      ((s.func v).en = false → ∃ t, exec (.vfctlWrite v 1 value) s = .next t ∧ (t.func v).aslo.toNat = bitsOf value.toNat 8 0 ∧
        (t.func v).ashi.toNat = bitsOf value.toNat 24 16)) ∧
    ((s.func v).scrubbing = true → MemoryOk s → ∃ t, exec (.vfScrubDone v) s = .next t ∧ (t.func v).scrubbing = false ∧
      ∀ pa, ((s.func v).pblo.toNat ≤ pa / blockBytes → pa / blockBytes ≤ (s.func v).pbhi.toNat → t.readMem pa 1 = [0]) ∧
        ((pa / blockBytes < (s.func v).pblo.toNat ∨ (s.func v).pbhi.toNat < pa / blockBytes) → t.readMem pa 1 = s.readMem pa 1)) ∧
    ((s.func v).snap = true → ∃ t, exec (.vfSnapshot v) s = .next t ∧ (t.func v).snap = false ∧ (t.func v).marks = []) ∧
    (f ≠ 0 → exec (.exportState f value) s = .next s ∧ exec (.importState f value) s = .next s) ∧
    ((s.part (value.toNat % 32)).run ≠ .frozen → exec (.exportState 0 value) s = .next (s.vfError (value.toNat % 32))) ∧
    ((s.part (value.toNat % 32)).run = .frozen →
      let body := Config.exportBody s.choices
      let bytes := bytesOfNat 48 (Config.sha384 body).toNat ++ body
      exec (.exportState 0 value) s = .next (({ s with choices := s.choices + 1,
                                                       exports := (bytes, s.savePartition (value.toNat % 32)) :: s.exports } : State).writeRecord
        (bitsOf value.toNat 63 12 * 4096) bytes)) ∧
    (match s.recordAt (bitsOf value.toNat 63 12 * 4096) with
     | none => exec (.importState 0 value) s = .next (s.vfError (value.toNat % 32))
     | some x => x.part.shape = (s.part (value.toNat % 32)).shape → (s.part (value.toNat % 32)).holdsQuads = false →
         let t := s.restorePartition (value.toNat % 32) x
         exec (.importState 0 value) s = .next (t.awaitQuads (value.toNat % 32)) ∧ (t.part (value.toNat % 32)).run = .frozen ∧
           (t.part (value.toNat % 32)).regions = x.part.regions ∧ t.mem = s.mem) ∧
    (s.bar0Responds f 0x68 = true → (s.func f).quote = none → value.toNat % 64 = 0 →
      s.ownsBlocks f (value.toNat / blockBytes) ((value.toNat + 64 + 20479) / blockBytes) = true →
      exec (.quoteRequest f value) s = .next (s.modFunc f fun x => { x with quote := some value.toNat, quoteDone := false })) ∧
    (∀ quads, (s.part p).holdsQuads = false → (s.part p).waiting = none → (s.part p).regions = [] → quads ≠ [] →
      State.shapeOk quads = true → ∃ t, performInput (.shape p quads) s = .next t ∧ (t.part p).shape = quads ∧ t.mem = s.mem) ∧
    (∀ a, (s.func f).quote = some a → ∃ t, exec (.quoteDone f) s = .next t ∧ (t.func f).quote = none ∧ (t.func f).quoteDone = true)

/-- A link moves between DOWN, TRAINING, UP and FAILED as its enable, its training and its replays say; only the physical function
configures it. `cstart` writes a handle with status 0 and starts the program where its function owns the fumarole, its link is UP and it
is free, and else the status that says which; `cwait` writes the outcome of the latest program once it has ended, and waits for one
that runs. A program is read step by step up to its END before any of it runs: a step with a reserved bit or an illegal OP or DIR, or a
256th step that is no END, ends it with BADPROG. A loaded program takes the step it is at, and a receiving step whose transfer has another
number of blocks ends it with MISMATCH, waiting for the bytes that it reads and for the translation of each line that it writes in turn: SEND reads and sends, RECV and COPY write what comes in, RRS adds to it and sends,
WAIT goes on when the fumarole's writes are applied and its transfers acknowledged, LOOP counts, END ends the program, and its flags reach
the thread that issued it, while its context is still that thread's; a write to the scratchpad waits for a bank that a thread has used in the
cycle (R46, R170, R378 to R383). The model's choices (log 65, DEDUCED): subnormals are flushed and a NaN is made canonical
as bytes are taken in, COPY sends on what it has written, what WAIT waits for, and that a fumarole's program alone ends with its link. -/
def Obligations.LinksAndCollectives : Prop :=
  ∀ (s : State) (l : Nat) (d a b : Reg) (h : Header) (ps bs : Seg) (fum : Fin 8) (chunk : BitVec 20),
    (l < 8 → s.firmware.state ≠ .recovery →
      ((s.fum l).state = .down ∨ (s.fum l).state = .failed → exec (.linkEnable l) s =
        .next ((s.modFum l fun x => { x with en := true }).moveLink l .training)) ∧
      ((s.fum l).state = .up ∨ (s.fum l).state = .training → exec (.linkEnable l) s = .next (s.modFum l fun x => { x with en := true })) ∧
      ((s.fum l).state ≠ .down → exec (.linkDisable l) s =
        .next (((s.modFum l fun x => { x with en := false }).endProgram l 1).moveLink l .down)) ∧
      ((s.fum l).state = .down → exec (.linkDisable l) s = .next (s.modFum l fun x => { x with en := false }))) ∧
    ((s.fum l).state = .training → exec (.linkTrained l) s = .next (s.moveLink l .up) ∧
      exec (.linkTrainTimeout l) s = .next ((s.modFum l fun x => { x with en := false }).moveLink l .down)) ∧
    ((s.fum l).state ≠ .training → exec (.linkTrained l) s = .next s ∧ exec (.linkTrainTimeout l) s = .next s) ∧
    (∀ again n, n = (if again then (s.fum l).run + 1 else 1) → (s.fum l).state = .up →
      let t := s.modFum l fun x => { x with run := n, replays := if x.replays = BitVec.allOnes 16 then x.replays else x.replays + 1 }
      (n < 16 → exec (.flitReplay l again) s = .next t) ∧
      (16 ≤ n → exec (.flitReplay l again) s = .next ((t.endProgram l 1).moveLink l .failed))) ∧
    (∀ f v, f ≠ 0 → exec (.fumcfgWrite f l v) s = .next s) ∧
    (∀ v : Word64, l < 8 → s.firmware.state ≠ .recovery → bitsOf v.toNat 23 8 < bitsOf v.toNat 39 24 →
      let t := s.modFum l fun x => { x with nrank := BitVec.ofNat 16 (bitsOf v.toNat 39 24), rank := BitVec.ofNat 16 (bitsOf v.toNat 23 8),
                                            owner := BitVec.ofNat 5 v.toNat }
      exec (.fumcfgWrite 0 l v) s = .next (if v.getLsbD 7 then t.enableLink l else t.disableLink l)) ∧
    (Reads s [a, b] → Takes s d → s.ctx.acquiring = [] → chunk ≠ 0 → InSegment (s.seg ps) (s.val a).toInt 16 rightR →
      (s.val a).toInt % 16 = 0 → InSegment (s.seg bs) (s.val b).toInt 1 (rightR ||| rightW) →
      let x := s.fum fum.val
      let g : FumProgram :=
        { part := s.cur.part, tid := s.curTid, gen := s.ctx.gen, shadow := s.cur.shadow, uid := s.ctx.uid, pc := s.ctx.pc, asid := s.asid, h := h, bound := s.nextAccess, pseg := s.seg ps,
          bseg := s.seg bs, poff := (s.val a).toInt.toNat, boff := (s.val b).toInt.toNat, chunk := chunk.toNat, nrank := x.nrank.toNat,
          rank := x.rank.toNat }
      let refused (c : Nat) : State :=
        (((s.consume [a, b]).write d (BitVec.ofNat 64 (c * 2 ^ 60 + x.seq.toNat * 2 ^ 16 + fum.val))).advance 12).endWalks
      (x.owner.toNat ≠ s.cur.part → exec (.cstart h d a b ps bs fum chunk) s = .next (refused 3)) ∧
      (x.owner.toNat = s.cur.part → x.state ≠ .up → exec (.cstart h d a b ps bs fum chunk) s = .next (refused 2)) ∧
      (x.owner.toNat = s.cur.part → x.state = .up → x.program.isSome = true → exec (.cstart h d a b ps bs fum chunk) s = .next (refused 1)) ∧
      (x.owner.toNat = s.cur.part → x.state = .up → x.program = none → exec (.cstart h d a b ps bs fum chunk) s =
        .next (((((s.modFum fum.val fun y => { y with program := some g, seq := x.seq + 1 }).consume [a, b]).write d
          (BitVec.ofNat 64 ((x.seq + 1).toNat * 2 ^ 16 + fum.val))).advance 12).endWalks))) ∧
    (Reads s [a] → Takes s d →
      let v := (s.val a).toNat
      let x := s.fum (v % 2 ^ 16)
      let latest : Prop := v = x.seq.toNat * 2 ^ 16 + v % 2 ^ 16
      let answer (c : Nat) : Prop := exec (.cwait d a) s =
        .next ((((s.recordDet s.cur.part 8 s.ctx.pc).consume [a]).write d (BitVec.ofNat 64 c)).advance 4).endWalks
      (8 ≤ v % 2 ^ 16 → answer 5) ∧
      (v % 2 ^ 16 < 8 →
        (s.ctx.phase = .fresh → ¬latest → answer 5) ∧
        ((latest ∧ x.program = none ∨ ¬latest ∧ s.ctx.phase ≠ .fresh) → answer (x.ended.getD (v / 2 ^ 16) 5)) ∧
        (latest → x.program ≠ none → exec (.cwait d a) s = .next
          ((s.modCtx fun c => { c with phase := .asked 0 }).endWalks.park (.program (v % 2 ^ 16) (v / 2 ^ 16)))))) ∧
    (∀ g, (s.fum l).program = some g → g.stalled = none → g.loaded = false → s.acquireDone g.part g.tid g.bound g.shadow g.h = true →
      State.inSegment g.pseg g.poff 16 rightR = false → exec (.send l) s = .next (s.endProgram l 2)) ∧
    (∀ g, (s.fum l).program = some g → g.stalled = none → g.loaded = false → s.acquireDone g.part g.tid g.bound g.shadow g.h = true →
      exec (.send l) s = .next (State.loadSteps l g 256 s 0 [])) ∧
    (∀ g fuel i done,
      let off := g.poff + 16 * i
      let load := State.loadSteps l g (fuel + 1) s i done
      State.loadSteps l g 0 s i done = s.endProgram l 4 ∧
      (State.inSegment g.pseg off 16 rightR = false → load = s.endProgram l 2) ∧
      (State.inSegment g.pseg off 16 rightR = true →
        ∀ u r, s.engineRead (State.fumReader l g 0 false) g.pseg off 16 = (u, r) →
          (r = .held → load = u) ∧ (∀ k va, r = .fault k va → load = u.stallProgram l g 4 k va) ∧
          (∀ m p, r = .bytes m (some p) → load = u.endProgram l 2) ∧
          (∀ m, r = .bytes m none →
            let v : FumStep := BitVec.ofNat 128 (natOfBytes m)
            let bad : Prop := 6 < stepOp v ∨ bitsOf v.toNat 79 78 = 3 ∨ bitsOf v.toNat 77 48 ≠ 0 ∨ (stepOp v = 5 ∧ bitsOf v.toNat 31 16 ≠ 0)
            (bad → load = u.endProgram l 4) ∧
            (¬bad → stepOp v = 6 → load =
              (u.useFetched g.part (.fumarole l) 0).modProgram l fun g => { g with steps := done ++ [v], loaded := true }) ∧
            (¬bad → stepOp v ≠ 6 → load = State.loadSteps l g fuel u (i + 1) (done ++ [v]))))) ∧
    performInput (.acknowledge l) s = .next (s.modFum l fun x => { x with awaiting := x.awaiting.drop 1 }) ∧
    (∀ g a b (next : State → State), State.fumLines l g a b next s [] = next s ∧
      ∀ va n rest u r, s.translateNow (.fumarole l) g.part (State.fumQuad l) g.tid g.asid (va % 2 ^ 52) = (u, r) →
        (r = .error .held → State.fumLines l g a b next s ((va, n) :: rest) = u) ∧
        (∀ k, r = .error (.fault k) → State.fumLines l g a b next s ((va, n) :: rest) = u.stallProgram l g 5 k (va % 2 ^ 52)) ∧
        (∀ x, r = .ok x → State.fumLines l g a b next s ((va, n) :: rest) = State.fumLines l g a b next
          ((u.engineWrite (.fumarole l) g.part (State.fumQuad l) g.tid g.uid g.asid g.pc x (va % 2 ^ 52) ((b.drop (va - a)).take n)
            false !g.h.rel).modProgram l fun g => { g with written := g.written + 1 }) rest)) ∧
    (∀ g v, (s.fum l).program = some g → g.stalled = none → g.loaded = true → g.steps[g.at_]? = some v →
      let o := s.stepOffset l g v
      let n := stepBlocks v
      let reads (t : State) (leaving : Bool) (off : Nat) (next : State → List Byte → Out → Prop) (out : Out) : Prop :=
        (State.inSegment g.bseg off (64 * n) rightR = false → out = .next (t.endProgram l 2)) ∧
        (State.inSegment g.bseg off (64 * n) rightR = true →
          ∀ u r, t.engineRead (State.fumReader l g 1 leaving) g.bseg off (64 * n) = (u, r) →
            (r = .held → out = .next u) ∧
            (∀ m, r = .bytes m none → next u m out) ∧
            (∀ m a, r = .bytes m (some a) → out = .next (u.endProgram l 2)) ∧
            (∀ k va, r = .fault k va → out = .next (u.stallProgram l g 4 k va)))
      let stores (t : State) (off : Nat) (bytes : List Byte) (next : State → State) (out : Out) : Prop :=
        let addr := g.bseg.addr off
        let pieces := State.linePieces (bytes.length / 64 + 2) addr bytes.length
        (State.inSegment g.bseg off bytes.length rightW = false → out = .next (t.endProgram l 2)) ∧
        (State.inSegment g.bseg off bytes.length rightW = true → g.bseg.isK = true →
          t.bankTaken g.part (coreOf g.tid) addr bytes.length = true → out = .next t) ∧
        (State.inSegment g.bseg off bytes.length rightW = true → g.bseg.isK = true →
          t.bankTaken g.part (coreOf g.tid) addr bytes.length = false → out = .next (next (pieces.foldl (fun t x =>
          t.engineSpad g.part g.tid x.1 ((bytes.drop (x.1 - addr)).take x.2) false g.pc) t))) ∧
        (State.inSegment g.bseg off bytes.length rightW = true → g.bseg.isK = false →
          out = .next (State.fumLines l g addr bytes next t (pieces.drop g.written)))
      (stepOp v = 0 → (s.fum (stepOut v)).state = .up →
        reads o.1 true o.2 (fun u m out => out = .next ((u.sendBlocks l (stepOut v) (blocksOf n (wireBytes m))).goStep l (g.at_ + 1)))
          (exec (.send l) s)) ∧
      (stepOp v = 4 → s.fumWrites l = false → s.unacknowledged l = false → exec (.wait l) s = .next (s.goStep l (g.at_ + 1))) ∧
      (stepOp v = 4 → (s.fumWrites l = true ∨ s.unacknowledged l = true) → exec (.wait l) s = .next s) ∧
      (stepOp v = 5 →
        let c := g.counters.getD (stepCtr v) 0 + 1
        (c < bitsOf v.toNat 47 32 → exec (.loopStep l) s =
          .next ((s.modProgram l fun g => { g with counters := g.counters.set (stepCtr v) c }).goStep l (bitsOf v.toNat 15 0))) ∧
        (bitsOf v.toNat 47 32 ≤ c → exec (.loopStep l) s =
          .next ((s.modProgram l fun g => { g with counters := g.counters.set (stepCtr v) 0 }).goStep l (g.at_ + 1)))) ∧
      (stepOp v = 6 → s.releaseDone g.part g.tid (.fumarole l) g.h = true → exec (.endStep l) s = .next (s.endProgram l 0)) ∧
      (∀ x, x ≠ [] → x.length ≠ n → g.received = none → (s.fum (stepIn v)).state = .up →
        let t := s.modProgram l fun g => { g with received := some x }
        (stepOp v = 1 → exec (.recv l x) s = .next (t.endProgram l 3)) ∧
        (stepOp v = 2 → (s.fum (stepOut v)).state = .up → exec (.rrs l x) s = .next (t.endProgram l 3)) ∧
        (stepOp v = 3 → (s.fum (stepOut v)).state = .up → exec (.copy l x) s = .next (t.endProgram l 3))) ∧
      (∀ x blocks t, x.length = n →
        (g.received = some x ∧ blocks = [] ∧ t = s ∨
          g.received = none ∧ blocks = x ∧ (s.fum (stepIn v)).state = .up ∧
            t = s.modProgram l fun g => { g with received := some x }) →
        let r := t.stepOffset l g v
        let bytes := wireBytes (x.flatMap block64)
        (stepOp v = 1 → stores r.1 r.2 bytes (fun u => u.goStep l (g.at_ + 1)) (exec (.recv l blocks) s)) ∧
        (stepOp v = 3 → (s.fum (stepOut v)).state = .up →
          stores r.1 r.2 bytes (fun u => (u.sendBlocks l (stepOut v) (blocksOf n bytes)).goStep l (g.at_ + 1))
            (exec (.copy l blocks) s)) ∧
        (stepOp v = 2 → (s.fum (stepOut v)).state = .up → reads r.1 false r.2 (fun u m out =>
          let y := sumBf16 (halves bytes) (halves m)
          let done (w : State) : State :=
            ((w.modProgram l fun g => { g with flags := g.flags ||| y.2 }).sendBlocks l (stepOut v)
              (blocksOf n (bytesOfHalves y.1))).goStep l (g.at_ + 1)
          (v.getLsbD 115 = false → out = .next (done u)) ∧
          (v.getLsbD 115 = true → stores u r.2 (bytesOfHalves y.1) done out)) (exec (.rrs l blocks) s)))) ∧
    (∀ g, (s.fum l).program = some g →
      let t := s.endProgram l 0
      (t.fum l).program = none ∧ (t.fum l).ended.getD (s.fum l).seq.toNat 5 = 0 ∧
      (g.orphan = false → (s.threadCtx g.part g.tid).gen = g.gen → (s.threadCtx g.part g.tid).uid = g.uid →
        (t.threadCtx g.part g.tid).flags = (s.threadCtx g.part g.tid).flags ||| g.flags) ∧
      ((g.orphan = true ∨ (s.threadCtx g.part g.tid).gen ≠ g.gen ∨ (s.threadCtx g.part g.tid).uid ≠ g.uid) →
        (t.threadCtx g.part g.tid).flags = (s.threadCtx g.part g.tid).flags))

/-- Power-on and a firmware reset leave the machine as reset does, with the image in flash and the raised minimum kept, and VERIFY
next. Verification goes to START with an image that R385 accepts, and else to RECOVERY, where the host stages an image. START leaves
memory zero and the hub running with hop counts inside R92's limits, or failed. A machine error halts every context of its core, and
a die at 115 °C every core of the partitions that hold quads, one after another as a machine error does, and powers the calderas down; pacing changes nothing else. Register writes act as R372 says, and not where the hub is in RECOVERY;
error counters are cleared by the physical function alone (R20, R108, R372, R384 to R386, R391, R394, R398). The model's choices: what a
reset of the hub leaves (log 73, DEDUCED), that a FREE context of a halted core is HALTED too (log 68, DEDUCED), and that a ring
register's write outside the function's memory is discarded (log 71, DEDUCED). -/
def Obligations.BootAndErrors : Prop :=
  ∀ (s : State) (f k p core : Nat) (value : Word64) (image : List Byte),
    (∃ t, exec .powerOn s = .next t ∧ exec (.fwReset 0) s = .next t ∧ t.firmware.state = .verify ∧ t.firmware.flash = s.firmware.flash ∧
      t.firmware.svnRaised = s.firmware.svnRaised ∧ t.mem = [] ∧ t.parts = State.reset.parts ∧ t.homes = State.reset.homes ∧
      t.windows = State.reset.windows ∧ t.funcs = State.reset.funcs ∧ t.fumaroles = State.reset.fumaroles) ∧
    (f ≠ 0 → exec (.fwReset f) s = .next s ∧ exec (.fwStage f value image) s = .next s ∧ exec (.softerrClear f k) s = .next s) ∧
    (s.firmware.state = .verify → exec .fwVerifyDone s = .next
      (if s.imageOk s.imageInFlash = true then s.acceptImage s.imageInFlash .start
       else { s with firmware := { s.firmware with state := .recovery } })) ∧
    (s.firmware.state = .recovery →
      (value.getLsbD 9 = true → exec (.fwStage 0 value image) s = .next
        { s with firmware := { s.firmware with buffer := bitsOf value.toNat 63 12 * 4096, staged := image, state := .verifyStaged } }) ∧
      (value.getLsbD 9 = false → exec (.fwStage 0 value image) s = .next
        { s with firmware := { s.firmware with buffer := bitsOf value.toNat 63 12 * 4096 } })) ∧
    (s.firmware.state ≠ .recovery → exec (.fwStage 0 value image) s = .next s) ∧
    (s.firmware.state = .start →
      (∃ t, exec (.bootStartDone []) s = .next t ∧ t.firmware.state = .run ∧ t.mem = [] ∧ t.firmware.hops1 ≤ t.firmware.hops2 ∧
        t.firmware.hops2 ≤ 62) ∧
      (∃ t, exec (.bootStartDone [k]) s = .next t ∧ t.firmware.state = .failed ∧ (f ≠ 0 → (t.func f).en = false))) ∧
    (s.firmware.state ≠ .recovery → ∃ t, exec (.softerrClear 0 k) s = .next t ∧ (t.caldera k).softErr.corrected = 0 ∧ (t.caldera k).softErr.uncorrectable = 0 ∧
      (t.caldera k).softErr.reruns = 0 ∧ t.mem = s.mem) ∧
    exec .powerPacing s = .next { s with power := { s.power with pacing := true } } ∧
    exec .thermalPacing s = .next { s with power := { s.power with thermal := true } } ∧
    exec .pacingEnd s = .next { s with power := { s.power with pacing := false, thermal := false } } ∧
    (let t := s.runningCores.foldl (fun u c => u.haltCore c.1 c.2) s
     exec .thermalHalt s = .next { t with power := { t.power with down := true } }) ∧
    (∀ P q c, (p, P) ∈ s.parts → P.holdsQuads = true → q ∈ shapeQuads P.shape → c < 4 → (p, q * 4 + c) ∈ s.runningCores) ∧
    exec (.machineError p core) s = .next (s.haltCore p core) ∧
    (∀ n, n < 16 → ((s.haltCore p core).context p core n).state = .halted) ∧
    (s.firmware.state ≠ .recovery →
      (s.ringOk f value = true → exec (.registerWrite f 0x10 value) s = .next (s.modFunc f fun x => { x with ansq := value }) ∧
        exec (.registerWrite f 0x18 value) s = .next (s.modFunc f fun x => { x with eventq := value })) ∧
      (s.ringOk f value = false → exec (.registerWrite f 0x08 value) s = .next s ∧ exec (.registerWrite f 0x10 value) s = .next s) ∧
      (∃ t, exec (.registerWrite f 0x20 value) s = .next t ∧ (t.func f).debug = value.getLsbD 0 ∧ (t.part f).preempt = value.getLsbD 1)) ∧
    (s.firmware.state = .recovery → f ≠ 0 → ∀ o, exec (.registerWrite f o value) s = .next s)

/-- After reset the hub is in RESET, no partition runs and no function is enabled; every context is FREE with every register zero
and full, no flag and no trap in progress; every byte of memory and of every scratchpad reads zero, memory is in its canonical form,
and no access is in flight (R18, R104, R386, R389, R391). The program counter, the vector and the trap registers are zero: the
values of log 1, which the spec does not give for a context that was never filled; that memory reads zero before START zeroes it
is the model's choice too (log 2). -/
def Obligations.ResetValues : Prop :=
  MemoryOk State.reset ∧ State.reset.firmware.state = .reset ∧ State.reset.accesses = [] ∧ State.reset.power.down = false ∧
  (∀ a, Memory.read State.reset.mem a = 0) ∧ (∀ a, State.reset.isPoisoned a = false) ∧
  (∀ p, (State.reset.part p).run = .idle ∧ (State.reset.func p).en = false) ∧
  (∀ l, (State.reset.fum l).state = .down) ∧
  (∀ p core a, Memory.read (State.reset.core p core).spad a = 0) ∧
  (∀ p core n, let c := State.reset.context p core n
    c.state = .free ∧ c.flags = 0 ∧ c.inh = false ∧ c.wake = false ∧ c.rv = false ∧ c.pc = 0 ∧ c.tvec = 0 ∧ c.tepc = 0 ∧ c.tcause = 0 ∧
    c.tval = 0 ∧ (∀ r : Reg, c.regs.get r = { val := 0, full := true, armed := false, poison := none }) ∧
    (∀ g : Seg, (c.segs.get g).base = 0 ∧ (c.segs.get g).limit = 0 ∧ (c.segs.get g).rights = 0))

/-- The spec's own worked encodings decode to the instructions that they stand for (R123, R126, R129 to R132, R135 to R137, R171,
R174, R178, R191, R207, R214, R248, R273, R288). -/
def Obligations.WordsDecode : Prop :=
  decodeTableWord 32 0x0A064E00 = some (.sub .w64 7 2 3) ∧
  decodeTableWord 32 0xA7242800 = some (.sel .w64 4 1 2 9) ∧
  decodeTableWord 96 0x00000000000F42401E004205 = some (.divuLit .w64 1 2 1000000) ∧
  decodeTableWord 32 0x201C661C = some (.shrImm .w32 3 3 7) ∧
  decodeTableWord 32 0x7F42A420 = some (.sltuImm .w64 2 5 2000) ∧
  decodeTableWord 32 0x0B222C24 = some (.bfx .w64 6 1 11 8) ∧
  decodeTableWord 96 0x0000123456789ABC00000629 = some (.moviLit 3 0x123456789ABC) ∧
  decodeTableWord 32 0x0102642C = some (.saddr 2 3 64) ∧
  decodeTableWord 32 0xFFCA8848 = some (.bltu 4 5 0x7FE) ∧
  decodeTableWord 32 0x08007E50 = some (.jalr 15 3) ∧
  decodeTableWord 32 0xFFFC8054 = some (.loop 4 0x7FFE) ∧
  decodeTableWord 32 0x11842A98 = some (.segset 5 1 2 3) ∧
  decodeTableWord 32 0x0412C890 = some (.gath .f32 4 2 6 9) ∧
  decodeTableWord 32 0x090846C0 = some (.amo .add .w64 1 3 2 4) ∧
  decodeTableWord 32 0x066004D8 = some (.bar 2 true true 3) ∧
  decodeTableWord 32 0x044060E4 = some (.migaL 2 3) ∧
  decodeTableWord 32 0x0000A5A0 = some (.launch 2 5) ∧
  decodeTableWord 32 0x00604360 = some (.tour 3 1 2) ∧
  decodeTableWord 32 0xC64A2900 = some (.vfma .bf16 20 17 5) ∧
  decodeTableWord 32 0xFFF4AA0B = none

/-- A step makes the one move there is, or one of several by a free choice (log 4); a deterministic partition chooses among its own
moves in the same way. When that move is a thread's issue, outside a repetition, the step is `exec` of the instruction that the fetched words decode to, in the state after the fetch with the issue noted;
words that are no instruction run `illegalInstruction`. A fetched word is the word that memory holds at the translation of its
address, where the code segment allows the fetch, the line is not poisoned and no stale copy of it can be seen; a fetch outside the
code segment, below its base, beyond its limit or without its right X, takes the segment trap with the address of the word (R64 to
R66, R113). -/
def Obligations.StepRunsDecoded : Prop :=
  (∀ (s : State) (m : Move), moves s = [m] → step s = perform m s) ∧
  (∀ (s : State) (m n : Move) (l : List Move), moves s = m :: n :: l →
    step s = perform ((m :: n :: l).getD (s.choose (l.length + 2)).2 .tick) (s.choose (l.length + 2)).1) ∧
  (∀ (s : State) (p : Nat) (m : Move), (partMoves s p (s.part p)).1 = [m] → perform (.within p) s = performMove m s) ∧
  (∀ (s : State) (p : Nat) (m n : Move) (l : List Move), (partMoves s p (s.part p)).1 = m :: n :: l →
    perform (.within p) s =
      performMove ((m :: n :: l).getD (s.chooseFor p (l.length + 2)).2 (.rest p)) (s.chooseFor p (l.length + 2)).1) ∧
  (∀ (s : State) (p core n : Nat) (shadow : Bool),
    let u := s.beginIssue p core n shadow
    let m : Move := .issue p core n shadow
    perform m s = performMove m s ∧
    (∀ t ws i rest, u.ctx.rep = none → u.fetchAt u.ctx.pc = .ok (t, ws) → decodeWords ws = .ok (i, rest) →
      performMove m s = exec i t ∧ (moves s = [m] → step s = exec i t)) ∧
    (∀ t ws r, u.ctx.rep = none → u.fetchAt u.ctx.pc = .ok (t, ws) → decodeWords ws = .error r →
      performMove m s = exec (.illegalInstruction (ws.headD 0)) t ∧
      (moves s = [m] → step s = exec (.illegalInstruction (ws.headD 0)) t)) ∧
    (∀ e, u.ctx.rep = none → u.fetchAt u.ctx.pc = .error e →
      performMove m s = .next (u.settle (.error e)) ∧ (moves s = [m] → step s = .next (u.settle (.error e))))) ∧
  (∀ (s : State) (pc : BitVec 50), s.ctx.code = none →
    let a := pc.toNat * 4
    (InSegment (s.seg 7) ((a : Int) - (s.seg 7).base.toNat) 4 rightX → Placed s a 4 false →
      let t := (s.usePart a).1
      let pa := (s.usePart a).2.pa
      t.isPoisoned pa = false → t.stale.find? pa = none →
      s.fetchWord pc = .ok (t, BitVec.ofNat 32 (natOfBytes (t.readMem pa 4)))) ∧
    (¬ InSegment (s.seg 7) ((a : Int) - (s.seg 7).base.toNat) 4 rightX → s.fetchWord pc = .error (.trap 3 (BitVec.ofNat 64 a))))

/-- Every constructor but the steps of the other agents, which `agentStep` names, has an encoding, of one to five words, and those have none.
For every instruction that has one, with every operand at every value that is well formed, and whatever words follow,
the decoder reads that instruction from its words and leaves the words that follow. Conversely, an instruction that the decoder
reads from any words is well formed, and is no step of another agent (R48 to R63). -/
def Obligations.DecodeOfEncode : Prop :=
  (∀ i : Instr, (Says.agentStep i = false → 1 ≤ (encode i).length ∧ (encode i).length ≤ 5) ∧ (Says.agentStep i = true → encode i = [])) ∧
  (∀ (i : Instr) (rest : List Word32), i.wf = true → Says.agentStep i = false → (∀ w, i ≠ .illegalInstruction w) →
    decodeWords (encode i ++ rest) = .ok (i, rest)) ∧
  (∀ ws i rest, decodeWords ws = .ok (i, rest) → i.wf = true ∧ Says.agentStep i = false ∧ ∃ used, ws = used ++ rest)

/-- Whatever the state, the move and the instruction: if the module's memory is in its canonical form (addresses strictly rising, no
listed byte zero) and the step answers a next state, memory is in its canonical form there. -/
def Obligations.MemoryStaysCanonical : Prop :=
  ∀ (s t : State), MemoryOk s → step s = .next t → MemoryOk t

/-- Every instruction and every step of another agent answers a next state in every state, but for an access that is applied at an
address outside the module's memory, which no translation of the spec yields: it stops the machine with that address (log 118: the model's choice). -/
def Obligations.EverythingRuns : Prop :=
  ∀ (i : Instr) (s : State),
    (∃ t, exec i s = .next t) ∨
    (∃ id x, i = .accessApplication id ∧ s.accesses.find? id = some x ∧ memBytes < x.pa + x.size ∧
      exec i s = .fault (.physicalAddress x.pa))

/-- The frames of the forms that the other statements name. Of a register instruction whose registers are mapped to no channel: the
destination is full with its value, the flags gain its flags, the program counter goes on, and every other register, segment,
special register, byte of memory, access and context is as before. Of an access issued: memory, the flags and every register that
is no destination are as before, its destinations are empty, and one access is in flight that was not. Of a vector instruction:
memory, general registers and flags are as before until its result arrives (R106, R121, R172, R287). -/
def Obligations.InstructionFrames : Prop :=
  ∀ (s : State) (len : Nat) (d : Reg) (srcs : List Reg), (∀ r ∈ srcs, s.chan r = none) →
    (∀ (v : Word64) (f : Flags), s.chan d = none →
      let t := wrote s len d srcs v f
      (s.ctx.rep = none → t.ctx = { s.ctx with
        regs := s.ctx.regs.set d { val := v, full := true, armed := false, poison := none }
        flags := s.ctx.flags ||| f
        pc := s.ctx.pc + BitVec.ofNat 50 (len / 4), phase := .fresh, reply := none }) ∧
      t.reg d = { val := v, full := true, armed := false, poison := none } ∧ (∀ r, r ≠ d → t.reg r = s.reg r) ∧
      t.ctx.flags = s.ctx.flags ||| f ∧ t.ctx.segs = s.ctx.segs ∧ t.ctx.inh = s.ctx.inh ∧ t.ctx.tepc = s.ctx.tepc ∧
      t.mem = s.mem ∧ t.poison = s.poison ∧ t.accesses = s.accesses ∧ t.homes = s.homes ∧ t.calderas = s.calderas ∧
      t.funcs = s.funcs ∧ t.windows = s.windows ∧ t.fumaroles = s.fumaroles ∧ t.firmware = s.firmware ∧
      (∀ p c, (t.core p c).spad = (s.core p c).spad ∧ (t.core p c).acc = (s.core p c).acc ∧ (t.core p c).vregs = (s.core p c).vregs ∧
        (t.core p c).slots = (s.core p c).slots) ∧
      ∀ p c n, (p, c, n) ≠ (s.cur.part, s.cur.core, s.cur.ctx) → t.context p c n = s.context p c n) ∧
    (∀ (dsts : List Reg) (kind : AccKind) (va n : Nat) (rel : Option Scope) (acq : Bool),
      let t := issued s len srcs dsts kind va n rel acq
      t.mem = s.mem ∧ t.poison = s.poison ∧ t.ctx.flags = s.ctx.flags ∧ t.ctx.segs = s.ctx.segs ∧
      (∀ r, r ∈ dsts → (t.reg r).full = false ∧ (t.reg r).armed = false ∧ (t.reg r).poison = none) ∧
      (∀ r, r ∉ dsts → t.reg r = s.reg r) ∧
      (∃ x, t.accesses.find? s.nextAccess = some x ∧ (AsIssued kind → x.kind = kind) ∧ x.tid = s.curTid ∧ x.pa = (s.usePart va).2.pa ∧ x.size = n) ∧
      (∀ k, k ≠ s.nextAccess → t.accesses.find? k = s.accesses.find? k) ∧
      ∀ p c m, (p, c, m) ≠ (s.cur.part, s.cur.core, s.cur.ctx) → t.context p c m = s.context p c m) ∧
    (∀ (v : VReg) (r : BitVec 512 × Flags) (latency : Nat),
      let t := vectored s len v srcs r latency
      t.mem = s.mem ∧ t.accesses = s.accesses ∧ t.ctx.flags = s.ctx.flags ∧ (∀ q, t.reg q = s.reg q) ∧
      (t.vecReg v).full = false ∧
      ∀ p c m, (p, c, m) ≠ (s.cur.part, s.cur.core, s.cur.ctx) → t.context p c m = s.context p c m)
end

