-- ==== Sys2Proof/Laws/Map.lean ====
section
/-!
SUPPORT. Laws of the sparse map: reading after `put` and `del`, and the sorted form that both keep.
-/
namespace Sys2Proof.SMap

variable {β : Type}

@[simp] theorem find?_nil (k : Nat) : find? ([] : SMap β) k = none := rfl

/-- Reading a key just put gives the value. -/
@[simp] theorem find?_put_same (m : SMap β) (k : Nat) (v : β) : (m.put k v).find? k = some v := by
  induction m with
  | nil => simp [put, find?]
  | cons x t ih =>
    obtain ⟨k', v'⟩ := x
    simp only [put]
    split
    · simp [find?]
    · split
      · simp [find?]
      · simp [find?, *]

/-- Putting a key leaves every other key as it reads. -/
theorem find?_put_ne (m : SMap β) {k j : Nat} (v : β) (h : j ≠ k) : (m.put k v).find? j = m.find? j := by
  induction m with
  | nil => simp [put, find?, h]
  | cons x t ih =>
    obtain ⟨k', v'⟩ := x
    simp only [put]
    split
    · simp [find?, h]
    · split
      · rename_i _ h2
        subst h2
        simp [find?, h]
      · simp only [find?]
        split
        · rfl
        · exact ih

@[simp] theorem getD_put_same (m : SMap β) (k : Nat) (v d : β) : (m.put k v).getD k d = v := by simp [getD]

theorem getD_put_ne (m : SMap β) {k j : Nat} (v d : β) (h : j ≠ k) : (m.put k v).getD j d = m.getD j d := by
  simp [getD, find?_put_ne m v h]

/-- A reading of a map after `put`. -/
theorem getD_put (m : SMap β) (k j : Nat) (v d : β) : (m.put k v).getD j d = if j = k then v else m.getD j d := by
  split
  · rename_i h; subst h; simp
  · rename_i h; exact getD_put_ne m v d h

/-- A later put of the same key replaces the earlier one. -/
@[simp] theorem put_put (m : SMap β) (k : Nat) (v w : β) : (m.put k v).put k w = m.put k w := by
  induction m with
  | nil => simp [put]
  | cons x t ih =>
    obtain ⟨k', v'⟩ := x
    simp only [put]
    split
    · simp [put]
    · split
      · simp [put]
      · simp [put, *]

/-- Deleting a key leaves every other key as it reads. -/
theorem find?_del_ne (m : SMap β) {k j : Nat} (h : j ≠ k) : (m.del k).find? j = m.find? j := by
  induction m with
  | nil => rfl
  | cons x t ih =>
    obtain ⟨k', v'⟩ := x
    simp only [del]
    split
    · rename_i h2
      subst h2
      simp [find?, h]
    · simp only [find?, ih]

/-- Reading after a change of every listed value. -/
theorem find?_mapVal (f : Nat → β → β) (m : SMap β) (k : Nat) : (m.mapVal f).find? k = (m.find? k).map (f k) := by
  induction m with
  | nil => rfl
  | cons x t ih =>
    obtain ⟨k', v'⟩ := x
    simp only [mapVal, find?]
    split
    · rename_i h; subst h; rfl
    · exact ih

/-! ## The sorted form -/

/-- The first key of a map, if there is one, lies above a bound. -/
def above (n : Nat) : SMap β → Bool
  | [] => true
  | (k, _) :: _ => decide (n < k)

theorem sorted_cons (k : Nat) (v : β) (t : SMap β) : sorted ((k, v) :: t) = (above k t && sorted t) := by
  cases t with
  | nil => rfl
  | cons x t => rfl

theorem above_put (m : SMap β) (n k : Nat) (v : β) (h : n < k) (hm : above n m = true) : above n (m.put k v) = true := by
  cases m with
  | nil => simpa [put, above] using h
  | cons x t =>
    obtain ⟨k', v'⟩ := x
    simp only [put]
    split
    · simpa [above] using h
    · split
      · simpa [above] using h
      · simpa [above] using hm

/-- `put` keeps keys strictly rising. -/
theorem sorted_put (m : SMap β) (k : Nat) (v : β) (h : sorted m = true) : sorted (m.put k v) = true := by
  induction m with
  | nil => rfl
  | cons x t ih =>
    obtain ⟨k', v'⟩ := x
    rw [sorted_cons] at h
    simp only [Bool.and_eq_true] at h
    simp only [put]
    split
    · rename_i h1
      rw [sorted_cons, Bool.and_eq_true]
      exact ⟨by simpa [above] using h1, by rw [sorted_cons]; simp [h.1, h.2]⟩
    · split
      · rename_i h2
        subst h2
        rw [sorted_cons]
        simp [h.1, h.2]
      · rename_i h1 h2
        rw [sorted_cons]
        simp only [Bool.and_eq_true]
        exact ⟨above_put t k' k v (by omega) h.1, ih h.2⟩

end Sys2Proof.SMap
end

