-- ==== Sys2Proof/Laws/Memory.lean ====
section
/-!
SUPPORT. Laws of physical memory: reading after a write, and the canonical form that every memory operation keeps.
-/
namespace Sys2Proof.Machine.Memory

/-- The first listed address, if there is one, lies above a bound. -/
def above (n : Nat) : List Host.Cell → Bool
  | [] => true
  | (a, _) :: _ => decide (n < a)

theorem wf_cons (a : Nat) (b : Byte) (t : List Host.Cell) :
    wf ((a, b) :: t) = (decide (b ≠ 0) && (above a t && wf t)) := by
  cases t with
  | nil => simp [wf, above]
  | cons x t => simp [wf, above, Bool.and_assoc]

/-- An address below the first listed one reads 0. -/
theorem read_below (m : List Host.Cell) {a n : Nat} (h : above n m = true) (ha : a ≤ n) : read m a = 0 := by
  cases m with
  | nil => rfl
  | cons x t =>
    obtain ⟨a', b'⟩ := x
    simp only [above, decide_eq_true_eq] at h
    simp only [read]
    split
    · omega
    · split
      · rfl
      · omega

theorem above_write (m : List Host.Cell) (n a : Nat) (b : Byte) (h : n < a) (hm : above n m = true) (hw : wf m = true) :
    above n (write m a b) = true := by
  cases m with
  | nil => simp only [write]; split <;> simp [above, h]
  | cons x t =>
    obtain ⟨a', b'⟩ := x
    rw [wf_cons] at hw
    simp only [Bool.and_eq_true] at hw
    simp only [above, decide_eq_true_eq] at hm
    simp only [write]
    split
    · split <;> simp [above, h, hm]
    · split
      · split
        · cases t with
          | nil => rfl
          | cons y t =>
            obtain ⟨a2, b2⟩ := y
            have := hw.2.1
            simp only [above, decide_eq_true_eq] at this ⊢
            omega
        · simp [above, h]
      · simp [above, hm]

/-- A write keeps the canonical form. -/
theorem wf_write (m : List Host.Cell) (a : Nat) (b : Byte) (h : wf m = true) : wf (write m a b) = true := by
  induction m with
  | nil =>
    simp only [write]
    split
    · rfl
    · rename_i hb; simpa [wf] using hb
  | cons x t ih =>
    obtain ⟨a', b'⟩ := x
    have h' := h
    rw [wf_cons] at h'
    simp only [Bool.and_eq_true] at h'
    simp only [write]
    split
    · rename_i h1
      split
      · exact h
      · rename_i hb
        rw [wf_cons]
        simp only [Bool.and_eq_true, decide_eq_true_eq]
        exact ⟨hb, by simpa [above] using h1, h⟩
    · split
      · split
        · exact h'.2.2
        · rename_i h2 hb
          subst h2
          rw [wf_cons]
          simp only [Bool.and_eq_true, decide_eq_true_eq]
          exact ⟨hb, h'.2.1, h'.2.2⟩
      · rename_i h1 h2
        rw [wf_cons]
        simp only [Bool.and_eq_true]
        exact ⟨h'.1, above_write t a' a b (by omega) h'.2.1 h'.2.2, ih h'.2.2⟩

/-- Writes in a row keep the canonical form. -/
theorem wf_writeList (bs : List Byte) : ∀ (m : List Host.Cell) (a : Nat), wf m = true → wf (writeList m a bs) = true := by
  induction bs with
  | nil => intro m a h; exact h
  | cons b t ih => intro m a h; exact ih _ _ (wf_write m a b h)

/-- Reading the byte that was written gives it. -/
theorem read_write_same (m : List Host.Cell) (a : Nat) (b : Byte) (h : wf m = true) : read (write m a b) a = b := by
  induction m with
  | nil =>
    simp only [write]
    split
    · rename_i hb; simp [read, hb]
    · simp [read]
  | cons x t ih =>
    obtain ⟨a', b'⟩ := x
    have h' := h
    rw [wf_cons] at h'
    simp only [Bool.and_eq_true] at h'
    simp only [write]
    split
    · rename_i h1
      split
      · rename_i hb
        simp only [read]
        split
        · omega
        · simp [hb]
      · simp [read]
    · split
      · rename_i h1 h2
        split
        · rename_i hb
          rw [hb, h2]
          exact read_below t h'.2.1 (Nat.le_refl _)
        · simp [read]
      · rename_i h1 h2
        simp only [read, h2, if_false, h1]
        exact ih h'.2.2

/-- A write leaves every other byte as it reads. -/
theorem read_write_ne (m : List Host.Cell) {a c : Nat} (b : Byte) (h : wf m = true) (hc : c ≠ a) :
    read (write m a b) c = read m c := by
  induction m with
  | nil =>
    simp only [write]
    split
    · rfl
    · simp only [read, if_neg hc]; split <;> rfl
  | cons x t ih =>
    obtain ⟨a', b'⟩ := x
    have h' := h
    rw [wf_cons] at h'
    simp only [Bool.and_eq_true] at h'
    simp only [write]
    split
    · rename_i h1
      split
      · rfl
      · simp only [read, if_neg hc]
        split
        · split
          · omega
          · simp [show c < a' by omega]
        · rfl
    · split
      · rename_i h1 h2
        subst h2
        split
        · simp only [read, if_neg hc]
          split
          · exact read_below t h'.2.1 (by omega)
          · rfl
        · simp only [read, if_neg hc]
      · simp only [read, ih h'.2.2]

/-- Writes in a row leave every byte outside their range as it reads. -/
theorem read_writeList_out (bs : List Byte) : ∀ (m : List Host.Cell) (a c : Nat), wf m = true →
    (c < a ∨ a + bs.length ≤ c) → read (writeList m a bs) c = read m c := by
  induction bs with
  | nil => intro m a c _ _; rfl
  | cons b t ih =>
    intro m a c h hc
    simp only [List.length_cons] at hc
    simp only [writeList]
    rw [ih _ (a + 1) c (wf_write m a b h) (by omega)]
    exact read_write_ne m b h (by omega)

/-- Reading back a range that was written gives its bytes. -/
theorem readList_writeList (bs : List Byte) : ∀ (m : List Host.Cell) (a : Nat), wf m = true →
    readList (writeList m a bs) a bs.length = bs := by
  induction bs with
  | nil => intro m a _; rfl
  | cons b t ih =>
    intro m a h
    simp only [writeList, List.length_cons, readList]
    rw [read_writeList_out t _ (a + 1) a (wf_write m a b h) (by omega), read_write_same m a b h,
      ih (write m a b) (a + 1) (wf_write m a b h)]

/-- As many bytes are read as were asked for. -/
@[simp] theorem readList_length (m : List Host.Cell) (n : Nat) : ∀ a, (readList m a n).length = n := by
  induction n with
  | zero => intro a; rfl
  | succ n ih => intro a; simp [readList, ih]

end Sys2Proof.Machine.Memory
end

