-- ==== Sys2Proof/Laws/State.lean ====
section
/-!
SUPPORT. What every update of a part of the state leaves as it is, one lemma per field, and what it gives back when the part
is read.
-/
namespace Sys2Proof.Machine.State

variable (s : State)

/-! ## `setPart` -/

@[simp] theorem setPart_homes (p : Nat) (x : Partition) : (s.setPart p x).homes = s.homes := rfl
@[simp] theorem setPart_calderas (p : Nat) (x : Partition) : (s.setPart p x).calderas = s.calderas := rfl
@[simp] theorem setPart_mem (p : Nat) (x : Partition) : (s.setPart p x).mem = s.mem := rfl
@[simp] theorem setPart_poison (p : Nat) (x : Partition) : (s.setPart p x).poison = s.poison := rfl
@[simp] theorem setPart_bank (p : Nat) (x : Partition) : (s.setPart p x).bank = s.bank := rfl
@[simp] theorem setPart_layouts (p : Nat) (x : Partition) : (s.setPart p x).layouts = s.layouts := rfl
@[simp] theorem setPart_checks (p : Nat) (x : Partition) : (s.setPart p x).checks = s.checks := rfl
@[simp] theorem setPart_stale (p : Nat) (x : Partition) : (s.setPart p x).stale = s.stale := rfl
@[simp] theorem setPart_retired (p : Nat) (x : Partition) : (s.setPart p x).retired = s.retired := rfl
@[simp] theorem setPart_raf (p : Nat) (x : Partition) : (s.setPart p x).raf = s.raf := rfl
@[simp] theorem setPart_accesses (p : Nat) (x : Partition) : (s.setPart p x).accesses = s.accesses := rfl
@[simp] theorem setPart_nextAccess (p : Nat) (x : Partition) : (s.setPart p x).nextAccess = s.nextAccess := rfl
@[simp] theorem setPart_nextSeq (p : Nat) (x : Partition) : (s.setPart p x).nextSeq = s.nextSeq := rfl
@[simp] theorem setPart_invalidations (p : Nat) (x : Partition) : (s.setPart p x).invalidations = s.invalidations := rfl
@[simp] theorem setPart_tenantFailures (p : Nat) (x : Partition) : (s.setPart p x).tenantFailures = s.tenantFailures := rfl
@[simp] theorem setPart_walks (p : Nat) (x : Partition) : (s.setPart p x).walks = s.walks := rfl
@[simp] theorem setPart_owner (p : Nat) (x : Partition) : (s.setPart p x).owner = s.owner := rfl
@[simp] theorem setPart_exports (p : Nat) (x : Partition) : (s.setPart p x).exports = s.exports := rfl
@[simp] theorem setPart_nextWait (p : Nat) (x : Partition) : (s.setPart p x).nextWait = s.nextWait := rfl
@[simp] theorem setPart_funcs (p : Nat) (x : Partition) : (s.setPart p x).funcs = s.funcs := rfl
@[simp] theorem setPart_windows (p : Nat) (x : Partition) : (s.setPart p x).windows = s.windows := rfl
@[simp] theorem setPart_fumaroles (p : Nat) (x : Partition) : (s.setPart p x).fumaroles = s.fumaroles := rfl
@[simp] theorem setPart_firmware (p : Nat) (x : Partition) : (s.setPart p x).firmware = s.firmware := rfl
@[simp] theorem setPart_power (p : Nat) (x : Partition) : (s.setPart p x).power = s.power := rfl
@[simp] theorem setPart_msix (p : Nat) (x : Partition) : (s.setPart p x).msix = s.msix := rfl
@[simp] theorem setPart_hostValue (p : Nat) (x : Partition) : (s.setPart p x).hostValue = s.hostValue := rfl
@[simp] theorem setPart_inputs (p : Nat) (x : Partition) : (s.setPart p x).inputs = s.inputs := rfl
@[simp] theorem setPart_clock (p : Nat) (x : Partition) : (s.setPart p x).clock = s.clock := rfl
@[simp] theorem setPart_choices (p : Nat) (x : Partition) : (s.setPart p x).choices = s.choices := rfl
@[simp] theorem setPart_cur (p : Nat) (x : Partition) : (s.setPart p x).cur = s.cur := rfl

/-! ## `modPart` -/

@[simp] theorem modPart_homes (p : Nat) (f : Partition → Partition) : (s.modPart p f).homes = s.homes := rfl
@[simp] theorem modPart_calderas (p : Nat) (f : Partition → Partition) : (s.modPart p f).calderas = s.calderas := rfl
@[simp] theorem modPart_mem (p : Nat) (f : Partition → Partition) : (s.modPart p f).mem = s.mem := rfl
@[simp] theorem modPart_poison (p : Nat) (f : Partition → Partition) : (s.modPart p f).poison = s.poison := rfl
@[simp] theorem modPart_bank (p : Nat) (f : Partition → Partition) : (s.modPart p f).bank = s.bank := rfl
@[simp] theorem modPart_layouts (p : Nat) (f : Partition → Partition) : (s.modPart p f).layouts = s.layouts := rfl
@[simp] theorem modPart_checks (p : Nat) (f : Partition → Partition) : (s.modPart p f).checks = s.checks := rfl
@[simp] theorem modPart_stale (p : Nat) (f : Partition → Partition) : (s.modPart p f).stale = s.stale := rfl
@[simp] theorem modPart_retired (p : Nat) (f : Partition → Partition) : (s.modPart p f).retired = s.retired := rfl
@[simp] theorem modPart_raf (p : Nat) (f : Partition → Partition) : (s.modPart p f).raf = s.raf := rfl
@[simp] theorem modPart_accesses (p : Nat) (f : Partition → Partition) : (s.modPart p f).accesses = s.accesses := rfl
@[simp] theorem modPart_nextAccess (p : Nat) (f : Partition → Partition) : (s.modPart p f).nextAccess = s.nextAccess := rfl
@[simp] theorem modPart_nextSeq (p : Nat) (f : Partition → Partition) : (s.modPart p f).nextSeq = s.nextSeq := rfl
@[simp] theorem modPart_invalidations (p : Nat) (f : Partition → Partition) : (s.modPart p f).invalidations = s.invalidations := rfl
@[simp] theorem modPart_tenantFailures (p : Nat) (f : Partition → Partition) : (s.modPart p f).tenantFailures = s.tenantFailures := rfl
@[simp] theorem modPart_walks (p : Nat) (f : Partition → Partition) : (s.modPart p f).walks = s.walks := rfl
@[simp] theorem modPart_owner (p : Nat) (f : Partition → Partition) : (s.modPart p f).owner = s.owner := rfl
@[simp] theorem modPart_exports (p : Nat) (f : Partition → Partition) : (s.modPart p f).exports = s.exports := rfl
@[simp] theorem modPart_nextWait (p : Nat) (f : Partition → Partition) : (s.modPart p f).nextWait = s.nextWait := rfl
@[simp] theorem modPart_funcs (p : Nat) (f : Partition → Partition) : (s.modPart p f).funcs = s.funcs := rfl
@[simp] theorem modPart_windows (p : Nat) (f : Partition → Partition) : (s.modPart p f).windows = s.windows := rfl
@[simp] theorem modPart_fumaroles (p : Nat) (f : Partition → Partition) : (s.modPart p f).fumaroles = s.fumaroles := rfl
@[simp] theorem modPart_firmware (p : Nat) (f : Partition → Partition) : (s.modPart p f).firmware = s.firmware := rfl
@[simp] theorem modPart_power (p : Nat) (f : Partition → Partition) : (s.modPart p f).power = s.power := rfl
@[simp] theorem modPart_msix (p : Nat) (f : Partition → Partition) : (s.modPart p f).msix = s.msix := rfl
@[simp] theorem modPart_hostValue (p : Nat) (f : Partition → Partition) : (s.modPart p f).hostValue = s.hostValue := rfl
@[simp] theorem modPart_inputs (p : Nat) (f : Partition → Partition) : (s.modPart p f).inputs = s.inputs := rfl
@[simp] theorem modPart_clock (p : Nat) (f : Partition → Partition) : (s.modPart p f).clock = s.clock := rfl
@[simp] theorem modPart_choices (p : Nat) (f : Partition → Partition) : (s.modPart p f).choices = s.choices := rfl
@[simp] theorem modPart_cur (p : Nat) (f : Partition → Partition) : (s.modPart p f).cur = s.cur := rfl

/-! ## `setQuad` -/

@[simp] theorem setQuad_homes (p q : Nat) (x : Quad) : (s.setQuad p q x).homes = s.homes := rfl
@[simp] theorem setQuad_calderas (p q : Nat) (x : Quad) : (s.setQuad p q x).calderas = s.calderas := rfl
@[simp] theorem setQuad_mem (p q : Nat) (x : Quad) : (s.setQuad p q x).mem = s.mem := rfl
@[simp] theorem setQuad_poison (p q : Nat) (x : Quad) : (s.setQuad p q x).poison = s.poison := rfl
@[simp] theorem setQuad_bank (p q : Nat) (x : Quad) : (s.setQuad p q x).bank = s.bank := rfl
@[simp] theorem setQuad_layouts (p q : Nat) (x : Quad) : (s.setQuad p q x).layouts = s.layouts := rfl
@[simp] theorem setQuad_checks (p q : Nat) (x : Quad) : (s.setQuad p q x).checks = s.checks := rfl
@[simp] theorem setQuad_stale (p q : Nat) (x : Quad) : (s.setQuad p q x).stale = s.stale := rfl
@[simp] theorem setQuad_retired (p q : Nat) (x : Quad) : (s.setQuad p q x).retired = s.retired := rfl
@[simp] theorem setQuad_raf (p q : Nat) (x : Quad) : (s.setQuad p q x).raf = s.raf := rfl
@[simp] theorem setQuad_accesses (p q : Nat) (x : Quad) : (s.setQuad p q x).accesses = s.accesses := rfl
@[simp] theorem setQuad_nextAccess (p q : Nat) (x : Quad) : (s.setQuad p q x).nextAccess = s.nextAccess := rfl
@[simp] theorem setQuad_nextSeq (p q : Nat) (x : Quad) : (s.setQuad p q x).nextSeq = s.nextSeq := rfl
@[simp] theorem setQuad_invalidations (p q : Nat) (x : Quad) : (s.setQuad p q x).invalidations = s.invalidations := rfl
@[simp] theorem setQuad_tenantFailures (p q : Nat) (x : Quad) : (s.setQuad p q x).tenantFailures = s.tenantFailures := rfl
@[simp] theorem setQuad_walks (p q : Nat) (x : Quad) : (s.setQuad p q x).walks = s.walks := rfl
@[simp] theorem setQuad_owner (p q : Nat) (x : Quad) : (s.setQuad p q x).owner = s.owner := rfl
@[simp] theorem setQuad_exports (p q : Nat) (x : Quad) : (s.setQuad p q x).exports = s.exports := rfl
@[simp] theorem setQuad_nextWait (p q : Nat) (x : Quad) : (s.setQuad p q x).nextWait = s.nextWait := rfl
@[simp] theorem setQuad_funcs (p q : Nat) (x : Quad) : (s.setQuad p q x).funcs = s.funcs := rfl
@[simp] theorem setQuad_windows (p q : Nat) (x : Quad) : (s.setQuad p q x).windows = s.windows := rfl
@[simp] theorem setQuad_fumaroles (p q : Nat) (x : Quad) : (s.setQuad p q x).fumaroles = s.fumaroles := rfl
@[simp] theorem setQuad_firmware (p q : Nat) (x : Quad) : (s.setQuad p q x).firmware = s.firmware := rfl
@[simp] theorem setQuad_power (p q : Nat) (x : Quad) : (s.setQuad p q x).power = s.power := rfl
@[simp] theorem setQuad_msix (p q : Nat) (x : Quad) : (s.setQuad p q x).msix = s.msix := rfl
@[simp] theorem setQuad_hostValue (p q : Nat) (x : Quad) : (s.setQuad p q x).hostValue = s.hostValue := rfl
@[simp] theorem setQuad_inputs (p q : Nat) (x : Quad) : (s.setQuad p q x).inputs = s.inputs := rfl
@[simp] theorem setQuad_clock (p q : Nat) (x : Quad) : (s.setQuad p q x).clock = s.clock := rfl
@[simp] theorem setQuad_choices (p q : Nat) (x : Quad) : (s.setQuad p q x).choices = s.choices := rfl
@[simp] theorem setQuad_cur (p q : Nat) (x : Quad) : (s.setQuad p q x).cur = s.cur := rfl

/-! ## `modQuad` -/

@[simp] theorem modQuad_homes (p q : Nat) (f : Quad → Quad) : (s.modQuad p q f).homes = s.homes := rfl
@[simp] theorem modQuad_calderas (p q : Nat) (f : Quad → Quad) : (s.modQuad p q f).calderas = s.calderas := rfl
@[simp] theorem modQuad_mem (p q : Nat) (f : Quad → Quad) : (s.modQuad p q f).mem = s.mem := rfl
@[simp] theorem modQuad_poison (p q : Nat) (f : Quad → Quad) : (s.modQuad p q f).poison = s.poison := rfl
@[simp] theorem modQuad_bank (p q : Nat) (f : Quad → Quad) : (s.modQuad p q f).bank = s.bank := rfl
@[simp] theorem modQuad_layouts (p q : Nat) (f : Quad → Quad) : (s.modQuad p q f).layouts = s.layouts := rfl
@[simp] theorem modQuad_checks (p q : Nat) (f : Quad → Quad) : (s.modQuad p q f).checks = s.checks := rfl
@[simp] theorem modQuad_stale (p q : Nat) (f : Quad → Quad) : (s.modQuad p q f).stale = s.stale := rfl
@[simp] theorem modQuad_retired (p q : Nat) (f : Quad → Quad) : (s.modQuad p q f).retired = s.retired := rfl
@[simp] theorem modQuad_raf (p q : Nat) (f : Quad → Quad) : (s.modQuad p q f).raf = s.raf := rfl
@[simp] theorem modQuad_accesses (p q : Nat) (f : Quad → Quad) : (s.modQuad p q f).accesses = s.accesses := rfl
@[simp] theorem modQuad_nextAccess (p q : Nat) (f : Quad → Quad) : (s.modQuad p q f).nextAccess = s.nextAccess := rfl
@[simp] theorem modQuad_nextSeq (p q : Nat) (f : Quad → Quad) : (s.modQuad p q f).nextSeq = s.nextSeq := rfl
@[simp] theorem modQuad_invalidations (p q : Nat) (f : Quad → Quad) : (s.modQuad p q f).invalidations = s.invalidations := rfl
@[simp] theorem modQuad_tenantFailures (p q : Nat) (f : Quad → Quad) : (s.modQuad p q f).tenantFailures = s.tenantFailures := rfl
@[simp] theorem modQuad_walks (p q : Nat) (f : Quad → Quad) : (s.modQuad p q f).walks = s.walks := rfl
@[simp] theorem modQuad_owner (p q : Nat) (f : Quad → Quad) : (s.modQuad p q f).owner = s.owner := rfl
@[simp] theorem modQuad_exports (p q : Nat) (f : Quad → Quad) : (s.modQuad p q f).exports = s.exports := rfl
@[simp] theorem modQuad_nextWait (p q : Nat) (f : Quad → Quad) : (s.modQuad p q f).nextWait = s.nextWait := rfl
@[simp] theorem modQuad_funcs (p q : Nat) (f : Quad → Quad) : (s.modQuad p q f).funcs = s.funcs := rfl
@[simp] theorem modQuad_windows (p q : Nat) (f : Quad → Quad) : (s.modQuad p q f).windows = s.windows := rfl
@[simp] theorem modQuad_fumaroles (p q : Nat) (f : Quad → Quad) : (s.modQuad p q f).fumaroles = s.fumaroles := rfl
@[simp] theorem modQuad_firmware (p q : Nat) (f : Quad → Quad) : (s.modQuad p q f).firmware = s.firmware := rfl
@[simp] theorem modQuad_power (p q : Nat) (f : Quad → Quad) : (s.modQuad p q f).power = s.power := rfl
@[simp] theorem modQuad_msix (p q : Nat) (f : Quad → Quad) : (s.modQuad p q f).msix = s.msix := rfl
@[simp] theorem modQuad_hostValue (p q : Nat) (f : Quad → Quad) : (s.modQuad p q f).hostValue = s.hostValue := rfl
@[simp] theorem modQuad_inputs (p q : Nat) (f : Quad → Quad) : (s.modQuad p q f).inputs = s.inputs := rfl
@[simp] theorem modQuad_clock (p q : Nat) (f : Quad → Quad) : (s.modQuad p q f).clock = s.clock := rfl
@[simp] theorem modQuad_choices (p q : Nat) (f : Quad → Quad) : (s.modQuad p q f).choices = s.choices := rfl
@[simp] theorem modQuad_cur (p q : Nat) (f : Quad → Quad) : (s.modQuad p q f).cur = s.cur := rfl

/-! ## `setCore` -/

@[simp] theorem setCore_homes (p c : Nat) (x : Core) : (s.setCore p c x).homes = s.homes := rfl
@[simp] theorem setCore_calderas (p c : Nat) (x : Core) : (s.setCore p c x).calderas = s.calderas := rfl
@[simp] theorem setCore_mem (p c : Nat) (x : Core) : (s.setCore p c x).mem = s.mem := rfl
@[simp] theorem setCore_poison (p c : Nat) (x : Core) : (s.setCore p c x).poison = s.poison := rfl
@[simp] theorem setCore_bank (p c : Nat) (x : Core) : (s.setCore p c x).bank = s.bank := rfl
@[simp] theorem setCore_layouts (p c : Nat) (x : Core) : (s.setCore p c x).layouts = s.layouts := rfl
@[simp] theorem setCore_checks (p c : Nat) (x : Core) : (s.setCore p c x).checks = s.checks := rfl
@[simp] theorem setCore_stale (p c : Nat) (x : Core) : (s.setCore p c x).stale = s.stale := rfl
@[simp] theorem setCore_retired (p c : Nat) (x : Core) : (s.setCore p c x).retired = s.retired := rfl
@[simp] theorem setCore_raf (p c : Nat) (x : Core) : (s.setCore p c x).raf = s.raf := rfl
@[simp] theorem setCore_accesses (p c : Nat) (x : Core) : (s.setCore p c x).accesses = s.accesses := rfl
@[simp] theorem setCore_nextAccess (p c : Nat) (x : Core) : (s.setCore p c x).nextAccess = s.nextAccess := rfl
@[simp] theorem setCore_nextSeq (p c : Nat) (x : Core) : (s.setCore p c x).nextSeq = s.nextSeq := rfl
@[simp] theorem setCore_invalidations (p c : Nat) (x : Core) : (s.setCore p c x).invalidations = s.invalidations := rfl
@[simp] theorem setCore_tenantFailures (p c : Nat) (x : Core) : (s.setCore p c x).tenantFailures = s.tenantFailures := rfl
@[simp] theorem setCore_walks (p c : Nat) (x : Core) : (s.setCore p c x).walks = s.walks := rfl
@[simp] theorem setCore_owner (p c : Nat) (x : Core) : (s.setCore p c x).owner = s.owner := rfl
@[simp] theorem setCore_exports (p c : Nat) (x : Core) : (s.setCore p c x).exports = s.exports := rfl
@[simp] theorem setCore_nextWait (p c : Nat) (x : Core) : (s.setCore p c x).nextWait = s.nextWait := rfl
@[simp] theorem setCore_funcs (p c : Nat) (x : Core) : (s.setCore p c x).funcs = s.funcs := rfl
@[simp] theorem setCore_windows (p c : Nat) (x : Core) : (s.setCore p c x).windows = s.windows := rfl
@[simp] theorem setCore_fumaroles (p c : Nat) (x : Core) : (s.setCore p c x).fumaroles = s.fumaroles := rfl
@[simp] theorem setCore_firmware (p c : Nat) (x : Core) : (s.setCore p c x).firmware = s.firmware := rfl
@[simp] theorem setCore_power (p c : Nat) (x : Core) : (s.setCore p c x).power = s.power := rfl
@[simp] theorem setCore_msix (p c : Nat) (x : Core) : (s.setCore p c x).msix = s.msix := rfl
@[simp] theorem setCore_hostValue (p c : Nat) (x : Core) : (s.setCore p c x).hostValue = s.hostValue := rfl
@[simp] theorem setCore_inputs (p c : Nat) (x : Core) : (s.setCore p c x).inputs = s.inputs := rfl
@[simp] theorem setCore_clock (p c : Nat) (x : Core) : (s.setCore p c x).clock = s.clock := rfl
@[simp] theorem setCore_choices (p c : Nat) (x : Core) : (s.setCore p c x).choices = s.choices := rfl
@[simp] theorem setCore_cur (p c : Nat) (x : Core) : (s.setCore p c x).cur = s.cur := rfl

/-! ## `modCore` -/

@[simp] theorem modCore_homes (p c : Nat) (f : Core → Core) : (s.modCore p c f).homes = s.homes := rfl
@[simp] theorem modCore_calderas (p c : Nat) (f : Core → Core) : (s.modCore p c f).calderas = s.calderas := rfl
@[simp] theorem modCore_mem (p c : Nat) (f : Core → Core) : (s.modCore p c f).mem = s.mem := rfl
@[simp] theorem modCore_poison (p c : Nat) (f : Core → Core) : (s.modCore p c f).poison = s.poison := rfl
@[simp] theorem modCore_bank (p c : Nat) (f : Core → Core) : (s.modCore p c f).bank = s.bank := rfl
@[simp] theorem modCore_layouts (p c : Nat) (f : Core → Core) : (s.modCore p c f).layouts = s.layouts := rfl
@[simp] theorem modCore_checks (p c : Nat) (f : Core → Core) : (s.modCore p c f).checks = s.checks := rfl
@[simp] theorem modCore_stale (p c : Nat) (f : Core → Core) : (s.modCore p c f).stale = s.stale := rfl
@[simp] theorem modCore_retired (p c : Nat) (f : Core → Core) : (s.modCore p c f).retired = s.retired := rfl
@[simp] theorem modCore_raf (p c : Nat) (f : Core → Core) : (s.modCore p c f).raf = s.raf := rfl
@[simp] theorem modCore_accesses (p c : Nat) (f : Core → Core) : (s.modCore p c f).accesses = s.accesses := rfl
@[simp] theorem modCore_nextAccess (p c : Nat) (f : Core → Core) : (s.modCore p c f).nextAccess = s.nextAccess := rfl
@[simp] theorem modCore_nextSeq (p c : Nat) (f : Core → Core) : (s.modCore p c f).nextSeq = s.nextSeq := rfl
@[simp] theorem modCore_invalidations (p c : Nat) (f : Core → Core) : (s.modCore p c f).invalidations = s.invalidations := rfl
@[simp] theorem modCore_tenantFailures (p c : Nat) (f : Core → Core) : (s.modCore p c f).tenantFailures = s.tenantFailures := rfl
@[simp] theorem modCore_walks (p c : Nat) (f : Core → Core) : (s.modCore p c f).walks = s.walks := rfl
@[simp] theorem modCore_owner (p c : Nat) (f : Core → Core) : (s.modCore p c f).owner = s.owner := rfl
@[simp] theorem modCore_exports (p c : Nat) (f : Core → Core) : (s.modCore p c f).exports = s.exports := rfl
@[simp] theorem modCore_nextWait (p c : Nat) (f : Core → Core) : (s.modCore p c f).nextWait = s.nextWait := rfl
@[simp] theorem modCore_funcs (p c : Nat) (f : Core → Core) : (s.modCore p c f).funcs = s.funcs := rfl
@[simp] theorem modCore_windows (p c : Nat) (f : Core → Core) : (s.modCore p c f).windows = s.windows := rfl
@[simp] theorem modCore_fumaroles (p c : Nat) (f : Core → Core) : (s.modCore p c f).fumaroles = s.fumaroles := rfl
@[simp] theorem modCore_firmware (p c : Nat) (f : Core → Core) : (s.modCore p c f).firmware = s.firmware := rfl
@[simp] theorem modCore_power (p c : Nat) (f : Core → Core) : (s.modCore p c f).power = s.power := rfl
@[simp] theorem modCore_msix (p c : Nat) (f : Core → Core) : (s.modCore p c f).msix = s.msix := rfl
@[simp] theorem modCore_hostValue (p c : Nat) (f : Core → Core) : (s.modCore p c f).hostValue = s.hostValue := rfl
@[simp] theorem modCore_inputs (p c : Nat) (f : Core → Core) : (s.modCore p c f).inputs = s.inputs := rfl
@[simp] theorem modCore_clock (p c : Nat) (f : Core → Core) : (s.modCore p c f).clock = s.clock := rfl
@[simp] theorem modCore_choices (p c : Nat) (f : Core → Core) : (s.modCore p c f).choices = s.choices := rfl
@[simp] theorem modCore_cur (p c : Nat) (f : Core → Core) : (s.modCore p c f).cur = s.cur := rfl

/-! ## `setContext` -/

@[simp] theorem setContext_homes (p c n : Nat) (x : Ctx) : (s.setContext p c n x).homes = s.homes := rfl
@[simp] theorem setContext_calderas (p c n : Nat) (x : Ctx) : (s.setContext p c n x).calderas = s.calderas := rfl
@[simp] theorem setContext_mem (p c n : Nat) (x : Ctx) : (s.setContext p c n x).mem = s.mem := rfl
@[simp] theorem setContext_poison (p c n : Nat) (x : Ctx) : (s.setContext p c n x).poison = s.poison := rfl
@[simp] theorem setContext_bank (p c n : Nat) (x : Ctx) : (s.setContext p c n x).bank = s.bank := rfl
@[simp] theorem setContext_layouts (p c n : Nat) (x : Ctx) : (s.setContext p c n x).layouts = s.layouts := rfl
@[simp] theorem setContext_checks (p c n : Nat) (x : Ctx) : (s.setContext p c n x).checks = s.checks := rfl
@[simp] theorem setContext_stale (p c n : Nat) (x : Ctx) : (s.setContext p c n x).stale = s.stale := rfl
@[simp] theorem setContext_retired (p c n : Nat) (x : Ctx) : (s.setContext p c n x).retired = s.retired := rfl
@[simp] theorem setContext_raf (p c n : Nat) (x : Ctx) : (s.setContext p c n x).raf = s.raf := rfl
@[simp] theorem setContext_accesses (p c n : Nat) (x : Ctx) : (s.setContext p c n x).accesses = s.accesses := rfl
@[simp] theorem setContext_nextAccess (p c n : Nat) (x : Ctx) : (s.setContext p c n x).nextAccess = s.nextAccess := rfl
@[simp] theorem setContext_nextSeq (p c n : Nat) (x : Ctx) : (s.setContext p c n x).nextSeq = s.nextSeq := rfl
@[simp] theorem setContext_invalidations (p c n : Nat) (x : Ctx) : (s.setContext p c n x).invalidations = s.invalidations := rfl
@[simp] theorem setContext_tenantFailures (p c n : Nat) (x : Ctx) : (s.setContext p c n x).tenantFailures = s.tenantFailures := rfl
@[simp] theorem setContext_walks (p c n : Nat) (x : Ctx) : (s.setContext p c n x).walks = s.walks := rfl
@[simp] theorem setContext_owner (p c n : Nat) (x : Ctx) : (s.setContext p c n x).owner = s.owner := rfl
@[simp] theorem setContext_exports (p c n : Nat) (x : Ctx) : (s.setContext p c n x).exports = s.exports := rfl
@[simp] theorem setContext_nextWait (p c n : Nat) (x : Ctx) : (s.setContext p c n x).nextWait = s.nextWait := rfl
@[simp] theorem setContext_funcs (p c n : Nat) (x : Ctx) : (s.setContext p c n x).funcs = s.funcs := rfl
@[simp] theorem setContext_windows (p c n : Nat) (x : Ctx) : (s.setContext p c n x).windows = s.windows := rfl
@[simp] theorem setContext_fumaroles (p c n : Nat) (x : Ctx) : (s.setContext p c n x).fumaroles = s.fumaroles := rfl
@[simp] theorem setContext_firmware (p c n : Nat) (x : Ctx) : (s.setContext p c n x).firmware = s.firmware := rfl
@[simp] theorem setContext_power (p c n : Nat) (x : Ctx) : (s.setContext p c n x).power = s.power := rfl
@[simp] theorem setContext_msix (p c n : Nat) (x : Ctx) : (s.setContext p c n x).msix = s.msix := rfl
@[simp] theorem setContext_hostValue (p c n : Nat) (x : Ctx) : (s.setContext p c n x).hostValue = s.hostValue := rfl
@[simp] theorem setContext_inputs (p c n : Nat) (x : Ctx) : (s.setContext p c n x).inputs = s.inputs := rfl
@[simp] theorem setContext_clock (p c n : Nat) (x : Ctx) : (s.setContext p c n x).clock = s.clock := rfl
@[simp] theorem setContext_choices (p c n : Nat) (x : Ctx) : (s.setContext p c n x).choices = s.choices := rfl
@[simp] theorem setContext_cur (p c n : Nat) (x : Ctx) : (s.setContext p c n x).cur = s.cur := rfl

/-! ## `modContext` -/

@[simp] theorem modContext_homes (p c n : Nat) (f : Ctx → Ctx) : (s.modContext p c n f).homes = s.homes := rfl
@[simp] theorem modContext_calderas (p c n : Nat) (f : Ctx → Ctx) : (s.modContext p c n f).calderas = s.calderas := rfl
@[simp] theorem modContext_mem (p c n : Nat) (f : Ctx → Ctx) : (s.modContext p c n f).mem = s.mem := rfl
@[simp] theorem modContext_poison (p c n : Nat) (f : Ctx → Ctx) : (s.modContext p c n f).poison = s.poison := rfl
@[simp] theorem modContext_bank (p c n : Nat) (f : Ctx → Ctx) : (s.modContext p c n f).bank = s.bank := rfl
@[simp] theorem modContext_layouts (p c n : Nat) (f : Ctx → Ctx) : (s.modContext p c n f).layouts = s.layouts := rfl
@[simp] theorem modContext_checks (p c n : Nat) (f : Ctx → Ctx) : (s.modContext p c n f).checks = s.checks := rfl
@[simp] theorem modContext_stale (p c n : Nat) (f : Ctx → Ctx) : (s.modContext p c n f).stale = s.stale := rfl
@[simp] theorem modContext_retired (p c n : Nat) (f : Ctx → Ctx) : (s.modContext p c n f).retired = s.retired := rfl
@[simp] theorem modContext_raf (p c n : Nat) (f : Ctx → Ctx) : (s.modContext p c n f).raf = s.raf := rfl
@[simp] theorem modContext_accesses (p c n : Nat) (f : Ctx → Ctx) : (s.modContext p c n f).accesses = s.accesses := rfl
@[simp] theorem modContext_nextAccess (p c n : Nat) (f : Ctx → Ctx) : (s.modContext p c n f).nextAccess = s.nextAccess := rfl
@[simp] theorem modContext_nextSeq (p c n : Nat) (f : Ctx → Ctx) : (s.modContext p c n f).nextSeq = s.nextSeq := rfl
@[simp] theorem modContext_invalidations (p c n : Nat) (f : Ctx → Ctx) : (s.modContext p c n f).invalidations = s.invalidations := rfl
@[simp] theorem modContext_tenantFailures (p c n : Nat) (f : Ctx → Ctx) : (s.modContext p c n f).tenantFailures = s.tenantFailures := rfl
@[simp] theorem modContext_walks (p c n : Nat) (f : Ctx → Ctx) : (s.modContext p c n f).walks = s.walks := rfl
@[simp] theorem modContext_owner (p c n : Nat) (f : Ctx → Ctx) : (s.modContext p c n f).owner = s.owner := rfl
@[simp] theorem modContext_exports (p c n : Nat) (f : Ctx → Ctx) : (s.modContext p c n f).exports = s.exports := rfl
@[simp] theorem modContext_nextWait (p c n : Nat) (f : Ctx → Ctx) : (s.modContext p c n f).nextWait = s.nextWait := rfl
@[simp] theorem modContext_funcs (p c n : Nat) (f : Ctx → Ctx) : (s.modContext p c n f).funcs = s.funcs := rfl
@[simp] theorem modContext_windows (p c n : Nat) (f : Ctx → Ctx) : (s.modContext p c n f).windows = s.windows := rfl
@[simp] theorem modContext_fumaroles (p c n : Nat) (f : Ctx → Ctx) : (s.modContext p c n f).fumaroles = s.fumaroles := rfl
@[simp] theorem modContext_firmware (p c n : Nat) (f : Ctx → Ctx) : (s.modContext p c n f).firmware = s.firmware := rfl
@[simp] theorem modContext_power (p c n : Nat) (f : Ctx → Ctx) : (s.modContext p c n f).power = s.power := rfl
@[simp] theorem modContext_msix (p c n : Nat) (f : Ctx → Ctx) : (s.modContext p c n f).msix = s.msix := rfl
@[simp] theorem modContext_hostValue (p c n : Nat) (f : Ctx → Ctx) : (s.modContext p c n f).hostValue = s.hostValue := rfl
@[simp] theorem modContext_inputs (p c n : Nat) (f : Ctx → Ctx) : (s.modContext p c n f).inputs = s.inputs := rfl
@[simp] theorem modContext_clock (p c n : Nat) (f : Ctx → Ctx) : (s.modContext p c n f).clock = s.clock := rfl
@[simp] theorem modContext_choices (p c n : Nat) (f : Ctx → Ctx) : (s.modContext p c n f).choices = s.choices := rfl
@[simp] theorem modContext_cur (p c n : Nat) (f : Ctx → Ctx) : (s.modContext p c n f).cur = s.cur := rfl

/-! ## `modThread` -/

@[simp] theorem modThread_homes (p tid : Nat) (f : Ctx → Ctx) : (s.modThread p tid f).homes = s.homes := rfl
@[simp] theorem modThread_calderas (p tid : Nat) (f : Ctx → Ctx) : (s.modThread p tid f).calderas = s.calderas := rfl
@[simp] theorem modThread_mem (p tid : Nat) (f : Ctx → Ctx) : (s.modThread p tid f).mem = s.mem := rfl
@[simp] theorem modThread_poison (p tid : Nat) (f : Ctx → Ctx) : (s.modThread p tid f).poison = s.poison := rfl
@[simp] theorem modThread_bank (p tid : Nat) (f : Ctx → Ctx) : (s.modThread p tid f).bank = s.bank := rfl
@[simp] theorem modThread_layouts (p tid : Nat) (f : Ctx → Ctx) : (s.modThread p tid f).layouts = s.layouts := rfl
@[simp] theorem modThread_checks (p tid : Nat) (f : Ctx → Ctx) : (s.modThread p tid f).checks = s.checks := rfl
@[simp] theorem modThread_stale (p tid : Nat) (f : Ctx → Ctx) : (s.modThread p tid f).stale = s.stale := rfl
@[simp] theorem modThread_retired (p tid : Nat) (f : Ctx → Ctx) : (s.modThread p tid f).retired = s.retired := rfl
@[simp] theorem modThread_raf (p tid : Nat) (f : Ctx → Ctx) : (s.modThread p tid f).raf = s.raf := rfl
@[simp] theorem modThread_accesses (p tid : Nat) (f : Ctx → Ctx) : (s.modThread p tid f).accesses = s.accesses := rfl
@[simp] theorem modThread_nextAccess (p tid : Nat) (f : Ctx → Ctx) : (s.modThread p tid f).nextAccess = s.nextAccess := rfl
@[simp] theorem modThread_nextSeq (p tid : Nat) (f : Ctx → Ctx) : (s.modThread p tid f).nextSeq = s.nextSeq := rfl
@[simp] theorem modThread_invalidations (p tid : Nat) (f : Ctx → Ctx) : (s.modThread p tid f).invalidations = s.invalidations := rfl
@[simp] theorem modThread_tenantFailures (p tid : Nat) (f : Ctx → Ctx) : (s.modThread p tid f).tenantFailures = s.tenantFailures := rfl
@[simp] theorem modThread_walks (p tid : Nat) (f : Ctx → Ctx) : (s.modThread p tid f).walks = s.walks := rfl
@[simp] theorem modThread_owner (p tid : Nat) (f : Ctx → Ctx) : (s.modThread p tid f).owner = s.owner := rfl
@[simp] theorem modThread_exports (p tid : Nat) (f : Ctx → Ctx) : (s.modThread p tid f).exports = s.exports := rfl
@[simp] theorem modThread_nextWait (p tid : Nat) (f : Ctx → Ctx) : (s.modThread p tid f).nextWait = s.nextWait := rfl
@[simp] theorem modThread_funcs (p tid : Nat) (f : Ctx → Ctx) : (s.modThread p tid f).funcs = s.funcs := rfl
@[simp] theorem modThread_windows (p tid : Nat) (f : Ctx → Ctx) : (s.modThread p tid f).windows = s.windows := rfl
@[simp] theorem modThread_fumaroles (p tid : Nat) (f : Ctx → Ctx) : (s.modThread p tid f).fumaroles = s.fumaroles := rfl
@[simp] theorem modThread_firmware (p tid : Nat) (f : Ctx → Ctx) : (s.modThread p tid f).firmware = s.firmware := rfl
@[simp] theorem modThread_power (p tid : Nat) (f : Ctx → Ctx) : (s.modThread p tid f).power = s.power := rfl
@[simp] theorem modThread_msix (p tid : Nat) (f : Ctx → Ctx) : (s.modThread p tid f).msix = s.msix := rfl
@[simp] theorem modThread_hostValue (p tid : Nat) (f : Ctx → Ctx) : (s.modThread p tid f).hostValue = s.hostValue := rfl
@[simp] theorem modThread_inputs (p tid : Nat) (f : Ctx → Ctx) : (s.modThread p tid f).inputs = s.inputs := rfl
@[simp] theorem modThread_clock (p tid : Nat) (f : Ctx → Ctx) : (s.modThread p tid f).clock = s.clock := rfl
@[simp] theorem modThread_choices (p tid : Nat) (f : Ctx → Ctx) : (s.modThread p tid f).choices = s.choices := rfl
@[simp] theorem modThread_cur (p tid : Nat) (f : Ctx → Ctx) : (s.modThread p tid f).cur = s.cur := rfl

/-! ## `modCurCore` -/

@[simp] theorem modCurCore_homes (f : Core → Core) : (s.modCurCore f).homes = s.homes := rfl
@[simp] theorem modCurCore_calderas (f : Core → Core) : (s.modCurCore f).calderas = s.calderas := rfl
@[simp] theorem modCurCore_mem (f : Core → Core) : (s.modCurCore f).mem = s.mem := rfl
@[simp] theorem modCurCore_poison (f : Core → Core) : (s.modCurCore f).poison = s.poison := rfl
@[simp] theorem modCurCore_bank (f : Core → Core) : (s.modCurCore f).bank = s.bank := rfl
@[simp] theorem modCurCore_layouts (f : Core → Core) : (s.modCurCore f).layouts = s.layouts := rfl
@[simp] theorem modCurCore_checks (f : Core → Core) : (s.modCurCore f).checks = s.checks := rfl
@[simp] theorem modCurCore_stale (f : Core → Core) : (s.modCurCore f).stale = s.stale := rfl
@[simp] theorem modCurCore_retired (f : Core → Core) : (s.modCurCore f).retired = s.retired := rfl
@[simp] theorem modCurCore_raf (f : Core → Core) : (s.modCurCore f).raf = s.raf := rfl
@[simp] theorem modCurCore_accesses (f : Core → Core) : (s.modCurCore f).accesses = s.accesses := rfl
@[simp] theorem modCurCore_nextAccess (f : Core → Core) : (s.modCurCore f).nextAccess = s.nextAccess := rfl
@[simp] theorem modCurCore_nextSeq (f : Core → Core) : (s.modCurCore f).nextSeq = s.nextSeq := rfl
@[simp] theorem modCurCore_invalidations (f : Core → Core) : (s.modCurCore f).invalidations = s.invalidations := rfl
@[simp] theorem modCurCore_tenantFailures (f : Core → Core) : (s.modCurCore f).tenantFailures = s.tenantFailures := rfl
@[simp] theorem modCurCore_walks (f : Core → Core) : (s.modCurCore f).walks = s.walks := rfl
@[simp] theorem modCurCore_owner (f : Core → Core) : (s.modCurCore f).owner = s.owner := rfl
@[simp] theorem modCurCore_exports (f : Core → Core) : (s.modCurCore f).exports = s.exports := rfl
@[simp] theorem modCurCore_nextWait (f : Core → Core) : (s.modCurCore f).nextWait = s.nextWait := rfl
@[simp] theorem modCurCore_funcs (f : Core → Core) : (s.modCurCore f).funcs = s.funcs := rfl
@[simp] theorem modCurCore_windows (f : Core → Core) : (s.modCurCore f).windows = s.windows := rfl
@[simp] theorem modCurCore_fumaroles (f : Core → Core) : (s.modCurCore f).fumaroles = s.fumaroles := rfl
@[simp] theorem modCurCore_firmware (f : Core → Core) : (s.modCurCore f).firmware = s.firmware := rfl
@[simp] theorem modCurCore_power (f : Core → Core) : (s.modCurCore f).power = s.power := rfl
@[simp] theorem modCurCore_msix (f : Core → Core) : (s.modCurCore f).msix = s.msix := rfl
@[simp] theorem modCurCore_hostValue (f : Core → Core) : (s.modCurCore f).hostValue = s.hostValue := rfl
@[simp] theorem modCurCore_inputs (f : Core → Core) : (s.modCurCore f).inputs = s.inputs := rfl
@[simp] theorem modCurCore_clock (f : Core → Core) : (s.modCurCore f).clock = s.clock := rfl
@[simp] theorem modCurCore_choices (f : Core → Core) : (s.modCurCore f).choices = s.choices := rfl
@[simp] theorem modCurCore_cur (f : Core → Core) : (s.modCurCore f).cur = s.cur := rfl

/-! ## `modCurQuad` -/

@[simp] theorem modCurQuad_homes (f : Quad → Quad) : (s.modCurQuad f).homes = s.homes := rfl
@[simp] theorem modCurQuad_calderas (f : Quad → Quad) : (s.modCurQuad f).calderas = s.calderas := rfl
@[simp] theorem modCurQuad_mem (f : Quad → Quad) : (s.modCurQuad f).mem = s.mem := rfl
@[simp] theorem modCurQuad_poison (f : Quad → Quad) : (s.modCurQuad f).poison = s.poison := rfl
@[simp] theorem modCurQuad_bank (f : Quad → Quad) : (s.modCurQuad f).bank = s.bank := rfl
@[simp] theorem modCurQuad_layouts (f : Quad → Quad) : (s.modCurQuad f).layouts = s.layouts := rfl
@[simp] theorem modCurQuad_checks (f : Quad → Quad) : (s.modCurQuad f).checks = s.checks := rfl
@[simp] theorem modCurQuad_stale (f : Quad → Quad) : (s.modCurQuad f).stale = s.stale := rfl
@[simp] theorem modCurQuad_retired (f : Quad → Quad) : (s.modCurQuad f).retired = s.retired := rfl
@[simp] theorem modCurQuad_raf (f : Quad → Quad) : (s.modCurQuad f).raf = s.raf := rfl
@[simp] theorem modCurQuad_accesses (f : Quad → Quad) : (s.modCurQuad f).accesses = s.accesses := rfl
@[simp] theorem modCurQuad_nextAccess (f : Quad → Quad) : (s.modCurQuad f).nextAccess = s.nextAccess := rfl
@[simp] theorem modCurQuad_nextSeq (f : Quad → Quad) : (s.modCurQuad f).nextSeq = s.nextSeq := rfl
@[simp] theorem modCurQuad_invalidations (f : Quad → Quad) : (s.modCurQuad f).invalidations = s.invalidations := rfl
@[simp] theorem modCurQuad_tenantFailures (f : Quad → Quad) : (s.modCurQuad f).tenantFailures = s.tenantFailures := rfl
@[simp] theorem modCurQuad_walks (f : Quad → Quad) : (s.modCurQuad f).walks = s.walks := rfl
@[simp] theorem modCurQuad_owner (f : Quad → Quad) : (s.modCurQuad f).owner = s.owner := rfl
@[simp] theorem modCurQuad_exports (f : Quad → Quad) : (s.modCurQuad f).exports = s.exports := rfl
@[simp] theorem modCurQuad_nextWait (f : Quad → Quad) : (s.modCurQuad f).nextWait = s.nextWait := rfl
@[simp] theorem modCurQuad_funcs (f : Quad → Quad) : (s.modCurQuad f).funcs = s.funcs := rfl
@[simp] theorem modCurQuad_windows (f : Quad → Quad) : (s.modCurQuad f).windows = s.windows := rfl
@[simp] theorem modCurQuad_fumaroles (f : Quad → Quad) : (s.modCurQuad f).fumaroles = s.fumaroles := rfl
@[simp] theorem modCurQuad_firmware (f : Quad → Quad) : (s.modCurQuad f).firmware = s.firmware := rfl
@[simp] theorem modCurQuad_power (f : Quad → Quad) : (s.modCurQuad f).power = s.power := rfl
@[simp] theorem modCurQuad_msix (f : Quad → Quad) : (s.modCurQuad f).msix = s.msix := rfl
@[simp] theorem modCurQuad_hostValue (f : Quad → Quad) : (s.modCurQuad f).hostValue = s.hostValue := rfl
@[simp] theorem modCurQuad_inputs (f : Quad → Quad) : (s.modCurQuad f).inputs = s.inputs := rfl
@[simp] theorem modCurQuad_clock (f : Quad → Quad) : (s.modCurQuad f).clock = s.clock := rfl
@[simp] theorem modCurQuad_choices (f : Quad → Quad) : (s.modCurQuad f).choices = s.choices := rfl
@[simp] theorem modCurQuad_cur (f : Quad → Quad) : (s.modCurQuad f).cur = s.cur := rfl

/-! ## `modCurPart` -/

@[simp] theorem modCurPart_homes (f : Partition → Partition) : (s.modCurPart f).homes = s.homes := rfl
@[simp] theorem modCurPart_calderas (f : Partition → Partition) : (s.modCurPart f).calderas = s.calderas := rfl
@[simp] theorem modCurPart_mem (f : Partition → Partition) : (s.modCurPart f).mem = s.mem := rfl
@[simp] theorem modCurPart_poison (f : Partition → Partition) : (s.modCurPart f).poison = s.poison := rfl
@[simp] theorem modCurPart_bank (f : Partition → Partition) : (s.modCurPart f).bank = s.bank := rfl
@[simp] theorem modCurPart_layouts (f : Partition → Partition) : (s.modCurPart f).layouts = s.layouts := rfl
@[simp] theorem modCurPart_checks (f : Partition → Partition) : (s.modCurPart f).checks = s.checks := rfl
@[simp] theorem modCurPart_stale (f : Partition → Partition) : (s.modCurPart f).stale = s.stale := rfl
@[simp] theorem modCurPart_retired (f : Partition → Partition) : (s.modCurPart f).retired = s.retired := rfl
@[simp] theorem modCurPart_raf (f : Partition → Partition) : (s.modCurPart f).raf = s.raf := rfl
@[simp] theorem modCurPart_accesses (f : Partition → Partition) : (s.modCurPart f).accesses = s.accesses := rfl
@[simp] theorem modCurPart_nextAccess (f : Partition → Partition) : (s.modCurPart f).nextAccess = s.nextAccess := rfl
@[simp] theorem modCurPart_nextSeq (f : Partition → Partition) : (s.modCurPart f).nextSeq = s.nextSeq := rfl
@[simp] theorem modCurPart_invalidations (f : Partition → Partition) : (s.modCurPart f).invalidations = s.invalidations := rfl
@[simp] theorem modCurPart_tenantFailures (f : Partition → Partition) : (s.modCurPart f).tenantFailures = s.tenantFailures := rfl
@[simp] theorem modCurPart_walks (f : Partition → Partition) : (s.modCurPart f).walks = s.walks := rfl
@[simp] theorem modCurPart_owner (f : Partition → Partition) : (s.modCurPart f).owner = s.owner := rfl
@[simp] theorem modCurPart_exports (f : Partition → Partition) : (s.modCurPart f).exports = s.exports := rfl
@[simp] theorem modCurPart_nextWait (f : Partition → Partition) : (s.modCurPart f).nextWait = s.nextWait := rfl
@[simp] theorem modCurPart_funcs (f : Partition → Partition) : (s.modCurPart f).funcs = s.funcs := rfl
@[simp] theorem modCurPart_windows (f : Partition → Partition) : (s.modCurPart f).windows = s.windows := rfl
@[simp] theorem modCurPart_fumaroles (f : Partition → Partition) : (s.modCurPart f).fumaroles = s.fumaroles := rfl
@[simp] theorem modCurPart_firmware (f : Partition → Partition) : (s.modCurPart f).firmware = s.firmware := rfl
@[simp] theorem modCurPart_power (f : Partition → Partition) : (s.modCurPart f).power = s.power := rfl
@[simp] theorem modCurPart_msix (f : Partition → Partition) : (s.modCurPart f).msix = s.msix := rfl
@[simp] theorem modCurPart_hostValue (f : Partition → Partition) : (s.modCurPart f).hostValue = s.hostValue := rfl
@[simp] theorem modCurPart_inputs (f : Partition → Partition) : (s.modCurPart f).inputs = s.inputs := rfl
@[simp] theorem modCurPart_clock (f : Partition → Partition) : (s.modCurPart f).clock = s.clock := rfl
@[simp] theorem modCurPart_choices (f : Partition → Partition) : (s.modCurPart f).choices = s.choices := rfl
@[simp] theorem modCurPart_cur (f : Partition → Partition) : (s.modCurPart f).cur = s.cur := rfl

/-! ## `modHome` -/

@[simp] theorem modHome_parts (q : Nat) (f : Home → Home) : (s.modHome q f).parts = s.parts := rfl
@[simp] theorem modHome_calderas (q : Nat) (f : Home → Home) : (s.modHome q f).calderas = s.calderas := rfl
@[simp] theorem modHome_mem (q : Nat) (f : Home → Home) : (s.modHome q f).mem = s.mem := rfl
@[simp] theorem modHome_poison (q : Nat) (f : Home → Home) : (s.modHome q f).poison = s.poison := rfl
@[simp] theorem modHome_bank (q : Nat) (f : Home → Home) : (s.modHome q f).bank = s.bank := rfl
@[simp] theorem modHome_layouts (q : Nat) (f : Home → Home) : (s.modHome q f).layouts = s.layouts := rfl
@[simp] theorem modHome_checks (q : Nat) (f : Home → Home) : (s.modHome q f).checks = s.checks := rfl
@[simp] theorem modHome_stale (q : Nat) (f : Home → Home) : (s.modHome q f).stale = s.stale := rfl
@[simp] theorem modHome_retired (q : Nat) (f : Home → Home) : (s.modHome q f).retired = s.retired := rfl
@[simp] theorem modHome_raf (q : Nat) (f : Home → Home) : (s.modHome q f).raf = s.raf := rfl
@[simp] theorem modHome_accesses (q : Nat) (f : Home → Home) : (s.modHome q f).accesses = s.accesses := rfl
@[simp] theorem modHome_nextAccess (q : Nat) (f : Home → Home) : (s.modHome q f).nextAccess = s.nextAccess := rfl
@[simp] theorem modHome_nextSeq (q : Nat) (f : Home → Home) : (s.modHome q f).nextSeq = s.nextSeq := rfl
@[simp] theorem modHome_invalidations (q : Nat) (f : Home → Home) : (s.modHome q f).invalidations = s.invalidations := rfl
@[simp] theorem modHome_tenantFailures (q : Nat) (f : Home → Home) : (s.modHome q f).tenantFailures = s.tenantFailures := rfl
@[simp] theorem modHome_walks (q : Nat) (f : Home → Home) : (s.modHome q f).walks = s.walks := rfl
@[simp] theorem modHome_owner (q : Nat) (f : Home → Home) : (s.modHome q f).owner = s.owner := rfl
@[simp] theorem modHome_exports (q : Nat) (f : Home → Home) : (s.modHome q f).exports = s.exports := rfl
@[simp] theorem modHome_nextWait (q : Nat) (f : Home → Home) : (s.modHome q f).nextWait = s.nextWait := rfl
@[simp] theorem modHome_funcs (q : Nat) (f : Home → Home) : (s.modHome q f).funcs = s.funcs := rfl
@[simp] theorem modHome_windows (q : Nat) (f : Home → Home) : (s.modHome q f).windows = s.windows := rfl
@[simp] theorem modHome_fumaroles (q : Nat) (f : Home → Home) : (s.modHome q f).fumaroles = s.fumaroles := rfl
@[simp] theorem modHome_firmware (q : Nat) (f : Home → Home) : (s.modHome q f).firmware = s.firmware := rfl
@[simp] theorem modHome_power (q : Nat) (f : Home → Home) : (s.modHome q f).power = s.power := rfl
@[simp] theorem modHome_msix (q : Nat) (f : Home → Home) : (s.modHome q f).msix = s.msix := rfl
@[simp] theorem modHome_hostValue (q : Nat) (f : Home → Home) : (s.modHome q f).hostValue = s.hostValue := rfl
@[simp] theorem modHome_inputs (q : Nat) (f : Home → Home) : (s.modHome q f).inputs = s.inputs := rfl
@[simp] theorem modHome_clock (q : Nat) (f : Home → Home) : (s.modHome q f).clock = s.clock := rfl
@[simp] theorem modHome_choices (q : Nat) (f : Home → Home) : (s.modHome q f).choices = s.choices := rfl
@[simp] theorem modHome_cur (q : Nat) (f : Home → Home) : (s.modHome q f).cur = s.cur := rfl

/-! ## `modCaldera` -/

@[simp] theorem modCaldera_parts (k : Nat) (f : Caldera → Caldera) : (s.modCaldera k f).parts = s.parts := rfl
@[simp] theorem modCaldera_homes (k : Nat) (f : Caldera → Caldera) : (s.modCaldera k f).homes = s.homes := rfl
@[simp] theorem modCaldera_mem (k : Nat) (f : Caldera → Caldera) : (s.modCaldera k f).mem = s.mem := rfl
@[simp] theorem modCaldera_poison (k : Nat) (f : Caldera → Caldera) : (s.modCaldera k f).poison = s.poison := rfl
@[simp] theorem modCaldera_bank (k : Nat) (f : Caldera → Caldera) : (s.modCaldera k f).bank = s.bank := rfl
@[simp] theorem modCaldera_layouts (k : Nat) (f : Caldera → Caldera) : (s.modCaldera k f).layouts = s.layouts := rfl
@[simp] theorem modCaldera_checks (k : Nat) (f : Caldera → Caldera) : (s.modCaldera k f).checks = s.checks := rfl
@[simp] theorem modCaldera_stale (k : Nat) (f : Caldera → Caldera) : (s.modCaldera k f).stale = s.stale := rfl
@[simp] theorem modCaldera_retired (k : Nat) (f : Caldera → Caldera) : (s.modCaldera k f).retired = s.retired := rfl
@[simp] theorem modCaldera_raf (k : Nat) (f : Caldera → Caldera) : (s.modCaldera k f).raf = s.raf := rfl
@[simp] theorem modCaldera_accesses (k : Nat) (f : Caldera → Caldera) : (s.modCaldera k f).accesses = s.accesses := rfl
@[simp] theorem modCaldera_nextAccess (k : Nat) (f : Caldera → Caldera) : (s.modCaldera k f).nextAccess = s.nextAccess := rfl
@[simp] theorem modCaldera_nextSeq (k : Nat) (f : Caldera → Caldera) : (s.modCaldera k f).nextSeq = s.nextSeq := rfl
@[simp] theorem modCaldera_invalidations (k : Nat) (f : Caldera → Caldera) : (s.modCaldera k f).invalidations = s.invalidations := rfl
@[simp] theorem modCaldera_tenantFailures (k : Nat) (f : Caldera → Caldera) : (s.modCaldera k f).tenantFailures = s.tenantFailures := rfl
@[simp] theorem modCaldera_walks (k : Nat) (f : Caldera → Caldera) : (s.modCaldera k f).walks = s.walks := rfl
@[simp] theorem modCaldera_owner (k : Nat) (f : Caldera → Caldera) : (s.modCaldera k f).owner = s.owner := rfl
@[simp] theorem modCaldera_exports (k : Nat) (f : Caldera → Caldera) : (s.modCaldera k f).exports = s.exports := rfl
@[simp] theorem modCaldera_nextWait (k : Nat) (f : Caldera → Caldera) : (s.modCaldera k f).nextWait = s.nextWait := rfl
@[simp] theorem modCaldera_funcs (k : Nat) (f : Caldera → Caldera) : (s.modCaldera k f).funcs = s.funcs := rfl
@[simp] theorem modCaldera_windows (k : Nat) (f : Caldera → Caldera) : (s.modCaldera k f).windows = s.windows := rfl
@[simp] theorem modCaldera_fumaroles (k : Nat) (f : Caldera → Caldera) : (s.modCaldera k f).fumaroles = s.fumaroles := rfl
@[simp] theorem modCaldera_firmware (k : Nat) (f : Caldera → Caldera) : (s.modCaldera k f).firmware = s.firmware := rfl
@[simp] theorem modCaldera_power (k : Nat) (f : Caldera → Caldera) : (s.modCaldera k f).power = s.power := rfl
@[simp] theorem modCaldera_msix (k : Nat) (f : Caldera → Caldera) : (s.modCaldera k f).msix = s.msix := rfl
@[simp] theorem modCaldera_hostValue (k : Nat) (f : Caldera → Caldera) : (s.modCaldera k f).hostValue = s.hostValue := rfl
@[simp] theorem modCaldera_inputs (k : Nat) (f : Caldera → Caldera) : (s.modCaldera k f).inputs = s.inputs := rfl
@[simp] theorem modCaldera_clock (k : Nat) (f : Caldera → Caldera) : (s.modCaldera k f).clock = s.clock := rfl
@[simp] theorem modCaldera_choices (k : Nat) (f : Caldera → Caldera) : (s.modCaldera k f).choices = s.choices := rfl
@[simp] theorem modCaldera_cur (k : Nat) (f : Caldera → Caldera) : (s.modCaldera k f).cur = s.cur := rfl

/-! ## `modFunc` -/

@[simp] theorem modFunc_parts (k : Nat) (f : Func → Func) : (s.modFunc k f).parts = s.parts := rfl
@[simp] theorem modFunc_homes (k : Nat) (f : Func → Func) : (s.modFunc k f).homes = s.homes := rfl
@[simp] theorem modFunc_calderas (k : Nat) (f : Func → Func) : (s.modFunc k f).calderas = s.calderas := rfl
@[simp] theorem modFunc_mem (k : Nat) (f : Func → Func) : (s.modFunc k f).mem = s.mem := rfl
@[simp] theorem modFunc_poison (k : Nat) (f : Func → Func) : (s.modFunc k f).poison = s.poison := rfl
@[simp] theorem modFunc_bank (k : Nat) (f : Func → Func) : (s.modFunc k f).bank = s.bank := rfl
@[simp] theorem modFunc_layouts (k : Nat) (f : Func → Func) : (s.modFunc k f).layouts = s.layouts := rfl
@[simp] theorem modFunc_checks (k : Nat) (f : Func → Func) : (s.modFunc k f).checks = s.checks := rfl
@[simp] theorem modFunc_stale (k : Nat) (f : Func → Func) : (s.modFunc k f).stale = s.stale := rfl
@[simp] theorem modFunc_retired (k : Nat) (f : Func → Func) : (s.modFunc k f).retired = s.retired := rfl
@[simp] theorem modFunc_raf (k : Nat) (f : Func → Func) : (s.modFunc k f).raf = s.raf := rfl
@[simp] theorem modFunc_accesses (k : Nat) (f : Func → Func) : (s.modFunc k f).accesses = s.accesses := rfl
@[simp] theorem modFunc_nextAccess (k : Nat) (f : Func → Func) : (s.modFunc k f).nextAccess = s.nextAccess := rfl
@[simp] theorem modFunc_nextSeq (k : Nat) (f : Func → Func) : (s.modFunc k f).nextSeq = s.nextSeq := rfl
@[simp] theorem modFunc_invalidations (k : Nat) (f : Func → Func) : (s.modFunc k f).invalidations = s.invalidations := rfl
@[simp] theorem modFunc_tenantFailures (k : Nat) (f : Func → Func) : (s.modFunc k f).tenantFailures = s.tenantFailures := rfl
@[simp] theorem modFunc_walks (k : Nat) (f : Func → Func) : (s.modFunc k f).walks = s.walks := rfl
@[simp] theorem modFunc_owner (k : Nat) (f : Func → Func) : (s.modFunc k f).owner = s.owner := rfl
@[simp] theorem modFunc_exports (k : Nat) (f : Func → Func) : (s.modFunc k f).exports = s.exports := rfl
@[simp] theorem modFunc_nextWait (k : Nat) (f : Func → Func) : (s.modFunc k f).nextWait = s.nextWait := rfl
@[simp] theorem modFunc_windows (k : Nat) (f : Func → Func) : (s.modFunc k f).windows = s.windows := rfl
@[simp] theorem modFunc_fumaroles (k : Nat) (f : Func → Func) : (s.modFunc k f).fumaroles = s.fumaroles := rfl
@[simp] theorem modFunc_firmware (k : Nat) (f : Func → Func) : (s.modFunc k f).firmware = s.firmware := rfl
@[simp] theorem modFunc_power (k : Nat) (f : Func → Func) : (s.modFunc k f).power = s.power := rfl
@[simp] theorem modFunc_msix (k : Nat) (f : Func → Func) : (s.modFunc k f).msix = s.msix := rfl
@[simp] theorem modFunc_hostValue (k : Nat) (f : Func → Func) : (s.modFunc k f).hostValue = s.hostValue := rfl
@[simp] theorem modFunc_inputs (k : Nat) (f : Func → Func) : (s.modFunc k f).inputs = s.inputs := rfl
@[simp] theorem modFunc_clock (k : Nat) (f : Func → Func) : (s.modFunc k f).clock = s.clock := rfl
@[simp] theorem modFunc_choices (k : Nat) (f : Func → Func) : (s.modFunc k f).choices = s.choices := rfl
@[simp] theorem modFunc_cur (k : Nat) (f : Func → Func) : (s.modFunc k f).cur = s.cur := rfl

/-! ## `modFum` -/

@[simp] theorem modFum_parts (l : Nat) (f : Fumarole → Fumarole) : (s.modFum l f).parts = s.parts := rfl
@[simp] theorem modFum_homes (l : Nat) (f : Fumarole → Fumarole) : (s.modFum l f).homes = s.homes := rfl
@[simp] theorem modFum_calderas (l : Nat) (f : Fumarole → Fumarole) : (s.modFum l f).calderas = s.calderas := rfl
@[simp] theorem modFum_mem (l : Nat) (f : Fumarole → Fumarole) : (s.modFum l f).mem = s.mem := rfl
@[simp] theorem modFum_poison (l : Nat) (f : Fumarole → Fumarole) : (s.modFum l f).poison = s.poison := rfl
@[simp] theorem modFum_bank (l : Nat) (f : Fumarole → Fumarole) : (s.modFum l f).bank = s.bank := rfl
@[simp] theorem modFum_layouts (l : Nat) (f : Fumarole → Fumarole) : (s.modFum l f).layouts = s.layouts := rfl
@[simp] theorem modFum_checks (l : Nat) (f : Fumarole → Fumarole) : (s.modFum l f).checks = s.checks := rfl
@[simp] theorem modFum_stale (l : Nat) (f : Fumarole → Fumarole) : (s.modFum l f).stale = s.stale := rfl
@[simp] theorem modFum_retired (l : Nat) (f : Fumarole → Fumarole) : (s.modFum l f).retired = s.retired := rfl
@[simp] theorem modFum_raf (l : Nat) (f : Fumarole → Fumarole) : (s.modFum l f).raf = s.raf := rfl
@[simp] theorem modFum_accesses (l : Nat) (f : Fumarole → Fumarole) : (s.modFum l f).accesses = s.accesses := rfl
@[simp] theorem modFum_nextAccess (l : Nat) (f : Fumarole → Fumarole) : (s.modFum l f).nextAccess = s.nextAccess := rfl
@[simp] theorem modFum_nextSeq (l : Nat) (f : Fumarole → Fumarole) : (s.modFum l f).nextSeq = s.nextSeq := rfl
@[simp] theorem modFum_invalidations (l : Nat) (f : Fumarole → Fumarole) : (s.modFum l f).invalidations = s.invalidations := rfl
@[simp] theorem modFum_tenantFailures (l : Nat) (f : Fumarole → Fumarole) : (s.modFum l f).tenantFailures = s.tenantFailures := rfl
@[simp] theorem modFum_walks (l : Nat) (f : Fumarole → Fumarole) : (s.modFum l f).walks = s.walks := rfl
@[simp] theorem modFum_owner (l : Nat) (f : Fumarole → Fumarole) : (s.modFum l f).owner = s.owner := rfl
@[simp] theorem modFum_exports (l : Nat) (f : Fumarole → Fumarole) : (s.modFum l f).exports = s.exports := rfl
@[simp] theorem modFum_nextWait (l : Nat) (f : Fumarole → Fumarole) : (s.modFum l f).nextWait = s.nextWait := rfl
@[simp] theorem modFum_funcs (l : Nat) (f : Fumarole → Fumarole) : (s.modFum l f).funcs = s.funcs := rfl
@[simp] theorem modFum_windows (l : Nat) (f : Fumarole → Fumarole) : (s.modFum l f).windows = s.windows := rfl
@[simp] theorem modFum_firmware (l : Nat) (f : Fumarole → Fumarole) : (s.modFum l f).firmware = s.firmware := rfl
@[simp] theorem modFum_power (l : Nat) (f : Fumarole → Fumarole) : (s.modFum l f).power = s.power := rfl
@[simp] theorem modFum_msix (l : Nat) (f : Fumarole → Fumarole) : (s.modFum l f).msix = s.msix := rfl
@[simp] theorem modFum_hostValue (l : Nat) (f : Fumarole → Fumarole) : (s.modFum l f).hostValue = s.hostValue := rfl
@[simp] theorem modFum_inputs (l : Nat) (f : Fumarole → Fumarole) : (s.modFum l f).inputs = s.inputs := rfl
@[simp] theorem modFum_clock (l : Nat) (f : Fumarole → Fumarole) : (s.modFum l f).clock = s.clock := rfl
@[simp] theorem modFum_choices (l : Nat) (f : Fumarole → Fumarole) : (s.modFum l f).choices = s.choices := rfl
@[simp] theorem modFum_cur (l : Nat) (f : Fumarole → Fumarole) : (s.modFum l f).cur = s.cur := rfl

/-! ## `modWindows` -/

@[simp] theorem modWindows_parts (f : Windows → Windows) : (s.modWindows f).parts = s.parts := rfl
@[simp] theorem modWindows_homes (f : Windows → Windows) : (s.modWindows f).homes = s.homes := rfl
@[simp] theorem modWindows_calderas (f : Windows → Windows) : (s.modWindows f).calderas = s.calderas := rfl
@[simp] theorem modWindows_mem (f : Windows → Windows) : (s.modWindows f).mem = s.mem := rfl
@[simp] theorem modWindows_poison (f : Windows → Windows) : (s.modWindows f).poison = s.poison := rfl
@[simp] theorem modWindows_bank (f : Windows → Windows) : (s.modWindows f).bank = s.bank := rfl
@[simp] theorem modWindows_layouts (f : Windows → Windows) : (s.modWindows f).layouts = s.layouts := rfl
@[simp] theorem modWindows_checks (f : Windows → Windows) : (s.modWindows f).checks = s.checks := rfl
@[simp] theorem modWindows_stale (f : Windows → Windows) : (s.modWindows f).stale = s.stale := rfl
@[simp] theorem modWindows_retired (f : Windows → Windows) : (s.modWindows f).retired = s.retired := rfl
@[simp] theorem modWindows_raf (f : Windows → Windows) : (s.modWindows f).raf = s.raf := rfl
@[simp] theorem modWindows_accesses (f : Windows → Windows) : (s.modWindows f).accesses = s.accesses := rfl
@[simp] theorem modWindows_nextAccess (f : Windows → Windows) : (s.modWindows f).nextAccess = s.nextAccess := rfl
@[simp] theorem modWindows_nextSeq (f : Windows → Windows) : (s.modWindows f).nextSeq = s.nextSeq := rfl
@[simp] theorem modWindows_invalidations (f : Windows → Windows) : (s.modWindows f).invalidations = s.invalidations := rfl
@[simp] theorem modWindows_tenantFailures (f : Windows → Windows) : (s.modWindows f).tenantFailures = s.tenantFailures := rfl
@[simp] theorem modWindows_walks (f : Windows → Windows) : (s.modWindows f).walks = s.walks := rfl
@[simp] theorem modWindows_owner (f : Windows → Windows) : (s.modWindows f).owner = s.owner := rfl
@[simp] theorem modWindows_exports (f : Windows → Windows) : (s.modWindows f).exports = s.exports := rfl
@[simp] theorem modWindows_nextWait (f : Windows → Windows) : (s.modWindows f).nextWait = s.nextWait := rfl
@[simp] theorem modWindows_funcs (f : Windows → Windows) : (s.modWindows f).funcs = s.funcs := rfl
@[simp] theorem modWindows_fumaroles (f : Windows → Windows) : (s.modWindows f).fumaroles = s.fumaroles := rfl
@[simp] theorem modWindows_firmware (f : Windows → Windows) : (s.modWindows f).firmware = s.firmware := rfl
@[simp] theorem modWindows_power (f : Windows → Windows) : (s.modWindows f).power = s.power := rfl
@[simp] theorem modWindows_msix (f : Windows → Windows) : (s.modWindows f).msix = s.msix := rfl
@[simp] theorem modWindows_hostValue (f : Windows → Windows) : (s.modWindows f).hostValue = s.hostValue := rfl
@[simp] theorem modWindows_inputs (f : Windows → Windows) : (s.modWindows f).inputs = s.inputs := rfl
@[simp] theorem modWindows_clock (f : Windows → Windows) : (s.modWindows f).clock = s.clock := rfl
@[simp] theorem modWindows_choices (f : Windows → Windows) : (s.modWindows f).choices = s.choices := rfl
@[simp] theorem modWindows_cur (f : Windows → Windows) : (s.modWindows f).cur = s.cur := rfl

/-! ## `setAccess` -/

@[simp] theorem setAccess_parts (id : Nat) (x : Access) : (s.setAccess id x).parts = s.parts := rfl
@[simp] theorem setAccess_homes (id : Nat) (x : Access) : (s.setAccess id x).homes = s.homes := rfl
@[simp] theorem setAccess_calderas (id : Nat) (x : Access) : (s.setAccess id x).calderas = s.calderas := rfl
@[simp] theorem setAccess_mem (id : Nat) (x : Access) : (s.setAccess id x).mem = s.mem := rfl
@[simp] theorem setAccess_poison (id : Nat) (x : Access) : (s.setAccess id x).poison = s.poison := rfl
@[simp] theorem setAccess_bank (id : Nat) (x : Access) : (s.setAccess id x).bank = s.bank := rfl
@[simp] theorem setAccess_layouts (id : Nat) (x : Access) : (s.setAccess id x).layouts = s.layouts := rfl
@[simp] theorem setAccess_checks (id : Nat) (x : Access) : (s.setAccess id x).checks = s.checks := rfl
@[simp] theorem setAccess_stale (id : Nat) (x : Access) : (s.setAccess id x).stale = s.stale := rfl
@[simp] theorem setAccess_retired (id : Nat) (x : Access) : (s.setAccess id x).retired = s.retired := rfl
@[simp] theorem setAccess_raf (id : Nat) (x : Access) : (s.setAccess id x).raf = s.raf := rfl
@[simp] theorem setAccess_nextAccess (id : Nat) (x : Access) : (s.setAccess id x).nextAccess = s.nextAccess := rfl
@[simp] theorem setAccess_nextSeq (id : Nat) (x : Access) : (s.setAccess id x).nextSeq = s.nextSeq := rfl
@[simp] theorem setAccess_invalidations (id : Nat) (x : Access) : (s.setAccess id x).invalidations = s.invalidations := rfl
@[simp] theorem setAccess_tenantFailures (id : Nat) (x : Access) : (s.setAccess id x).tenantFailures = s.tenantFailures := rfl
@[simp] theorem setAccess_walks (id : Nat) (x : Access) : (s.setAccess id x).walks = s.walks := rfl
@[simp] theorem setAccess_owner (id : Nat) (x : Access) : (s.setAccess id x).owner = s.owner := rfl
@[simp] theorem setAccess_exports (id : Nat) (x : Access) : (s.setAccess id x).exports = s.exports := rfl
@[simp] theorem setAccess_nextWait (id : Nat) (x : Access) : (s.setAccess id x).nextWait = s.nextWait := rfl
@[simp] theorem setAccess_funcs (id : Nat) (x : Access) : (s.setAccess id x).funcs = s.funcs := rfl
@[simp] theorem setAccess_windows (id : Nat) (x : Access) : (s.setAccess id x).windows = s.windows := rfl
@[simp] theorem setAccess_fumaroles (id : Nat) (x : Access) : (s.setAccess id x).fumaroles = s.fumaroles := rfl
@[simp] theorem setAccess_firmware (id : Nat) (x : Access) : (s.setAccess id x).firmware = s.firmware := rfl
@[simp] theorem setAccess_power (id : Nat) (x : Access) : (s.setAccess id x).power = s.power := rfl
@[simp] theorem setAccess_msix (id : Nat) (x : Access) : (s.setAccess id x).msix = s.msix := rfl
@[simp] theorem setAccess_hostValue (id : Nat) (x : Access) : (s.setAccess id x).hostValue = s.hostValue := rfl
@[simp] theorem setAccess_inputs (id : Nat) (x : Access) : (s.setAccess id x).inputs = s.inputs := rfl
@[simp] theorem setAccess_clock (id : Nat) (x : Access) : (s.setAccess id x).clock = s.clock := rfl
@[simp] theorem setAccess_choices (id : Nat) (x : Access) : (s.setAccess id x).choices = s.choices := rfl
@[simp] theorem setAccess_cur (id : Nat) (x : Access) : (s.setAccess id x).cur = s.cur := rfl

/-! ## `dropAccess` -/

@[simp] theorem dropAccess_parts (id : Nat) : (s.dropAccess id).parts = s.parts := rfl
@[simp] theorem dropAccess_homes (id : Nat) : (s.dropAccess id).homes = s.homes := rfl
@[simp] theorem dropAccess_calderas (id : Nat) : (s.dropAccess id).calderas = s.calderas := rfl
@[simp] theorem dropAccess_mem (id : Nat) : (s.dropAccess id).mem = s.mem := rfl
@[simp] theorem dropAccess_poison (id : Nat) : (s.dropAccess id).poison = s.poison := rfl
@[simp] theorem dropAccess_bank (id : Nat) : (s.dropAccess id).bank = s.bank := rfl
@[simp] theorem dropAccess_layouts (id : Nat) : (s.dropAccess id).layouts = s.layouts := rfl
@[simp] theorem dropAccess_checks (id : Nat) : (s.dropAccess id).checks = s.checks := rfl
@[simp] theorem dropAccess_stale (id : Nat) : (s.dropAccess id).stale = s.stale := rfl
@[simp] theorem dropAccess_retired (id : Nat) : (s.dropAccess id).retired = s.retired := rfl
@[simp] theorem dropAccess_raf (id : Nat) : (s.dropAccess id).raf = s.raf := rfl
@[simp] theorem dropAccess_nextAccess (id : Nat) : (s.dropAccess id).nextAccess = s.nextAccess := rfl
@[simp] theorem dropAccess_nextSeq (id : Nat) : (s.dropAccess id).nextSeq = s.nextSeq := rfl
@[simp] theorem dropAccess_invalidations (id : Nat) : (s.dropAccess id).invalidations = s.invalidations := rfl
@[simp] theorem dropAccess_tenantFailures (id : Nat) : (s.dropAccess id).tenantFailures = s.tenantFailures := rfl
@[simp] theorem dropAccess_walks (id : Nat) : (s.dropAccess id).walks = s.walks := rfl
@[simp] theorem dropAccess_owner (id : Nat) : (s.dropAccess id).owner = s.owner := rfl
@[simp] theorem dropAccess_exports (id : Nat) : (s.dropAccess id).exports = s.exports := rfl
@[simp] theorem dropAccess_nextWait (id : Nat) : (s.dropAccess id).nextWait = s.nextWait := rfl
@[simp] theorem dropAccess_funcs (id : Nat) : (s.dropAccess id).funcs = s.funcs := rfl
@[simp] theorem dropAccess_windows (id : Nat) : (s.dropAccess id).windows = s.windows := rfl
@[simp] theorem dropAccess_fumaroles (id : Nat) : (s.dropAccess id).fumaroles = s.fumaroles := rfl
@[simp] theorem dropAccess_firmware (id : Nat) : (s.dropAccess id).firmware = s.firmware := rfl
@[simp] theorem dropAccess_power (id : Nat) : (s.dropAccess id).power = s.power := rfl
@[simp] theorem dropAccess_msix (id : Nat) : (s.dropAccess id).msix = s.msix := rfl
@[simp] theorem dropAccess_hostValue (id : Nat) : (s.dropAccess id).hostValue = s.hostValue := rfl
@[simp] theorem dropAccess_inputs (id : Nat) : (s.dropAccess id).inputs = s.inputs := rfl
@[simp] theorem dropAccess_clock (id : Nat) : (s.dropAccess id).clock = s.clock := rfl
@[simp] theorem dropAccess_choices (id : Nat) : (s.dropAccess id).choices = s.choices := rfl
@[simp] theorem dropAccess_cur (id : Nat) : (s.dropAccess id).cur = s.cur := rfl

/-! ## `choose` -/

@[simp] theorem choose_parts (n : Nat) : (s.choose n).1.parts = s.parts := rfl
@[simp] theorem choose_homes (n : Nat) : (s.choose n).1.homes = s.homes := rfl
@[simp] theorem choose_calderas (n : Nat) : (s.choose n).1.calderas = s.calderas := rfl
@[simp] theorem choose_mem (n : Nat) : (s.choose n).1.mem = s.mem := rfl
@[simp] theorem choose_poison (n : Nat) : (s.choose n).1.poison = s.poison := rfl
@[simp] theorem choose_bank (n : Nat) : (s.choose n).1.bank = s.bank := rfl
@[simp] theorem choose_layouts (n : Nat) : (s.choose n).1.layouts = s.layouts := rfl
@[simp] theorem choose_checks (n : Nat) : (s.choose n).1.checks = s.checks := rfl
@[simp] theorem choose_stale (n : Nat) : (s.choose n).1.stale = s.stale := rfl
@[simp] theorem choose_retired (n : Nat) : (s.choose n).1.retired = s.retired := rfl
@[simp] theorem choose_raf (n : Nat) : (s.choose n).1.raf = s.raf := rfl
@[simp] theorem choose_accesses (n : Nat) : (s.choose n).1.accesses = s.accesses := rfl
@[simp] theorem choose_nextAccess (n : Nat) : (s.choose n).1.nextAccess = s.nextAccess := rfl
@[simp] theorem choose_nextSeq (n : Nat) : (s.choose n).1.nextSeq = s.nextSeq := rfl
@[simp] theorem choose_invalidations (n : Nat) : (s.choose n).1.invalidations = s.invalidations := rfl
@[simp] theorem choose_tenantFailures (n : Nat) : (s.choose n).1.tenantFailures = s.tenantFailures := rfl
@[simp] theorem choose_walks (n : Nat) : (s.choose n).1.walks = s.walks := rfl
@[simp] theorem choose_owner (n : Nat) : (s.choose n).1.owner = s.owner := rfl
@[simp] theorem choose_exports (n : Nat) : (s.choose n).1.exports = s.exports := rfl
@[simp] theorem choose_nextWait (n : Nat) : (s.choose n).1.nextWait = s.nextWait := rfl
@[simp] theorem choose_funcs (n : Nat) : (s.choose n).1.funcs = s.funcs := rfl
@[simp] theorem choose_windows (n : Nat) : (s.choose n).1.windows = s.windows := rfl
@[simp] theorem choose_fumaroles (n : Nat) : (s.choose n).1.fumaroles = s.fumaroles := rfl
@[simp] theorem choose_firmware (n : Nat) : (s.choose n).1.firmware = s.firmware := rfl
@[simp] theorem choose_power (n : Nat) : (s.choose n).1.power = s.power := rfl
@[simp] theorem choose_msix (n : Nat) : (s.choose n).1.msix = s.msix := rfl
@[simp] theorem choose_hostValue (n : Nat) : (s.choose n).1.hostValue = s.hostValue := rfl
@[simp] theorem choose_inputs (n : Nat) : (s.choose n).1.inputs = s.inputs := rfl
@[simp] theorem choose_clock (n : Nat) : (s.choose n).1.clock = s.clock := rfl
@[simp] theorem choose_cur (n : Nat) : (s.choose n).1.cur = s.cur := rfl

/-! ## `setCtx` and `modCtx` -/

/-- The thread at hand is written into the partitions, and nothing else changes. -/
theorem setCtx_eq (c : Ctx) : ∃ x, s.setCtx c = { s with parts := x } := by
  unfold setCtx
  split <;> exact ⟨_, rfl⟩

@[simp] theorem setCtx_homes (c : Ctx) : (s.setCtx c).homes = s.homes := by
  obtain ⟨x, h⟩ := s.setCtx_eq c
  rw [h]
@[simp] theorem setCtx_calderas (c : Ctx) : (s.setCtx c).calderas = s.calderas := by
  obtain ⟨x, h⟩ := s.setCtx_eq c
  rw [h]
@[simp] theorem setCtx_mem (c : Ctx) : (s.setCtx c).mem = s.mem := by
  obtain ⟨x, h⟩ := s.setCtx_eq c
  rw [h]
@[simp] theorem setCtx_poison (c : Ctx) : (s.setCtx c).poison = s.poison := by
  obtain ⟨x, h⟩ := s.setCtx_eq c
  rw [h]
@[simp] theorem setCtx_bank (c : Ctx) : (s.setCtx c).bank = s.bank := by
  obtain ⟨x, h⟩ := s.setCtx_eq c
  rw [h]
@[simp] theorem setCtx_layouts (c : Ctx) : (s.setCtx c).layouts = s.layouts := by
  obtain ⟨x, h⟩ := s.setCtx_eq c
  rw [h]
@[simp] theorem setCtx_checks (c : Ctx) : (s.setCtx c).checks = s.checks := by
  obtain ⟨x, h⟩ := s.setCtx_eq c
  rw [h]
@[simp] theorem setCtx_stale (c : Ctx) : (s.setCtx c).stale = s.stale := by
  obtain ⟨x, h⟩ := s.setCtx_eq c
  rw [h]
@[simp] theorem setCtx_retired (c : Ctx) : (s.setCtx c).retired = s.retired := by
  obtain ⟨x, h⟩ := s.setCtx_eq c
  rw [h]
@[simp] theorem setCtx_raf (c : Ctx) : (s.setCtx c).raf = s.raf := by
  obtain ⟨x, h⟩ := s.setCtx_eq c
  rw [h]
@[simp] theorem setCtx_accesses (c : Ctx) : (s.setCtx c).accesses = s.accesses := by
  obtain ⟨x, h⟩ := s.setCtx_eq c
  rw [h]
@[simp] theorem setCtx_nextAccess (c : Ctx) : (s.setCtx c).nextAccess = s.nextAccess := by
  obtain ⟨x, h⟩ := s.setCtx_eq c
  rw [h]
@[simp] theorem setCtx_nextSeq (c : Ctx) : (s.setCtx c).nextSeq = s.nextSeq := by
  obtain ⟨x, h⟩ := s.setCtx_eq c
  rw [h]
@[simp] theorem setCtx_invalidations (c : Ctx) : (s.setCtx c).invalidations = s.invalidations := by
  obtain ⟨x, h⟩ := s.setCtx_eq c
  rw [h]
@[simp] theorem setCtx_tenantFailures (c : Ctx) : (s.setCtx c).tenantFailures = s.tenantFailures := by
  obtain ⟨x, h⟩ := s.setCtx_eq c
  rw [h]
@[simp] theorem setCtx_walks (c : Ctx) : (s.setCtx c).walks = s.walks := by
  obtain ⟨x, h⟩ := s.setCtx_eq c
  rw [h]
@[simp] theorem setCtx_owner (c : Ctx) : (s.setCtx c).owner = s.owner := by
  obtain ⟨x, h⟩ := s.setCtx_eq c
  rw [h]
@[simp] theorem setCtx_exports (c : Ctx) : (s.setCtx c).exports = s.exports := by
  obtain ⟨x, h⟩ := s.setCtx_eq c
  rw [h]
@[simp] theorem setCtx_nextWait (c : Ctx) : (s.setCtx c).nextWait = s.nextWait := by
  obtain ⟨x, h⟩ := s.setCtx_eq c
  rw [h]
@[simp] theorem setCtx_funcs (c : Ctx) : (s.setCtx c).funcs = s.funcs := by
  obtain ⟨x, h⟩ := s.setCtx_eq c
  rw [h]
@[simp] theorem setCtx_windows (c : Ctx) : (s.setCtx c).windows = s.windows := by
  obtain ⟨x, h⟩ := s.setCtx_eq c
  rw [h]
@[simp] theorem setCtx_fumaroles (c : Ctx) : (s.setCtx c).fumaroles = s.fumaroles := by
  obtain ⟨x, h⟩ := s.setCtx_eq c
  rw [h]
@[simp] theorem setCtx_firmware (c : Ctx) : (s.setCtx c).firmware = s.firmware := by
  obtain ⟨x, h⟩ := s.setCtx_eq c
  rw [h]
@[simp] theorem setCtx_power (c : Ctx) : (s.setCtx c).power = s.power := by
  obtain ⟨x, h⟩ := s.setCtx_eq c
  rw [h]
@[simp] theorem setCtx_msix (c : Ctx) : (s.setCtx c).msix = s.msix := by
  obtain ⟨x, h⟩ := s.setCtx_eq c
  rw [h]
@[simp] theorem setCtx_hostValue (c : Ctx) : (s.setCtx c).hostValue = s.hostValue := by
  obtain ⟨x, h⟩ := s.setCtx_eq c
  rw [h]
@[simp] theorem setCtx_inputs (c : Ctx) : (s.setCtx c).inputs = s.inputs := by
  obtain ⟨x, h⟩ := s.setCtx_eq c
  rw [h]
@[simp] theorem setCtx_clock (c : Ctx) : (s.setCtx c).clock = s.clock := by
  obtain ⟨x, h⟩ := s.setCtx_eq c
  rw [h]
@[simp] theorem setCtx_choices (c : Ctx) : (s.setCtx c).choices = s.choices := by
  obtain ⟨x, h⟩ := s.setCtx_eq c
  rw [h]
@[simp] theorem setCtx_cur (c : Ctx) : (s.setCtx c).cur = s.cur := by
  obtain ⟨x, h⟩ := s.setCtx_eq c
  rw [h]
@[simp] theorem modCtx_homes (f : Ctx → Ctx) : (s.modCtx f).homes = s.homes := setCtx_homes s _
@[simp] theorem modCtx_calderas (f : Ctx → Ctx) : (s.modCtx f).calderas = s.calderas := setCtx_calderas s _
@[simp] theorem modCtx_mem (f : Ctx → Ctx) : (s.modCtx f).mem = s.mem := setCtx_mem s _
@[simp] theorem modCtx_poison (f : Ctx → Ctx) : (s.modCtx f).poison = s.poison := setCtx_poison s _
@[simp] theorem modCtx_bank (f : Ctx → Ctx) : (s.modCtx f).bank = s.bank := setCtx_bank s _
@[simp] theorem modCtx_layouts (f : Ctx → Ctx) : (s.modCtx f).layouts = s.layouts := setCtx_layouts s _
@[simp] theorem modCtx_checks (f : Ctx → Ctx) : (s.modCtx f).checks = s.checks := setCtx_checks s _
@[simp] theorem modCtx_stale (f : Ctx → Ctx) : (s.modCtx f).stale = s.stale := setCtx_stale s _
@[simp] theorem modCtx_retired (f : Ctx → Ctx) : (s.modCtx f).retired = s.retired := setCtx_retired s _
@[simp] theorem modCtx_raf (f : Ctx → Ctx) : (s.modCtx f).raf = s.raf := setCtx_raf s _
@[simp] theorem modCtx_accesses (f : Ctx → Ctx) : (s.modCtx f).accesses = s.accesses := setCtx_accesses s _
@[simp] theorem modCtx_nextAccess (f : Ctx → Ctx) : (s.modCtx f).nextAccess = s.nextAccess := setCtx_nextAccess s _
@[simp] theorem modCtx_nextSeq (f : Ctx → Ctx) : (s.modCtx f).nextSeq = s.nextSeq := setCtx_nextSeq s _
@[simp] theorem modCtx_invalidations (f : Ctx → Ctx) : (s.modCtx f).invalidations = s.invalidations := setCtx_invalidations s _
@[simp] theorem modCtx_tenantFailures (f : Ctx → Ctx) : (s.modCtx f).tenantFailures = s.tenantFailures := setCtx_tenantFailures s _
@[simp] theorem modCtx_walks (f : Ctx → Ctx) : (s.modCtx f).walks = s.walks := setCtx_walks s _
@[simp] theorem modCtx_owner (f : Ctx → Ctx) : (s.modCtx f).owner = s.owner := setCtx_owner s _
@[simp] theorem modCtx_exports (f : Ctx → Ctx) : (s.modCtx f).exports = s.exports := setCtx_exports s _
@[simp] theorem modCtx_nextWait (f : Ctx → Ctx) : (s.modCtx f).nextWait = s.nextWait := setCtx_nextWait s _
@[simp] theorem modCtx_funcs (f : Ctx → Ctx) : (s.modCtx f).funcs = s.funcs := setCtx_funcs s _
@[simp] theorem modCtx_windows (f : Ctx → Ctx) : (s.modCtx f).windows = s.windows := setCtx_windows s _
@[simp] theorem modCtx_fumaroles (f : Ctx → Ctx) : (s.modCtx f).fumaroles = s.fumaroles := setCtx_fumaroles s _
@[simp] theorem modCtx_firmware (f : Ctx → Ctx) : (s.modCtx f).firmware = s.firmware := setCtx_firmware s _
@[simp] theorem modCtx_power (f : Ctx → Ctx) : (s.modCtx f).power = s.power := setCtx_power s _
@[simp] theorem modCtx_msix (f : Ctx → Ctx) : (s.modCtx f).msix = s.msix := setCtx_msix s _
@[simp] theorem modCtx_hostValue (f : Ctx → Ctx) : (s.modCtx f).hostValue = s.hostValue := setCtx_hostValue s _
@[simp] theorem modCtx_inputs (f : Ctx → Ctx) : (s.modCtx f).inputs = s.inputs := setCtx_inputs s _
@[simp] theorem modCtx_clock (f : Ctx → Ctx) : (s.modCtx f).clock = s.clock := setCtx_clock s _
@[simp] theorem modCtx_choices (f : Ctx → Ctx) : (s.modCtx f).choices = s.choices := setCtx_choices s _
@[simp] theorem modCtx_cur (f : Ctx → Ctx) : (s.modCtx f).cur = s.cur := setCtx_cur s _

/-! ## Reading back -/

@[simp] theorem part_setPart (p : Nat) (x : Partition) : (s.setPart p x).part p = x := by simp [part, setPart]
theorem part_setPart_ne {p r : Nat} (x : Partition) (h : r ≠ p) : (s.setPart p x).part r = s.part r := by
  simp [part, setPart, SMap.getD_put_ne, h]
@[simp] theorem part_modPart (p : Nat) (f : Partition → Partition) : (s.modPart p f).part p = f (s.part p) := by simp [modPart]
theorem part_modPart_ne {p r : Nat} (f : Partition → Partition) (h : r ≠ p) : (s.modPart p f).part r = s.part r :=
  part_setPart_ne s _ h

@[simp] theorem quad_setQuad (p q : Nat) (x : Quad) : (s.setQuad p q x).quad p q = x := by simp [quad, setQuad]
theorem quad_setQuad_ne {p q r : Nat} (x : Quad) (h : r ≠ q) : (s.setQuad p q x).quad p r = s.quad p r := by
  simp [quad, setQuad, SMap.getD_put_ne, h]
@[simp] theorem quad_modQuad (p q : Nat) (f : Quad → Quad) : (s.modQuad p q f).quad p q = f (s.quad p q) := by simp [modQuad]

@[simp] theorem core_setCore (p c : Nat) (x : Core) : (s.setCore p c x).core p c = x := by simp [core, setCore]
@[simp] theorem core_modCore (p c : Nat) (f : Core → Core) : (s.modCore p c f).core p c = f (s.core p c) := by simp [modCore]

@[simp] theorem context_setContext (p c n : Nat) (x : Ctx) : (s.setContext p c n x).context p c n = x := by
  simp [context, setContext]
theorem context_setContext_ne {p c n m : Nat} (x : Ctx) (h : m ≠ n) :
    (s.setContext p c n x).context p c m = s.context p c m := by
  simp [context, setContext, SMap.getD_put_ne, h]
@[simp] theorem context_modContext (p c n : Nat) (f : Ctx → Ctx) :
    (s.modContext p c n f).context p c n = f (s.context p c n) := by simp [modContext]

@[simp] theorem home_modHome (q : Nat) (f : Home → Home) : (s.modHome q f).home q = f (s.home q) := by simp [home, modHome]
theorem home_modHome_ne {q r : Nat} (f : Home → Home) (h : r ≠ q) : (s.modHome q f).home r = s.home r := by
  simp [home, modHome, SMap.getD_put_ne, h]
@[simp] theorem caldera_modCaldera (k : Nat) (f : Caldera → Caldera) : (s.modCaldera k f).caldera k = f (s.caldera k) := by
  simp [caldera, modCaldera]
@[simp] theorem func_modFunc (k : Nat) (f : Func → Func) : (s.modFunc k f).func k = f (s.func k) := by simp [func, modFunc]
@[simp] theorem fum_modFum (l : Nat) (f : Fumarole → Fumarole) : (s.modFum l f).fum l = f (s.fum l) := by simp [fum, modFum]
@[simp] theorem find_setAccess (id : Nat) (x : Access) : (s.setAccess id x).accesses.find? id = some x := by simp [setAccess]

/-- The thread at hand, when it is not a shadow set, reads back what was written. -/
theorem ctx_setCtx (h : s.cur.shadow = false) (c : Ctx) : (s.setCtx c).ctx = c := by
  simp [setCtx, ctx, h]

theorem ctx_modCtx (h : s.cur.shadow = false) (f : Ctx → Ctx) : (s.modCtx f).ctx = f s.ctx := ctx_setCtx s h _

/-- A shadow set reads back what was written, but that it has no channels (R105). -/
theorem ctx_setCtx_shadow (h : s.cur.shadow = true) (c : Ctx) : (s.setCtx c).ctx = { c with chans := [] } := by
  simp [setCtx, ctx, h, curCore, modCurCore, context, setContext, overlay, underlay, beneath]

/-- Two writes of the thread at hand are the later one. -/
theorem setCtx_setCtx (h : s.cur.shadow = false) (c d : Ctx) : (s.setCtx c).setCtx d = s.setCtx d := by
  simp [setCtx, h, setContext, modCore, setCore, modQuad, setQuad, modPart, setPart, core, quad, part]

theorem modCtx_modCtx (h : s.cur.shadow = false) (f g : Ctx → Ctx) : (s.modCtx f).modCtx g = s.modCtx fun c => g (f c) := by
  unfold modCtx
  rw [setCtx_setCtx s h, ctx_setCtx s h]

end Sys2Proof.Machine.State
end

