-- ==== Sys2Proof/Laws/Home.lean ====
section
/-!
SUPPORT. What turning a line dirty and writing lines back can do: which bank copies they drop, and that neither touches memory (R96, R97).
-/
namespace Sys2Proof.Machine.State

@[simp] theorem markBlock_mem (s : State) (pa : Nat) : (s.markBlock pa).mem = s.mem := by
  unfold markBlock; repeat (first | rfl | split)

@[simp] theorem chooseFor_mem (s : State) (p n : Nat) : (s.chooseFor p n).1.mem = s.mem := by
  unfold chooseFor chooseOwn; repeat (first | rfl | split)

theorem foldl_mem {α : Type} (f : State → α → State) (hf : ∀ s x, (f s x).mem = s.mem) (l : List α) :
    ∀ s, (l.foldl f s).mem = s.mem := by
  induction l with
  | nil => intro s; rfl
  | cons x t ih => intro s; rw [List.foldl_cons, ih, hf]

@[simp] theorem cleanLines_mem (s : State) (which : Nat → Bool) : (s.cleanLines which).mem = s.mem := by
  unfold cleanLines
  exact foldl_mem _ (fun s x => by split <;> simp) _ _

@[simp] theorem makeRoom_mem (s : State) (l : Nat) : (s.makeRoom l).mem = s.mem := by
  unfold makeRoom
  simp only
  split
  · rfl
  · split <;> simp [choose]

@[simp] theorem keepCheck_mem (s : State) (l n : Nat) : (s.keepCheck l n).mem = s.mem := by
  unfold keepCheck; split <;> rfl

/-- Bytes put into a line are written to memory, whatever the slice cache writes back for them. -/
theorem putBytes_mem (s : State) (pa : Nat) (bytes : List Byte) :
    (s.putBytes pa bytes).mem = Memory.writeList s.mem pa bytes := by
  unfold putBytes
  simp only [markBlock_mem, keepCheck_mem]
  split <;> simp

@[simp] theorem useBanks_mem (s : State) (p core addr n : Nat) : (s.useBanks p core addr n).mem = s.mem := rfl

@[simp] theorem useBanks_accesses (s : State) (p core addr n : Nat) : (s.useBanks p core addr n).accesses = s.accesses := rfl

end Sys2Proof.Machine.State
end

