-- ==== Sys2Proof/Laws/Ops.lean ====
section
/-!
SUPPORT. What each shared operation of `Machine/Ops.lean` and `Machine/Operands.lean` can do, once.
-/
namespace Sys2Proof.Machine

namespace State

/-! ## How an instruction ends -/

theorem settle_ok (s t : State) : s.settle (.ok t) = t.endWalks := rfl
theorem settle_trap (s : State) (cause : Nat) (v : Word64) :
    s.settle (.error (.trap cause v)) = (s.takeTrap cause v s.ctx.pc).endWalks := rfl
theorem settle_trapIn (s t : State) (cause : Nat) (v : Word64) :
    s.settle (.error (.trapIn t cause v)) = (t.takeTrap cause v s.ctx.pc).endWalks := rfl
theorem settle_park (s t : State) (w : Wait) (h : w ≠ .walks) :
    s.settle (.error (.park t w)) = t.endWalks.park w := by
  cases w <;> first | rfl | exact absurd rfl h
theorem settle_walks (s t : State) : s.settle (.error (.park t .walks)) = t.park .walks := rfl
theorem settle_drop (s t : State) (asid va : Nat) :
    s.settle (.error (.drop t asid va)) = (t.modCtx fun c => { c with state := .dropped asid va }).endWalks := rfl

/-! ## Operands -/

/-- Registers that are full and not poisoned can be read. -/
theorem ready_ok {s : State} {l : List Reg} (h : ∀ r ∈ l, (s.reg r).full = true ∧ (s.reg r).poison = none) :
    s.ready l = .ok () := by
  induction l with
  | nil => rfl
  | cons r t ih =>
    have hr := h r (by simp)
    simp only [ready, hr.1, hr.2, if_true]
    exact ih fun x hx => h x (by simp [hx])

/-- An empty register at the head of the sources parks the thread until it is full. -/
theorem ready_park {s : State} {r : Reg} {t : List Reg} (h : (s.reg r).full = false) (hp : (s.reg r).poison = none) :
    s.ready (r :: t) = .error (.park s (.full r)) := by simp [ready, h, hp]

/-- A poisoned answer at the head of the sources traps with its address. -/
theorem ready_poison {s : State} {r : Reg} {t : List Reg} {a : Nat} (hp : (s.reg r).poison = some a) :
    s.ready (r :: t) = .error (.trap causePoison (BitVec.ofNat 64 a)) := by simp [ready, hp, trapN]

/-- A destination with no result pending, and of an output channel with no acquire unanswered and room in its port, can be written. -/
theorem free_ok {s : State} {d : Reg} (h : (s.reg d).pending = false)
    (hp : ((s.chan d).all fun c => decide (c.dir ≠ .out) ||
      (s.ctx.acquiring.isEmpty && decide (s.portUsed s.cur.part s.cur.core < 8))) = true) :
    s.free d = .ok () := by
  unfold free
  cases hc : s.chan d with
  | none => simp [h]
  | some c =>
    simp only [hc, Option.all_some, Bool.or_eq_true, Bool.and_eq_true, decide_eq_true_eq, List.isEmpty_iff] at hp
    by_cases ho : c.dir = ChanDir.out
    · obtain ⟨ha, hr⟩ := hp.resolve_left fun x => x ho
      simp [h, ha, Nat.not_le.mpr hr]
    · simp [h, ho]

/-- A destination whose result is pending parks the thread until it has come. -/
theorem free_park {s : State} {d : Reg} (h : (s.reg d).pending = true) : s.free d = .error (.park s (.settled d)) := by
  simp [free, h]

/-- A synchronous instruction whose operands stand. -/
theorem alu_ok {s : State} {len : Nat} {d : Reg} {srcs : List Reg} {v : Word64} {f : Flags}
    (hr : s.ready srcs = .ok ()) (hf : s.free d = .ok ()) :
    s.alu len d srcs v f = .ok ((((s.consume srcs).write d v).mergeFlags f).advance len) := by
  simp [alu, hr, hf, bind, Except.bind, pure, Except.pure]

theorem acquired_ok {s : State} (h : s.ctx.acquiring = []) : s.acquired = .ok () := by simp [acquired, h]

end State

/-- An access inside its segment, with the rights it needs, has its address. -/
theorem Segment.check_ok {g : Segment} {off : Int} {size : Nat} {right : BitVec 7} (h0 : 0 ≤ off)
    (h1 : off + size ≤ g.limit.toNat) (h2 : (g.base.toNat : Int) + off + size ≤ 2 ^ 52) (h3 : g.rights &&& right = right)
    (h4 : g.isK = true → right &&& (rightX ||| rightT ||| rightB) = 0 ∧ (g.base.toNat : Int) + off + size ≤ 65536) :
    g.check off size right = .ok (g.addr off) := by
  have h : ¬ (off < 0 ∨ (g.limit.toNat : Int) < off + size ∨ (2 ^ 52 : Nat) < (g.base.toNat : Int) + off + size ∨
      g.rights &&& right ≠ right ∨
      (g.isK ∧ (right &&& (rightX ||| rightT ||| rightB) ≠ 0 ∨ (65536 : Nat) < (g.base.toNat : Int) + off + size))) := by
    simp only [not_or, not_and, Int.not_lt, ne_eq, Decidable.not_not]
    refine ⟨h0, h1, by omega, h3, fun hk => ?_⟩
    have := h4 hk
    exact ⟨this.1, by omega⟩
  simp only [Segment.check, if_neg h]

theorem aligned_ok {addr n : Nat} (h : addr % n = 0) : aligned addr n = .ok () := by simp [aligned, h]

end Sys2Proof.Machine
end

