-- ==== Sys2Proof/Laws/Reads.lean ====
section
/-!
SUPPORT. What a read of a line, and of a range, answers: for the engines, the hub and the walkers, whose meanings read through
`State.readLine` and `engineReadMem`.
-/
namespace Sys2Proof.Machine

namespace EngineRead
@[simp] theorem before_bytes (b t : List Byte) (po q : Option Nat) :
    (bytes t q).before b po = bytes (b ++ t) (match po with | some l => some l | none => q) := rfl
@[simp] theorem before_held (b : List Byte) (po : Option Nat) : held.before b po = held := rfl
@[simp] theorem before_fault (b : List Byte) (po : Option Nat) (k va : Nat) : (fault k va).before b po = fault k va := rfl
@[simp] theorem before_refused (b : List Byte) (po : Option Nat) (va : Nat) : (refused va).before b po = refused va := rfl
@[simp] theorem waiting_bytes (t : List Byte) (q : Option Nat) : (bytes t q).waiting = held := rfl
@[simp] theorem waiting_held : held.waiting = held := rfl
@[simp] theorem waiting_fault (k va : Nat) : (fault k va).waiting = fault k va := rfl
@[simp] theorem waiting_refused (va : Nat) : (refused va).waiting = refused va := rfl
end EngineRead

/-- A line that has come is read without a change. -/
theorem State.readLine_fetched {s : State} {r : Reader} {va n : Nat} {f : Fetched}
    (h : s.fetchedAt r.part r.issuer r.tag va = some f) : s.readLine r va n = (s, .bytes f.bytes f.poison) := by
  simp [readLine, h]

/-- A line that is on its way makes its reader wait, and is not asked for again. -/
theorem State.readLine_fetching {s : State} {r : Reader} {va n : Nat} (h : s.fetchedAt r.part r.issuer r.tag va = none)
    (hf : s.fetching r.part r.issuer r.tag va = true) : s.readLine r va n = (s, .held) := by
  simp [readLine, h, hf]

/-- A line that is not is translated, and its read is sent. -/
theorem State.readLine_sent {s t : State} {r : Reader} {va n : Nat} {x : Phys} (h : s.fetchedAt r.part r.issuer r.tag va = none)
    (hf : s.fetching r.part r.issuer r.tag va = false) (ht : s.translateNow r.issuer r.part r.quad r.tid r.asid va = (t, .ok x)) :
    s.readLine r va n = (t.sendFetch r.issuer r.part r.quad r.tid r.tag r.asid va x.pa n r.leaving, .held) := by
  simp [readLine, h, hf, ht]

/-- A page that is not resident, or whose walk has not ended, is what the read of a line answers. -/
theorem State.readLine_fault {s t : State} {r : Reader} {va n kind : Nat} (h : s.fetchedAt r.part r.issuer r.tag va = none)
    (hf : s.fetching r.part r.issuer r.tag va = false)
    (ht : s.translateNow r.issuer r.part r.quad r.tid r.asid va = (t, .error (.fault kind))) : s.readLine r va n = (t, .fault kind va) := by
  simp [readLine, h, hf, ht]
theorem State.readLine_held {s t : State} {r : Reader} {va n : Nat} (h : s.fetchedAt r.part r.issuer r.tag va = none)
    (hf : s.fetching r.part r.issuer r.tag va = false)
    (ht : s.translateNow r.issuer r.part r.quad r.tid r.asid va = (t, .error .held)) : s.readLine r va n = (t, .held) := by
  simp [readLine, h, hf, ht]

@[simp] theorem engineReadMem_zero (r : Reader) (fuel : Nat) (s : State) (va : Nat) : engineReadMem r fuel s va 0 = (s, .bytes [] none) := by
  cases fuel <;> rfl

/-- A range within one line is the read of that line. -/
theorem engineReadMem_line {r : Reader} {fuel : Nat} {s t : State} {va n : Nat} {b : List Byte} {po : Option Nat} (h0 : n ≠ 0)
    (hn : n ≤ 64 - va % 64) (h : s.readLine r va n = (t, .bytes b po)) : engineReadMem r (fuel + 1) s va n = (t, .bytes b po) := by
  have hk : min n (64 - va % 64) = n := Nat.min_eq_left hn
  cases po <;> simp [engineReadMem, h0, hk, h]

end Sys2Proof.Machine
end

