-- ==== Sys2Proof/Tests/Slice0.lean ====
section
/-!
SUPPORT. The model's own tests: ill-formed terms that `Instr.wf` refuses, the spec's worked encodings, its worked results,
and for each statement of `Sys2Proof/Certificates/Slice0/Obligations.lean` that has hypotheses a state and operands that
meet them. Every expected value is the spec's, at the rule or table that the test's comment names.
-/
namespace Sys2Proof.Tests

open Sys2Proof.Machine Sys2Proof.Says

set_option Elab.async false

/-! ## Terms that are no instruction (R57, R59 to R61, R130, R189, R208, R289, R297, R319, R337, R362) -/

/-- Shifts and fields past the width (R57, R130). -/
theorem test_wf_shift : (Instr.shlImm .w32 1 2 32).wf = false ∧ (Instr.shrImm .w32 1 2 31).wf = true ∧ (Instr.sarImm .w32 1 2 40).wf = false ∧
    (Instr.rolImm .w32 1 2 63).wf = false ∧ (Instr.rorImm .w64 1 2 63).wf = true := by decide
theorem test_wf_field : (Instr.bfx .w32 1 2 15 17).wf = false ∧ (Instr.bfi .w64 1 2 63 1).wf = false ∧ (Instr.bfx .w32 1 2 15 16).wf = true ∧
    (Instr.sext .w32 1 2 32).wf = false ∧ (Instr.zext .w64 1 2 63).wf = true := by decide
/-- The sizes of a load, the operations of the atomics and the registers of `waitw` (R60, R61, R208). -/
theorem test_wf_access : (Instr.ld 1 false 0 1 2 0).wf = false ∧ (Instr.ldLit 1 true 0 1 2 0).wf = true ∧
    (Instr.ldAcq .md 1 false 0 1 2 0).wf = false ∧ (Instr.ldAcqLit .md 1 false 0 1 2 0).wf = false := by decide
theorem test_wf_atomic : (Instr.amo .fadd .w64 0 1 2 3).wf = false ∧ (Instr.red .swap .w32 0 1 2).wf = false ∧
    (Instr.redRel .md .swap .w32 0 1 2).wf = false ∧ (Instr.amoOrdered ⟨.md, false, false⟩ .add .w64 0 1 2 3).wf = false ∧
    (Instr.casOrdered ⟨.md, false, false⟩ .w64 0 1 2 3).wf = false ∧ (Instr.amo .fadd .w32 0 1 2 3).wf = true := by decide
theorem test_wf_waitw : (Instr.waitw .w64 0 3 1 2).wf = false ∧ (Instr.waitw .w64 0 4 1 5).wf = false ∧ (Instr.waitw .w64 0 4 1 4).wf = false ∧
    (Instr.waitwAcq .md .w64 0 4 1 4).wf = false ∧ (Instr.waitw .w64 0 4 4 6).wf = true := by decide
/-- The headers of engine commands (R53). -/
theorem test_wf_header : (Instr.cpy ⟨.md, false, false⟩ 1 2 3 0 0 4).wf = false ∧ (Instr.cpyLit ⟨.sy, false, false⟩ 1 2 3 0 0 4).wf = false ∧
    (Instr.cpy2 ⟨.qd, false, false⟩ 1 2 3 0 0 4 0 0).wf = false ∧ (Instr.cpy2Lit ⟨.qd, false, false⟩ 1 2 3 0 0 4 0 0).wf = false ∧
    (Instr.tourOrdered ⟨.cd, false, false⟩ 0 1 2).wf = false ∧ (Instr.cstart ⟨.md, false, false⟩ 1 2 3 0 0 0 1).wf = false ∧
    (Instr.cpy .none 1 2 3 0 0 4).wf = true := by decide
/-- Control registers (R110), even registers (R362), and the counts of `waitb` (R314). -/
theorem test_wf_control : (Instr.cwr 0 1).wf = false ∧ (Instr.cwr 7 1).wf = false ∧ (Instr.cwr 16 1).wf = true ∧ (Instr.crd 1 0x13).wf = false ∧
    (Instr.crd 1 0x12).wf = true ∧ (Instr.timrd 3).wf = false ∧ (Instr.winq 5 1).wf = false ∧ (Instr.waitb 9).wf = false ∧
    (Instr.waitb 8).wf = true := by decide
/-- Element types (R289). -/
theorem test_wf_types : (Instr.vadd .e4m3 1 2 3).wf = false ∧ (Instr.vaddSat .f32 1 2 3).wf = false ∧ (Instr.vfma .i32 1 2 3).wf = false ∧
    (Instr.vexp2 .i8 1 2).wf = false ∧ (Instr.vand .bf16 1 2 3).wf = false ∧ (Instr.vcmpLt .i4 1 2 3).wf = false ∧
    (Instr.vsel .cb4 1 2 3).wf = false ∧ (Instr.vaddLit .i4 1 2 0).wf = false ∧ (Instr.vredsum .i4 1 2 3).wf = false ∧
    (Instr.vdot .cb4 1 2 3).wf = false ∧ (Instr.vdotSat .f16 1 2 3).wf = false ∧ (Instr.viota .e5m2 1).wf = false := by decide
theorem test_wf_moves : (Instr.vcvt .cb4 .f32 1 2).wf = false ∧ (Instr.vcvt .f32 .cb4 1 2).wf = false ∧ (Instr.vcvtSat .f16 .f32 1 2).wf = false ∧
    (Instr.vcvtSr .f32 1 2 3).wf = false ∧ (Instr.vbcast .cb4 1 2).wf = false ∧ (Instr.vmovg .cb4 1 2 3).wf = false ∧
    (Instr.gath .i4 1 0 2 3).wf = false ∧ (Instr.scat .cb4 1 0 2 3).wf = false ∧ (Instr.vcvt .i4 .f32 1 2).wf = true := by decide

/-- The fields of the `mma` of R301's first row. -/
def mmaRow : MmaFields :=
  { mm1 := 47, km1 := 23, nm1 := 79, atype := .f16, btype := .f16, asrc := false, aslot := 0, bsrc := false, bslot := 0, gath := false,
    idx := 0, zero := false }
/-- The fields of the `mmar` of R301's second row. -/
def mmarRow : MmarFields :=
  { mm1 := 31, atype := .bf16, asrc := false, aslot := 0, gath := false, idx := 0, zero := false }
/-- The fields of R326's worked `mvb.cb4.bf16`. -/
def mvbRow : MvbFields :=
  { wseg := 2, dseg := 5, accum := false, vm1 := 1, wtype := .cb4, atype := .bf16, slog := 3, cm1 := 1023, rm1 := 39 }

/-- The limits on matrix steps (R319). -/
theorem test_wf_mma : (Instr.mma .none 1 2 3 { mmaRow with btype := .i8 }).wf = false ∧
    (Instr.mma .none 1 2 3 { mmaRow with aslot := 1 }).wf = false ∧ (Instr.mma .none 1 2 3 { mmaRow with bslot := 1 }).wf = false ∧
    (Instr.mma .none 1 2 3 { mmaRow with idx := 1 }).wf = false ∧ (Instr.mma .none 1 2 3 { mmaRow with gath := true }).wf = false ∧
    (Instr.mma .none 1 2 3 { mmaRow with btype := .cb4, nm1 := 78 }).wf = false ∧
    (Instr.mmaPitch ⟨.md, false, false⟩ 1 2 3 mmaRow 0).wf = false ∧ (Instr.mma .none 1 2 3 mmaRow).wf = true := by decide
theorem test_wf_mmar : (Instr.mmar .none 1 2 { mmarRow with atype := .f32 }).wf = false ∧
    (Instr.mmarPitch .none 1 2 { mmarRow with aslot := 1 } 0).wf = false ∧ (Instr.mmar .none 1 2 { mmarRow with gath := true, mm1 := 32 }).wf = false ∧
    (Instr.mmar .none 1 2 mmarRow).wf = true := by decide
/-- The limits on `mvb` (R337). -/
theorem test_wf_mvb : (Instr.mvbCb4 .none 3 1 4 { mvbRow with atype := .i8 } 0).wf = false ∧
    (Instr.mvbCb4 .none 3 1 4 { mvbRow with slog := 7 } 0).wf = false ∧ (Instr.mvbCb4 .none 3 1 4 { mvbRow with cm1 := 1022 } 0).wf = false ∧
    (Instr.mvbCb4 .none 3 1 4 { mvbRow with cm1 := 1025 } 0).wf = false ∧ (Instr.mvb .none 3 1 4 mvbRow).wf = false ∧
    (Instr.mvbCb4 .none 3 1 4 { mvbRow with wtype := .e4m3, cm1 := 511 } 0).wf = false ∧
    (Instr.mvb .none 3 1 4 { mvbRow with wtype := .e4m3, cm1 := 512 }).wf = false ∧
    (Instr.mvb .none 3 1 4 { mvbRow with wtype := .ui8, cm1 := 511 }).wf = false ∧ (Instr.mvbCb4 .none 3 1 4 mvbRow 0).wf = true := by decide

/-! ## The spec's worked encodings -/

/-- Integer register, immediate and literal forms (R54, R123, R126, R129 to R132). -/
theorem test_decode_integer : decodeTableWord 32 0x06042600 = some (.add .w64 3 1 2) ∧ decodeTableWord 32 0x0A064E00 = some (.sub .w64 7 2 3) ∧
    decodeTableWord 32 0xA7242800 = some (.sel .w64 4 1 2 9) ∧ decodeTableWord 32 0xFFF4AA08 = some (.addImm .w32 5 5 0x3FFD) ∧
    decodeTableWord 32 0x201C661C = some (.shrImm .w32 3 3 7) ∧ decodeTableWord 32 0x7F42A420 = some (.sltuImm .w64 2 5 2000) ∧
    decodeTableWord 32 0x0B222C24 = some (.bfx .w64 6 1 11 8) := by decide +kernel
theorem test_decode_literal : decodeTableWord 96 0x00000000000F42401E004205 = some (.divuLit .w64 1 2 1000000) ∧
    decodeTableWord 96 0x0000123456789ABC00000629 = some (.moviLit 3 0x123456789ABC) ∧ decodeTableWord 32 0x000C8428 = some (.movi 2 100) ∧
    decodeTableWord 32 0x0102642C = some (.saddr 2 3 64) := by decide +kernel
/-- Branches and jumps (R135 to R137). -/
theorem test_decode_branch : decodeTableWord 32 0x00008044 = some (.call 64) ∧ decodeTableWord 32 0xFFCA8848 = some (.bltu 4 5 0x7FE) ∧
    decodeTableWord 32 0xFFF6A24C = some (.bnz 5 0x7FFB) ∧ decodeTableWord 32 0x08007E50 = some (.jalr 15 3) ∧
    decodeTableWord 32 0x0001E050 = some (.jr 15) ∧ decodeTableWord 32 0xFFFC8054 = some (.loop 4 0x7FFE) := by decide +kernel
/-- System and context instructions (R114). -/
theorem test_decode_context : decodeTableWord 32 0x00000060 = some .nop ∧ decodeTableWord 32 0x08A00060 = some (.trap 5) ∧
    decodeTableWord 32 0x18000060 = some .rett ∧ decodeTableWord 32 0x20200260 = some (.crd 1 1) ∧
    decodeTableWord 32 0x28C02060 = some (.cwr 6 1) ∧ decodeTableWord 32 0x00086464 = some (.start 2 3 4) ∧
    decodeTableWord 32 0x18000064 = some .park ∧ decodeTableWord 32 0x380CA064 = some (.put 5 6) := by decide +kernel
/-- Loads, stores and vector accesses (R54, R171, R173, R174). -/
theorem test_decode_access : decodeTableWord 96 0x00000000B000000000588282 = some (.ldAcq .md 3 false 2 1 4 0) ∧
    decodeTableWord 32 0x036C4A80 = some (.ld 1 true 3 5 2 3) ∧ decodeTableWord 96 0x0000000088000000FE300E86 = some (.stRel .cd 2 1 7 0 0xFE) ∧
    decodeTableWord 96 0x00000000000186A000588281 = some (.ldLit 3 false 2 1 4 100000) ∧
    decodeTableWord 32 0x90406288 = some (.ldv 17 1 3 2) ∧ decodeTableWord 32 0x1020028C = some (.stv 1 1 0 1) ∧
    decodeTableWord 32 0x0412C890 = some (.gath .f32 4 2 6 9) := by decide +kernel
/-- Segments and the key-value buffer (R178, R185). -/
theorem test_decode_segment : decodeTableWord 32 0x01004698 = some (.segld 3 2 1) ∧ decodeTableWord 32 0x11842A98 = some (.segset 5 1 2 3) ∧
    decodeTableWord 32 0x1800009C = some .kret := by decide +kernel
/-- Atomics, waits, fences and barriers (R191, R197, R202, R207). -/
theorem test_decode_atomic : decodeTableWord 32 0x090846C0 = some (.amo .add .w64 1 3 2 4) ∧
    decodeTableWord 96 0x00000000B80000000A0ECAC6 = some (.casOrdered ⟨.md, true, true⟩ .w64 2 5 6 7) ∧
    decodeTableWord 96 0x0000000088000000910640CA = some (.redRel .cd .fadd .w32 1 2 3) ∧
    decodeTableWord 32 0x0304C8CC = some (.waitw .w32 3 4 6 2) := by decide +kernel
theorem test_decode_fence : decodeTableWord 32 0xA00000D0 = some (.fence .md) ∧ decodeTableWord 32 0x200000D4 = some (.bfence .qd) ∧
    decodeTableWord 32 0x000002D8 = some (.bar 1 false false 0) ∧ decodeTableWord 32 0x066004D8 = some (.bar 2 true true 3) ∧
    decodeTableWord 32 0x00000ADC = some (.qprobe 5) := by decide +kernel
/-- Migration and channels (R214, R225). -/
theorem test_decode_queue : decodeTableWord 32 0x0000C0E0 = some (.migr 6) ∧ decodeTableWord 32 0x040080E0 = some (.migrL 4) ∧
    decodeTableWord 32 0x004060E4 = some (.miga 2 3) ∧ decodeTableWord 32 0x044060E4 = some (.migaL 2 3) ∧
    decodeTableWord 32 0x040048E8 = some (.chmapOut 4 2) ∧ decodeTableWord 32 0x00006AE8 = some (.chmapIn 5 3) ∧
    decodeTableWord 32 0x000008EC = some (.chunmap 4) ∧ decodeTableWord 32 0x000082F0 = some (.chstat 1 4) := by decide +kernel
/-- Launches, roles (R245, R254). -/
theorem test_decode_kernel : decodeTableWord 32 0x0000A5A0 = some (.launch 2 5) ∧ decodeTableWord 32 0x000003A4 = some (.wunext 1) ∧
    decodeTableWord 32 0x0000E1A8 = some (.wudone 7) ∧ decodeTableWord 32 0x000043AC = some (.rcast 1 2) := by decide +kernel
/-- Tours and tile slots (R273). -/
theorem test_decode_tile : decodeTableWord 32 0x00604360 = some (.tour 3 1 2) ∧
    decodeTableWord 96 0x000000009000000000604362 = some (.tourOrdered ⟨.cd, true, false⟩ 3 1 2) ∧
    decodeTableWord 32 0x01000964 = some (.twait 1 4) ∧ decodeTableWord 32 0x09000164 = some (.trel 1) ∧
    decodeTableWord 32 0x1100A164 = some (.thold 1 5) ∧ decodeTableWord 32 0x1A000D64 = some (.tstat 2 6) ∧
    decodeTableWord 32 0x20000F64 = some (.tabort 0 7) ∧ decodeTableWord 32 0x01806568 = some (.tld 1 2 2 3) ∧
    decodeTableWord 32 0x09C06B68 = some (.tst 1 3 5 3) := by decide +kernel
/-- Vector instructions (R288 and the program of 18_array_vector.md). -/
theorem test_decode_vector : decodeTableWord 32 0x00042700 = some (.vadd .f32 3 1 2) ∧ decodeTableWord 32 0xC64A2900 = some (.vfma .bf16 20 17 5) ∧
    decodeTableWord 96 0x000000003F00000004004501 = some (.vmulLit .f32 2 2 0x3F000000) ∧
    decodeTableWord 32 0x00408D0C = some (.vcvt .bf16 .f32 6 4) ∧ decodeTableWord 32 0x046E910C = some (.vcvtSr .e4m3 8 4 7) ∧
    decodeTableWord 32 0x08042B0C = some (.vmovg .f32 5 1 2) ∧ decodeTableWord 32 0x04000310 = some (.vredmax .f32 1 0 0) ∧
    decodeTableWord 32 0x0600450C = some (.vbcast .f32 2 2) ∧ decodeTableWord 32 0x00040708 = some (.vcmpEq .f32 3 0 2) ∧
    decodeTableWord 32 0x0EA0090C = some (.viota .i32 4) ∧ decodeTableWord 32 0x08AA8708 = some (.vsel .i32 3 4 5) := by decide +kernel
/-- Matrix steps, accumulator commands, batches and repetitions (R301, R308, R310, R314, R317). -/
theorem test_decode_matrix : decodeTableWord 96 0x110000000178BA7800064342 = some (.mma .none 1 2 3 mmaRow) ∧
    decodeTableWord 160 0x00000000000000F0110002000178BA78000ECB43 = some (.mmaPitch .none 5 6 7 { mmaRow with zero := true } 0xF0) ∧
    decodeTableWord 96 0x2000000000F800000000A946 = some (.mmar .none 4 5 mmarRow) := by decide +kernel
theorem test_decode_batch : decodeTableWord 32 0x00064148 = some (.aclr 2 3) ∧ decodeTableWord 32 0x08004348 = some (.acrd 1 2) ∧
    decodeTableWord 32 0x10004348 = some (.acwr 1 2) ∧ decodeTableWord 32 0x0040A14C = some (.cbld 2 5) ∧
    decodeTableWord 32 0x00000150 = some .commit ∧ decodeTableWord 32 0x08200150 = some (.waitb 1) ∧
    decodeTableWord 32 0x08006554 = some (.repx 2 3) := by decide +kernel
/-- The vents (R326, R336). -/
theorem test_decode_vent : decodeTableWord 160 0x00000000000000001FF8002702A3446000082773 = some (.mvbCb4 .none 3 1 4 mvbRow 0) ∧
    decodeTableWord 32 0x00004374 = some (.bstat 1 2) := by decide +kernel
/-- Cells (R347; the last word by the layout, log 81). -/
theorem test_decode_cell : decodeTableWord 32 0x0006417C = some (.posw 2 3) ∧ decodeTableWord 32 0x000A8180 = some (.posa 4 5) ∧
    decodeTableWord 32 0x00064384 = some (.nbr 1 2 3) ∧ decodeTableWord 32 0x0000ED88 = some (.cellq 6 7) := by decide +kernel
/-- Windows (R362) and collectives (R382, R383). -/
theorem test_decode_window : decodeTableWord 32 0x00000590 = some (.timrd 2) ∧ decodeTableWord 32 0x00042994 = some (.tickw 4 1 2) ∧
    decodeTableWord 32 0x00006D98 = some (.winq 6 3) ∧ decodeTableWord 32 0x000A719C = some (.wintake 8 3 5) := by decide +kernel
theorem test_decode_link : decodeTableWord 96 0x0000000402800000000A63BA = some (.cstart .none 1 3 5 2 4 0 4) ∧
    decodeTableWord 32 0x000025BC = some (.cwait 2 1) := by decide +kernel
/-- A word with a length that its major does not accept is no instruction (R55); nor is an unassigned major, a reserved bit
(R52), or a memory access with a header of neither ACQ nor REL (R53). -/
theorem test_decode_refused : decodeTableWord 32 0xFFF4AA0B = none ∧ decodeTableWord 32 0x000001FC = none ∧
    decodeTableWord 32 0x00002060 = none ∧ decodeTableWord 96 0x000000000000000000588282 = none := by decide +kernel

/-! ## States for the tests -/

/-- Every right but K. -/
def rightsAll : BitVec 7 := 0x3F
/-- R, W and K. -/
def rightsK : BitVec 7 := 0x43

/-- The hub runs, partition 0 has quad 0 and is live, and quad 0's cache holds the translation of the first sixteen pages of
address space 0, each to the physical page of its own number. -/
def machine : State :=
  { State.reset with
    parts := [(0, { shape := [(0, 1)], run := .live })]
    homes := [(0, { tlb := [{ asid := 0, vpage := 0, ps := 0, pages := 16, pbn := 0, bl := false, pin := false, cnt := false, mq := false }] })]
    firmware := { state := .run }
    clock := 1 }

/-- The segment registers of the tests: s0 is the first mebibyte of memory, s1 the core's scratchpad, s2 one byte of memory
without a right, s7 code. -/
def segments : Vector Segment 8 :=
  #v[{ base := 0, limit := 0x100000, rights := rightsAll }, { base := 0, limit := 0x10000, rights := rightsK },
     { base := 0, limit := 1, rights := 0 }, {}, {}, {}, {}, { base := 0, limit := 0x10000, rights := 5 }]

/-- A thread of context `n` of core 0, with the registers of a list, a window of all vector registers and a trap vector. -/
def thread (n : Nat) (l : List (Reg × Word64)) : State :=
  { machine with cur := { part := 0, core := 0, ctx := n } }.modContext 0 0 n fun c =>
    { c with
      state := .runnable, pc := 16, tvec := 64, segs := segments, vwinSize := 32
      regs := l.foldl (fun (v : Vector GReg 16) (x : Reg × Word64) => v.set x.1.val { val := x.2 } x.1.isLt) c.regs }

/-- The error of a result that is one. -/
def errorOf {α β : Type} : Except α β → Option α
  | .error e => some e
  | .ok _ => none
/-- What an outcome's next state shows. -/
def seen {α : Type} (o : Host.Outcome State Fault Refusal) (f : State → α) : Option α :=
  match o with
  | .next t => some (f t)
  | _ => none

/-- A register and the flags after an instruction. -/
def regFlags (o : Host.Outcome State Fault Refusal) (d : Reg) : Option (Word64 × BitVec 6) := seen o fun t => ((t.reg d).val, t.ctx.flags)

/-- Two operands in g1 and g2 of context 1. -/
def pair (a b : Word64) : State := thread 1 [(1, a), (2, b)]

/-! ## Integer instructions: worked results, and operands that meet the statements -/

theorem test_add : regFlags (exec (.add .w32 3 1 2) (pair 0x7FFFFFFF 1)) 3 = some (0xFFFFFFFF80000000, 0) := by decide +kernel
theorem test_adds : regFlags (exec (.adds .w32 3 1 2) (pair 0x7FFFFFFF 1)) 3 = some (0x7FFFFFFF, flagSat) := by decide +kernel
theorem test_mulhu : regFlags (exec (.mulhu .w64 3 1 2) (pair 0xFFFFFFFFFFFFFFFF 2)) 3 = some (1, 0) := by decide +kernel
theorem test_mulh : regFlags (exec (.mulh .w64 3 1 2) (pair 0xFFFFFFFFFFFFFFFF 2)) 3 = some (0xFFFFFFFFFFFFFFFF, 0) := by decide +kernel
theorem test_abs : regFlags (exec (.abs .w64 3 1) (pair 0x8000000000000000 0)) 3 = some (0x8000000000000000, 0) := by decide +kernel
theorem test_clz : regFlags (exec (.clz .w32 3 1) (pair 0x100000000 0)) 3 = some (32, 0) := by decide +kernel
theorem test_brev : regFlags (exec (.brev .w32 3 1) (pair 1 0)) 3 = some (0xFFFFFFFF80000000, 0) := by decide +kernel
theorem test_div : regFlags (exec (.div .w32 3 1 2) (pair 0x80000000 0xFFFFFFFFFFFFFFFF)) 3 = some (0xFFFFFFFF80000000, 0) := by decide +kernel
theorem test_rem : regFlags (exec (.rem .w32 3 1 2) (pair 0x80000000 0xFFFFFFFFFFFFFFFF)) 3 = some (0, 0) := by decide +kernel
theorem test_divu : regFlags (exec (.divu .w32 3 1 2) (pair 7 0)) 3 = some (0xFFFFFFFFFFFFFFFF, flagDz) := by decide +kernel
theorem test_sar : regFlags (exec (.sarImm .w32 3 1 4) (pair 0x80000010 0)) 3 = some (0xFFFFFFFFF8000001, 0) := by decide +kernel
theorem test_rol : regFlags (exec (.rolImm .w32 3 1 1) (pair 0x80000001 0)) 3 = some (3, 0) := by decide +kernel
theorem test_bfx : regFlags (exec (.bfx .w64 6 1 11 8) (pair 0x00ABCDEF 0)) 6 = some (0xBCD, 0) := by decide +kernel

theorem witness_ArithmeticCompletes : Takes (pair 5 3) 15 ∧ Reads (pair 5 3) [0, 15] ∧ Reads (pair 5 3) [2] := by decide +kernel
theorem witness_DivisionCompletes : Takes (pair 7 0) 3 ∧ Reads (pair 7 0) [1, 2] ∧ Reads (pair 7 0) [1] := by decide +kernel
theorem witness_SaturatingCompletes : Takes (pair 0x7FFFFFFF 1) 1 ∧ Reads (pair 0x7FFFFFFF 1) [1, 2] := by decide +kernel
theorem witness_ShiftsAndBitsComplete : Takes (pair 1 63) 3 ∧ Reads (pair 1 63) [1, 2] ∧ (63 : BitVec 6).toNat < Width.w64.bits ∧
    (31 : BitVec 6).toNat < Width.w32.bits := by decide +kernel
theorem witness_ChoicesAndComparesComplete : Takes (pair 0 9) 3 ∧ Reads (pair 0 9) [1, 2, 1] ∧ Reads (pair 0 9) [1, 2] := by decide +kernel
theorem witness_FieldsComplete : Takes (pair 1 2) 3 ∧ Reads (pair 1 2) [3, 1] ∧ (0 : BitVec 6).toNat + ((63 : BitVec 6).toNat + 1) ≤ Width.w64.bits ∧
    (31 : BitVec 6).toNat + ((0 : BitVec 6).toNat + 1) ≤ Width.w32.bits := by decide +kernel
/-- A target at each end of the address space, a misaligned one, and one past it (R136). -/
theorem witness_BranchesAndJumpsComplete : Reads (pair 0xFFFFFFFFFFFFC 3) [1, 2] ∧ Takes (pair 0xFFFFFFFFFFFFC 3) 15 ∧
    ((pair 0xFFFFFFFFFFFFC 3).val 1).toNat % 4 = 0 ∧ ((pair 0xFFFFFFFFFFFFC 3).val 1).toNat < 2 ^ 52 ∧
    ((pair 0xFFFFFFFFFFFFC 3).val 2).toNat % 4 ≠ 0 ∧ ((pair (2 ^ 52) 3).val 1).toNat % 4 = 0 ∧ 2 ^ 52 ≤ ((pair (2 ^ 52) 3).val 1).toNat ∧
    Takes (pair 1 3) 1 := by decide +kernel
/-- Control flow: the offset of the worked `loop`, and the return address of `jalr` (R136, R137). -/
theorem test_loop : seen (exec (.loop 4 0x7FFE) (thread 1 [(4, 3)])) (fun t => ((t.reg 4).val, t.ctx.pc)) = some (2, 14) := by decide +kernel
theorem test_jalr : seen (exec (.jalr 3 3) (thread 1 [(3, 0x100)])) (fun t => ((t.reg 3).val, t.ctx.pc)) = some (68, 64) := by decide +kernel

/-! ## Traps, the control registers and context instructions -/

/-- A thread in a handler, and one without a trap vector. -/
def handling : State := (thread 1 [(1, 5)]).modCtx fun c => { c with inh := true, tepc := 100 }
def vectorless : State := (thread 1 []).modCtx fun c => { c with tvec := 0 }

theorem test_trap : seen (exec (.trap 63) (thread 1 [])) (fun t => (t.ctx.pc, t.ctx.tepc, t.ctx.tcause, t.ctx.tval, t.ctx.inh)) =
    some (64, 17, 14, 63, true) := by decide +kernel
theorem test_brk : seen (exec (.brk 7) (thread 1 [])) (fun t => (t.ctx.pc, t.ctx.tepc, t.ctx.tcause, t.ctx.tval)) = some (64, 16, 15, 7) := by
  decide +kernel
theorem test_nested : seen (exec (.trap 1) handling) (fun t => (t.ctx.state, t.ctx.haltReason, t.ctx.tepc)) = some (.halted, .nested, 100) := by
  decide +kernel
theorem test_novec : seen (exec (.trap 1) vectorless) (fun t => (t.ctx.state, t.ctx.haltReason, t.ctx.tcause, t.curCore.hmask)) =
    some (.halted, .novec, 14, 2) := by decide +kernel
theorem test_rett : seen (exec .rett handling) (fun t => (t.ctx.pc, t.ctx.inh)) = some (100, false) := by decide +kernel
theorem test_crd_posx : regFlags (exec (.crd 3 0x0B) (thread 1 [])) 3 = some (1, 0) := by decide +kernel
theorem test_privilege : seen (exec (.reap 2 1) (thread 1 [])) (fun t => (t.ctx.tcause, t.ctx.tval)) = some (2, 0x08002464) := by decide +kernel

theorem witness_ControlReads : Takes (thread 1 []) 3 ∧
    (thread 1 []).vectorPending (thread 1 []).cur.part (thread 1 []).curTid (thread 1 []).ctx.gen = false := by decide +kernel
/-- A handler that is aligned and one that is not, and `GUARDLOG` in context zero and elsewhere. -/
theorem witness_ControlWrites : Reads (pair 8 2) [1, 2] ∧ ((pair 8 2).val 1).toNat % 4 = 0 ∧ ((pair 8 2).val 2).toNat % 4 ≠ 0 ∧
    (pair 8 2).vectorPending (pair 8 2).cur.part (pair 8 2).curTid (pair 8 2).ctx.gen = false ∧ (pair 8 2).windowPending = none ∧
    (thread 0 []).cur.ctx = 0 ∧ Plain (thread 0 []) ∧ Reads (thread 0 []) [1] ∧ (pair 8 2).cur.ctx ≠ 0 := by decide +kernel
/-- Debug halt set and not; a handler and none. -/
theorem witness_TrapsAndReturn : ((thread 1 []).func (thread 1 []).cur.part).debug = false ∧
    (((thread 1 []).modFunc 0 fun f => { f with debug := true }).func 0).debug = true ∧ Plain handling ∧ handling.ctx.inh = true ∧
    (thread 1 []).ctx.inh = false := by decide +kernel
theorem witness_TrapEntry : Plain handling ∧ (14 : Nat) ≠ 12 ∧ (14 : Nat) ≠ 13 ∧ handling.ctx.inh = true ∧ vectorless.ctx.inh = false ∧
    vectorless.ctx.tvec = 0 ∧ (thread 1 []).ctx.inh = false ∧ (thread 1 []).ctx.tvec ≠ 0 := by decide +kernel

/-- A machine whose context zero runs, or is parked by `park`, and whose context 15 runs. -/
def zeroIs (st : ThreadState) : State := (thread 15 []).modContext 0 0 0 fun c => { c with state := st }
theorem witness_HaltWakesZero : (15 : Nat) ≠ 0 ∧ (15 : Nat) < 16 ∧ HaltReason.exit ≠ .fillref ∧
    ((zeroIs .runnable).context 0 0 0).state ≠ .free ∧ ((zeroIs .runnable).context 0 0 0).state ≠ .halted ∧
    (let u := { zeroIs (.parked .byPark) with cur := { ctx := 0 } }.modCtx fun c => { c with wake := true }
     Plain u ∧ u.ctx.state = .parked .byPark ∧ u.ctx.wake = true) := by decide +kernel
theorem test_halt_wakes : (let t := (zeroIs (.parked .byPark)).haltThread 0 0 15 .exit 0 7
    ((t.core 0 0).hmask, (t.context 0 0 0).wake, (t.context 0 0 15).haltValue)) = (0x8000, true, 7) := by decide +kernel

/-- Context zero with g1 = `v` and with context 15 in a state. -/
def zeroWith (v : Word64) (st : ThreadState) : State :=
  (thread 0 [(1, v), (2, 0x1000)]).modContext 0 0 15 fun c => { c with state := st, haltReason := .exit, haltValue := 9 }
/-- Every context but zero in a state. -/
def allBusy : State := (List.range 15).foldl (fun t i => t.modContext 0 0 (i + 1) fun c => { c with state := .runnable }) (zeroWith 0 .runnable)
theorem witness_StartReap : Plain (zeroWith 15 .free) ∧ (zeroWith 15 .free).cur.ctx = 0 ∧ Reads (zeroWith 15 .free) [1, 2] ∧
    Takes (zeroWith 15 .free) 3 ∧ (zeroWith 15 .free).ctx.acquiring = [] ∧ ((zeroWith 15 .free).val 1).toNat < 16 ∧
    ((zeroWith 15 .free).val 2).toNat % 64 = 0 ∧ ((zeroWith 15 .free).val 2).toNat < 2 ^ 52 ∧
    (zeroWith 15 .free).startTarget 15 = some 15 ∧ allBusy.startTarget 0 = none ∧
    1 ≤ ((zeroWith 15 .free).val 1).toNat ∧ ((zeroWith 15 .free).val 1).toNat ≤ 15 ∧
    ((zeroWith 15 .free).context 0 0 15).state = .free ∧ ((zeroWith 15 .halted).context 0 0 15).state = .halted ∧
    (zeroWith 15 .halted).mergePending 0 15 0 = false ∧ (thread 1 []).cur.ctx ≠ 0 := by
  and_intros <;> decide +kernel
theorem test_reap : seen (exec (.reap 3 1) (zeroWith 15 .halted)) (fun t => ((t.reg 3).val, (t.context 0 0 15).state)) =
    some (9, .free) := by decide +kernel

theorem witness_ThreadLocal : (let s := pair 0x10 7
    Plain s ∧ s.cur.ctx ≠ 0 ∧ Reads s [1, 2] ∧ (s.curCore.guardLog.pend >>> s.cur.ctx) &&& 1 ≠ 1 ∧ s.ctx.openBatch = [] ∧
    s.accessPending s.cur.part s.curTid = false ∧ s.mergePending s.cur.part s.curTid s.ctx.gen = false ∧ s.ctx.errorRec = 0 ∧
    s.ctx.wake = false ∧ (s.modCtx fun c => { c with wake := true }).ctx.wake = true ∧ s.curPart.det = false ∧
    (s.modCurPart fun P => { P with det := true }).curPart.det = true ∧ (s.reg 3).pending = false ∧ s.ctx.acquiring = [] ∧
    s.portUsed s.cur.part s.cur.core < 8 ∧ (s.val 1).toNat < 2 ^ 23 ∧ s.curPart.hasCore (coreOf ((s.val 1).toNat % 2 ^ 19)) = true) ∧
    (thread 0 []).cur.ctx = 0 := by
  and_intros <;> decide +kernel
theorem test_exit : seen (exec (.exit 1) (pair 9 0)) (fun t => (t.ctx.state, t.ctx.haltValue, t.curCore.hmask)) = some (.halted, 9, 2) := by
  decide +kernel
theorem test_arm : seen (exec (.arm 1) (pair 9 0)) (fun t => ((t.reg 1).full, (t.reg 1).armed)) = some (false, true) := by decide +kernel

/-! ## Accesses -/

/-- A thread with an address in g1, the last word of s0 in g2, the last byte of the scratchpad in g3, an address outside s0 in g4,
a misaligned one in g5, and small numbers in g6 and g7. -/
def loader : State :=
  thread 1 [(1, 0x100), (2, 0xFFFF8), (3, 0xFFF8), (4, 0x100000), (5, 0x101), (6, 64), (7, 3)]

/-- A load through memory, at the end of the segment, through the scratchpad at its end, and in both encodings. -/
theorem witness_LoadsComplete : Reads loader [1, 2, 3] ∧ Takes loader 8 ∧ loader.ctx.acquiring = [] ∧
    InSegment (loader.seg 0) ((loader.val 2).toInt + (0 : BitVec 8).toInt * 8) 8 rightR ∧ (loader.seg 0).addr 0xFFFF8 % 8 = 0 ∧
    (loader.seg 0).isK = false ∧ Placed loader ((loader.seg 0).addr 0xFFFF8) 8 true ∧
    InSegment (loader.seg 1) ((loader.val 3).toInt + (7 : BitVec 8).toInt * 1) 1 rightR ∧ (loader.seg 1).isK = true ∧
    (loader.seg 1).addr 0xFFFF % 1 = 0 ∧ InSegment (loader.seg 0) ((loader.val 1).toInt + (-0x100 : Word64).toInt) 4 rightR ∧
    (loader.seg 0).addr 0 % 4 = 0 ∧ Placed loader 0 4 true := by
  and_intros <;> decide +kernel
theorem witness_StoresComplete : Reads loader [2, 6] ∧ loader.ctx.acquiring = [] ∧
    InSegment (loader.seg 0) ((loader.val 2).toInt + (0 : BitVec 8).toInt * 8) 8 rightW ∧ (loader.seg 0).addr 0xFFFF8 % 8 = 0 ∧
    (loader.seg 0).isK = false ∧ Placed loader 0xFFFF8 8 false ∧
    InSegment (loader.seg 1) ((loader.val 3).toInt + (7 : Word64).toInt) 1 rightW ∧ (loader.seg 1).isK = true ∧
    loader.pendingBefore loader.cur.part loader.issuer loader.cur.core loader.nextAccess (some .sy) = false := by decide +kernel
/-- One byte past the segment, a segment without the right, and a misaligned address. -/
theorem witness_AccessTraps : loader.ctx.acquiring = [] ∧ Reads loader [4, 5, 6] ∧ Takes loader 8 ∧
    ¬ InSegment (loader.seg 0) ((loader.val 4).toInt + (0 : Word64).toInt) 1 rightR ∧
    ¬ InSegment (loader.seg 2) ((loader.val 4).toInt + (-0x100000 : Word64).toInt) 1 rightW ∧
    InSegment (loader.seg 0) ((loader.val 5).toInt + (0 : Word64).toInt) 2 rightR ∧ (loader.seg 0).addr 0x101 % 2 ≠ 0 ∧
    InSegment (loader.seg 0) ((loader.val 5).toInt + (0 : Word64).toInt) 2 rightW := by decide +kernel
/-- Descriptors, vectors from their start and from PARTIAL on, lanes, atomics and a wait, past the segment's end and not aligned (R139,
R160, R173). -/
theorem witness_AccessTraps_forms : loader.ctx.phase = .fresh ∧ InWindow loader [7, 0] ∧ VReads loader [7, 0] ∧ (loader.vecReg 7).settled = true ∧
    loader.ctx.index = none ∧ loader.ctx.partialBytes.toNat = 0 ∧ Takes loader 9 ∧ Takes loader 10 ∧
    InSegment (loader.seg 0) ((loader.val 5).toInt) 16 (rightR ||| rightW) ∧ (loader.seg 0).addr (loader.val 5).toInt % 16 ≠ 0 ∧
    ¬ InSegment (loader.seg 0) ((loader.val 4).toInt) 16 rightW ∧
    (let s := loader.modCtx fun c => { c with partialBytes := 60 }
     InSegment (s.seg 0) ((s.val 5).toInt + (0 : BitVec 7).toInt * 64 + s.ctx.partialBytes.toNat) (64 - s.ctx.partialBytes.toNat) (rightR ||| rightW) ∧
       (s.seg 0).addr ((s.val 5).toInt + (0 : BitVec 7).toInt * 64 + 60) % 4 ≠ 0 ∧
       ¬ InSegment (s.seg 0) ((s.val 4).toInt + (-60 : Word64).toInt + 60) 4 rightR ∧ 60 ≤ 4 * 15 ∧
       ¬ InSegment (s.seg 0) (s.gathOff 4 0 4 15) 4 rightR) ∧
    (∀ i < 16, InSegment (loader.seg 0) (loader.gathOff 5 0 4 i) 4 (rightR ||| rightW)) ∧ (loader.seg 0).addr (loader.gathOff 5 0 4 0) % 4 ≠ 0 ∧
    ¬ InSegment (loader.seg 0) (loader.gathOff 4 0 4 0) 4 rightR ∧ ¬ InSegment (loader.seg 0) (loader.val 4).toInt 8 rightA ∧
    InSegment (loader.seg 0) (loader.val 5).toInt 4 (rightA ||| rightR) ∧ (loader.seg 0).addr (loader.val 5).toInt % 4 ≠ 0 := by
  and_intros <;> decide +kernel
theorem test_ld_spad : seen (exec (.ld 2 true 1 8 1 0) (loader.modCurCore fun C => { C with spad := Memory.writeList [] 0x100 [0xFE, 0xFF, 0xFF, 0xFF] }))
    (fun t => t.curQuad.locals.map fun y => (y.due, y.kind)) = some [(4, .reg 8 0xFFFFFFFFFFFFFFFE)] := by decide +kernel
theorem test_st_spad : seen (exec (.st 1 1 6 5 1) loader) (fun t => t.ctx.tcause) = some 4 ∧
    seen (exec (.st 1 1 6 1 1) loader) (fun t => Memory.readList t.curCore.spad 0x101 3) = some [0, 64, 0] := by decide +kernel
theorem test_ld_memory : seen (exec (.ld 3 false 0 8 1 0xFF) loader) (fun t => (t.accesses.map fun x => (x.2.pa, x.2.size), (t.reg 8).full)) =
    some ([(0xF8, 8)], false) := by decide +kernel

/-- The largest values of a segment register's fields (R179); both directions of its transfers; a reply that has come, and one
that is poisoned. -/
def answered (r : Reply) : State := loader.modCtx fun c => { c with phase := .asked 1, reply := some r }
def widest : State := thread 1 [(1, 0xFFFFFFFFFFFFF), (2, 0xFFFFFFFFFF), (3, 0x7F)]
theorem witness_SegmentInstructions : Reads widest [1, 2, 3] ∧ (widest.val 1).toNat < 2 ^ 52 ∧ (widest.val 2).toNat < 2 ^ 40 ∧
    (widest.val 3).toNat < 2 ^ 7 ∧ Reads loader [1, 6] ∧ loader.ctx.acquiring = [] ∧ InSegment (loader.seg 0) (loader.val 1).toInt 16 rightW ∧
    (loader.seg 0).addr 0x100 % 16 = 0 ∧ (loader.seg 0).isK = false ∧ Placed loader 0x100 16 false ∧
    InSegment (loader.seg 1) (loader.val 6).toInt 16 rightW ∧ (loader.seg 1).isK = true ∧ loader.ctx.phase = .fresh ∧
    InSegment (loader.seg 1) (loader.val 6).toInt 16 rightR ∧ (loader.spadLoad 0 0 1 64 16).2.2 = none ∧
    (answered {}).ctx.phase = .asked 1 ∧ (answered {}).ctx.reply = some {} ∧ ({} : Reply).poison = none ∧
    (answered { poison := some 64 }).ctx.reply = some { poison := some 64 } := by
  and_intros <;> decide +kernel
theorem test_segset : seen (exec (.segset 5 1 2 3) widest) (fun t => (t.seg 5).bits) = some (2 ^ 99 - 1) := by decide +kernel

/-- Sixteen lanes at 0x100 through memory and through the scratchpad; the indices of v2 are all zero. -/
theorem witness_VectorAccessCompletes : Reads loader [1] ∧ loader.ctx.acquiring = [] ∧ loader.ctx.partialBytes = 0 ∧ loader.ctx.reply = none ∧
    (loader.inWindow [31, 2]).toBool = true ∧ (loader.vecReg 31).settled = true ∧
    InSegment (loader.seg 0) ((loader.val 1).toInt + (-4 : BitVec 7).toInt * 64) 64 rightR ∧
    (loader.seg 0).addr ((loader.val 1).toInt + (-4 : BitVec 7).toInt * 64) % 4 = 0 ∧ (loader.seg 0).isK = false ∧
    ((loader.laneParts 16 ((List.range 16).map fun i => ⟨4 * i, 4 * i, 4⟩)).all fun x =>
      !loader.missing (State.lowest x) && decide (loader.vecPart true x = .clean)) = true ∧
    ((loader.laneParts 16 ((List.range 16).map fun i => ⟨4 * i, 4 * i, 4⟩)).all fun x => decide (loader.vecPart false x = .clean)) = true ∧
    InSegment (loader.seg 1) ((loader.val 1).toInt + (0 : Word64).toInt) 64 rightR ∧ (loader.seg 1).isK = true ∧
    (loader.vready [31, 2]).toBool = true ∧ InSegment (loader.seg 0) ((loader.val 1).toInt + (0 : Word64).toInt) 64 rightW ∧
    (loader.gathLanes 0 1 (loader.vecReg 2).val.toNat 4 rightR).toBool = true ∧
    (loader.gathLanes 0 1 (loader.vecReg 2).val.toNat 4 rightW).toBool = true := by
  and_intros <;> decide +kernel
theorem test_ldv : seen (exec (.ldv 17 0 1 1) loader) (fun t => ((t.vecReg 17).full, (t.vecReg 17).waiting,
    (t.accesses.foldl (fun n x => n + x.2.size) 0))) = some (false, 1, 64) := by decide +kernel

/-- A buffer with a good entry and a poisoned one for the keys of g1, g2 and of g3, g2 (R165). -/
def keyed : State :=
  (thread 1 [(1, 7), (2, 2), (3, 8), (4, 0x0000000900000001), (5, 0x8000000000000040), (6, 0xFFFFFFFFFFFFFFFF), (8, 5)]).modCurCore fun C =>
    { C with kvtb := [{ key := 0x700000002, val := 0x8000000000040000 }, { key := 0x800000002, val := 0xC000000000040080 }] }
theorem witness_KeyValueCompletes : Reads keyed [1, 2, 3, 4, 5, 6, 8] ∧ Takes keyed 7 ∧ Plain keyed ∧
    keyed.curCore.kvtb.find? (fun e => decide (e.key = BitVec.ofNat 64 ((keyed.val 1).toNat % 2 ^ 32 * 2 ^ 32 + (keyed.val 2).toNat % 2 ^ 16))) =
      some { key := 0x700000002, val := 0x8000000000040000 } ∧ (0x8000000000040000 : Word64).getLsbD 62 = false ∧
    keyed.curCore.kvtb.find? (fun e => decide (e.key = BitVec.ofNat 64 ((keyed.val 3).toNat % 2 ^ 32 * 2 ^ 32 + (keyed.val 2).toNat % 2 ^ 16))) =
      some { key := 0x800000002, val := 0xC000000000040080 } ∧ (0xC000000000040080 : Word64).getLsbD 62 = true ∧
    keyed.curCore.kvtb.find? (fun e => decide (e.key = BitVec.ofNat 64 ((keyed.val 8).toNat % 2 ^ 32 * 2 ^ 32 + (keyed.val 2).toNat % 2 ^ 16))) = none ∧
    (keyed.val 4).toNat / 2 ^ 16 % 2 ^ 16 = 0 ∧ (keyed.val 5).toNat / 2 ^ 40 % 2 ^ 22 = 0 ∧ (keyed.val 5).toNat % 64 = 0 ∧
    keyed.val 6 = BitVec.allOnes 64 ∧ keyed.val 4 ≠ BitVec.allOnes 64 ∧
    (keyed.val 5).getLsbD 63 = true ∧ (keyed.val 2).getLsbD 63 = false ∧ keyed.curCore.shadow.missing = none ∧
    (keyed.modCurCore fun C => { C with shadow := { C.shadow with missing := some 3 } }).curCore.shadow.missing ≠ none ∧
    ({ keyed with cur := { keyed.cur with shadow := true } } : State).cur.shadow = true ∧
    (keyed.core keyed.cur.part keyed.cur.core).shadow.waiting = [] ∧
    ((keyed.modCurCore fun C => { C with shadow := { C.shadow with waiting := [{ ctx := 4, seq := 1, blk := 2, pc := 9, vec := 64 }] } }).core 0
      0).shadow.waiting = [{ ctx := 4, seq := 1, blk := 2, pc := 9, vec := 64 }] := by
  and_intros <;> decide +kernel
/-- Where 64 entries are held, a new key takes the place of the least recently used (R165, R187). -/
theorem test_kvtw : seen (exec (.kvtw 4 5) (keyed.modCurCore fun C =>
      { C with kvtb := (List.range 64).map fun i => { key := BitVec.ofNat 64 (i * 2 ^ 32), val := 0x8000000000000000 } }))
    (fun t => (t.curCore.kvtb.length, t.curCore.kvtb.headD { key := 0, val := 0 } |>.key, (t.curCore.kvtb.find? fun e => decide (e.key = 0)))) =
    some (64, 0x100000000, none) := by decide +kernel
theorem test_kvtl : seen (exec (.kvtl 7 1 2) keyed) (fun t => ((t.reg 7).val, t.curCore.kvtb.map fun e => e.key)) =
    some (0x40000, [0x800000002, 0x700000002]) := by decide +kernel

/-- Copies of 64 bytes between the scratchpad and memory and of two rows of 16 bytes at a pitch of 32; a copy of nothing, and one
in which the last byte of the segment moves. -/
def copier : State := thread 1 [(1, 0x100), (2, 0xFFFC0), (3, 64), (4, 0x2000000020), (5, 0)]
theorem witness_CopiesComplete : Takes copier 6 ∧ copier.ctx.acquiring = [] ∧ freeKey copier.curQuad.copies 32 = some 0 ∧
    copier.ctx.openBatch.length < 127 ∧ Reads copier [1, 2, 3] ∧ Reads copier [1, 2, 4] ∧ (copier.val 3).toNat < 2 ^ 40 ∧
    InSegment (copier.seg 0) (copier.val 2).toInt 64 rightR ∧ InSegment (copier.seg 1) (copier.val 1).toInt 64 rightW ∧
    ((copier.seg 0).isK = (copier.seg 1).isK → False) ∧ copier.reread ((copier.seg 0).addr 0xFFFC0) 64 = false ∧
    (16 : BitVec 24).toNat ≤ (copier.val 4).toNat / 2 ^ 32 ∧ InSegment (copier.seg 0) ((copier.val 2).toInt + 32) 16 rightR ∧
    InSegment (copier.seg 1) ((copier.val 1).toInt + 32) 16 rightW ∧ copier.reread ((copier.seg 0).addr 0xFFFC0 + 32) 16 = false ∧
    (copier.val 5).toNat = 0 := by
  and_intros <;> decide +kernel
theorem test_cpy : seen (exec (.cpy .none 6 1 2 1 0 3) copier) (fun t => (t.curQuad.copies.map fun x => (x.2.soff, x.2.doff, x.2.width), (t.reg 6).val)) =
    some ([(0xFFFC0, 0x100, 64)], 0) := by decide +kernel

/-! ## Atomics, fences and barriers -/

theorem witness_AtomicsComplete : loader.ctx.acquiring = [] ∧ (loader.seg 0).isK = false ∧ (loader.seg 0).addr (loader.val 2).toInt % 8 = 0 ∧
    Reads loader [2, 6, 8] ∧ InSegment (loader.seg 0) (loader.val 2).toInt 8 rightA ∧ Placed loader ((loader.seg 0).addr (loader.val 2).toInt) 8 false ∧
    Takes loader 8 ∧ Takes loader (Fin.ofNat 16 ((8 : Reg).val + 1)) ∧ InSegment (loader.seg 0) (loader.val 2).toInt 8 rightR ∧ 0 < 32 := by
  decide +kernel
theorem test_atomic_min : atomicOp .min 32 0x80000000 1 = 0x80000000 ∧ atomicOp .minu 32 0x80000000 1 = 1 ∧ atomicOp .add 32 0xFFFFFFFF 2 = 1 := by
  decide +kernel

/-- An access of the thread of context 1 in flight, at a stage. -/
def accessOf (kind : AccKind) (stage : Stage) : Access :=
  { part := 0, issuer := .thread 1, tid := 1, kind := kind, pa := 64, size := 8, va := 64, src := 0, dst := 0, stage := stage }
/-- The machine with an access in flight, numbered 5. -/
def flying (kind : AccKind) (stage : Stage) : State := { loader with accesses := [(5, accessOf kind stage)], nextAccess := 6 }
/-- A load into g8 that has been sent. -/
def aLoad : AccKind := .load (.reg 8 .zero)

theorem witness_FencesComplete :
    loader.pendingBefore loader.cur.part loader.issuer loader.cur.core loader.nextAccess (some .sy) = false ∧
    (flying aLoad .home).pendingBefore 0 (flying aLoad .home).issuer 0 6 (some .qd) = true ∧
    loader.ctx.phase ≠ .bank ∧ loader.sumsPending loader.cur.part loader.curTid = false ∧ (Scope.qd ≠ .cr) ∧
    quadInScope loader.firmware.hops1 loader.firmware.hops2 .qd loader.cur.core 0 = true ∧
    (loader.modCtx fun c => { c with phase := .bank }).ctx.phase = .bank ∧ loader.writeBacksPending loader.cur.part loader.curTid = false ∧
    (loader.curCore.guardLog.pend >>> loader.cur.ctx) &&& 1 ≠ 1 ∧ Reads loader [6] ∧ 1 ≤ (loader.val 6).toNat ∧ (loader.val 6).toNat ≤ 64 ∧
    Takes loader 9 ∧ (flying .writeback .home).accesses.find? 5 = some (accessOf .writeback .home) ∧
    loader.bank.sorted = true ∧
    (let s := loader.modPart 0 fun P => { P with arrivals := [{ tid := 1, gen := 0, d := 6, atCaldera := false, index := 0, count := 2, drain := false }] }
     (s.part 0).arrivals[0]?.isSome = true ∧ (s.part 0).run ≠ .frozen) := by
  and_intros <;> decide +kernel
theorem test_bar : seen (exec (.bar 6 false false 3) loader) (fun t => ((t.part 0).arrivals.map fun x => (x.index, x.count), t.ctx.state, t.ctx.pc)) =
    some ([(3, 64)], .parked (.full 6), 17) := by decide +kernel

/-- A barrier entry of quad 0 in a state, and an arrival of the thread of context 1 at it. -/
def atBar (e : BarEntry) : State := loader.modQuad 0 0 fun Q => { Q with bars := [(0, e)] }
def arrival (count : Nat) (drain : Bool) : Arrival := { tid := 1, gen := 0, d := 6, atCaldera := false, index := 0, count := count, drain := drain }
theorem witness_BarrierArrivals :
    ((atBar {}).barEntry 0 1 false 0).state = 0 ∧ 1 < (arrival 2 false).count ∧ (arrival 1 false).count = 1 ∧ (arrival 1 true).drain = true ∧
    (let e := (atBar { state := 1, count := 3, arrived := 1 }).barEntry 0 1 false 0
     e.state = 1 ∧ e.count = (arrival 3 false).count ∧ e.drain = (arrival 3 false).drain ∧ e.arrived + 1 < e.count ∧ e.count ≠ (arrival 2 false).count ∧
      e.drain ≠ (arrival 3 true).drain) ∧
    (let e := (atBar { state := 1, count := 2, arrived := 1 }).barEntry 0 1 false 0
     e.count = (arrival 2 false).count ∧ e.arrived + 1 = e.count ∧ e.drain = false) ∧
    (let e := (atBar { state := 1, count := 2, arrived := 1, drain := true }).barEntry 0 1 false 0
     e.drain = (arrival 2 true).drain ∧ e.arrived + 1 = e.count ∧ e.drain = true) ∧
    ((atBar { state := 2, count := 2, arrived := 2, drain := true }).barEntry 0 1 false 0).state = 2 ∧ loader.live 0 = true ∧
    (let s := loader.modPart 0 fun P => { P with tokens := [(0, { visited := 1025 }), (1, { visited := 1024 }), (2, { visited := 1025, sum := 1 })] }
     s.live 0 = true ∧ (s.part 0).tokens.find? 0 = some { visited := 1025 } ∧ (s.part 0).tokens.find? 1 = some { visited := 1024 } ∧
      (s.part 0).tokens.find? 2 = some { visited := 1025, sum := 1 }) ∧
    State.drainingOn ((atBar { state := 2, count := 2, arrived := 2, drain := true }).part 0) 0 ≠ [] := by
  and_intros <;> decide +kernel
theorem test_barrier_done : (((atBar { state := 1, count := 2, arrived := 1, gen := 0xFFFF }).arriveBar 0 (arrival 2 false)).barEntry 0 1 false 0).gen = 0 ∧
    (((atBar { state := 1, count := 2, arrived := 1, gen := 0xFFFF }).arriveBar 0 (arrival 2 false)).threadCtx 0 1).regs.get 6 =
      .written 0xFFFF := by decide +kernel

/-! ## Messages, deposits and answers -/

/-- A release that may go and one that may not, both legs and the last leg, and an answer's. -/
theorem witness_MessagesMove :
    (flying (.store [1] false) .held).accesses.find? 5 = some (accessOf (.store [1] false) .held) ∧
    (flying (.store [1] false) .held).accesses.sorted = true ∧
    (flying (.store [1] false) .held).pendingBefore 0 (.thread 1) 0 0 none = false ∧
    (let s : State := { flying (.store [1] false) .held with
        accesses := [(4, accessOf aLoad .home), (5, { accessOf (.store [1] false) .held with rel := some .md, bound := 5 })] }
     s.pendingBefore 0 (.thread 1) 0 5 (some .md) = true ∧ s.accesses.sorted = true) ∧
    (flying aLoad (.leg 0 3)).mayDeliver (accessOf aLoad (.leg 0 3)) = true ∧ legCount 0 0 = 1 ∧ 1 < legCount 0 1024 ∧
    (flying aLoad (.ansLeg 0 3)).mayDeliver (accessOf aLoad (.ansLeg 0 3)) = true ∧
    (let s : State := { loader.modPart 0 fun P => { P with det := true } with accesses := [(4, accessOf aLoad (.leg 0 2)), (5, accessOf aLoad (.leg 0 3))], nextAccess := 6 }
     s.mayDeliver (accessOf aLoad (.leg 0 3)) = false) ∧
    (let s : State := { loader with
        accesses := [(4, accessOf (.deposit 17 3 8 (some 4)) (.refusedAt 3)), (5, accessOf (.deposit 17 3 9 (some 4)) .held)] }
     s.behindRefused 5 (accessOf (.deposit 17 3 9 (some 4)) .held) = true) := by
  and_intros <;> decide +kernel

/-- An access in the last eight bytes of the module's memory, and one past them. -/
def lastAccess (past : Nat) : State := { loader with accesses := [(5, { accessOf aLoad .home with pa := memBytes - 8 + past })], nextAccess := 6 }
theorem witness_AccessApplied :
    (lastAccess 1).mayApply 5 { accessOf aLoad .home with pa := memBytes - 8 + 1 } = true ∧ memBytes < memBytes - 8 + 1 + 8 ∧
    (lastAccess 0).mayApply 5 { accessOf aLoad .home with pa := memBytes - 8 } = true ∧ memBytes - 8 + 8 ≤ memBytes ∧
    (flying (.store [1, 2] false) .home).mayApply 5 (accessOf (.store [1, 2] false) .home) = true ∧
    (flying (.store [1, 2] false) .home).isPoisoned 64 = false ∧
    (flying (.amo .add .w64 1 8) .home).mayApply 5 (accessOf (.amo .add .w64 1 8) .home) = true ∧
    (flying (.amo .add .w64 1 8) .home).queues (accessOf (.amo .add .w64 1 8) .home) = true ∧ (Stage.queued 3).isQueued = true ∧
    (flying (.cas .w64 0 1 8) (.queued 3)).mayApply 5 (accessOf (.cas .w64 0 1 8) (.queued 3)) = true ∧
    (flying (.store [1, 2] false) .home).queues (accessOf (.store [1, 2] false) .home) = false := by
  and_intros <;> decide +kernel
/-- A reduction in throughput mode that has left its home's queue. -/
theorem witness_AccessApplied_red : (flying (.red .add .w64 3) (.queued 3)).mayApply 5 (accessOf (.red .add .w64 3) (.queued 3)) = true ∧
    ((flying (.red .add .w64 3) (.queued 3)).part 0).det = false ∧ (flying (.red .add .w64 3) (.queued 3)).isPoisoned 64 = false ∧
    (64 + 8 : Nat) ≤ memBytes := by
  and_intros <;> decide +kernel
theorem witness_memory : MemoryOk loader := by unfold MemoryOk; decide +kernel
/-- The fault that an outcome is. -/
def stopped (o : Host.Outcome State Fault Refusal) : Option Fault :=
  match o with
  | .fault f => some f
  | _ => none
theorem test_fault : stopped (exec (.accessApplication 5) (lastAccess 1)) = some (.physicalAddress (memBytes - 7)) := by decide +kernel
theorem test_apply_store : seen (exec (.accessApplication 5) (flying (.store [1, 0, 2] false) .home)) (fun t => t.mem) =
    some [⟨64, 1⟩, ⟨66, 2⟩] := by decide +kernel
theorem test_apply_cas : seen (exec (.accessApplication 5) (flying (.cas .w64 0 0x1FF 8) (.queued 3))) (fun t => t.readMem 64 8) =
    some [0xFF, 1, 0, 0, 0, 0, 0, 0] := by decide +kernel

/-- Context 1 as the target of a deposit into g8, whose register is in a state. -/
def target (g : GReg) (st : ThreadState) : State :=
  (flying (.deposit 1 8 77 none) .home).modCtx fun c => { c with regs := c.regs.set 8 g, state := st }
theorem witness_WaitsAndDeposits :
    (flying (.waitw .w64 1 8) .home).mayApply 5 (accessOf (.waitw .w64 1 8) .home) = true ∧ 64 + 8 ≤ memBytes ∧
    (flying (.waitw .w64 1 8) .home).isPoisoned 64 = false ∧ natOfBytes ((flying (.waitw .w64 1 8) .home).readMem 64 8) ≠ (1 : Word64).toNat % 2 ^ 64 ∧
    natOfBytes ((flying (.waitw .w64 0 8) .home).readMem 64 8) = (0 : Word64).toNat % 2 ^ 64 ∧ (flying (.waitw .w64 0 8) .home).watchesAt 0 < 64 ∧
    ((flying (.waitw .w64 0 8) .home).part 0).det = false ∧
    (let s := (flying (.red .add .w64 3) .home).modPart 0 fun P => { P with det := true }
     (s.part 0).det = true ∧ (s.home 0).held.length < 4096 ∧ s.mayApply 5 (accessOf (.red .add .w64 3) .home) = true) ∧
    (flying (.deposit 1 8 77 none) .home).mayApply 5 (accessOf (.deposit 1 8 77 none) .home) = true ∧
    ((target {} .halted).threadCtx 0 1).state = .halted ∧ ((target {} .runnable).threadCtx 0 1).state ≠ .free ∧
    ((target {} .runnable).threadCtx 0 1).state ≠ .halted ∧ ((target {} .runnable).threadCtx 0 1).chans.find? 8 = none ∧
    (((target {} .runnable).threadCtx 0 1).regs.get 8).full = true ∧
    (((target { full := false, armed := true } .runnable).threadCtx 0 1).regs.get 8).armed = true ∧
    (let c := { (target {} .runnable).ctx with chans := [(8, { dir := .inn, peer := 3 * 2 ^ 19 + 1 }), (9, { dir := .inn, peer := 17 })] }
     (c.chans.find? 8).map (fun ch => decide (ch.dir = .inn ∧ ch.peer % 2 ^ 19 = 1)) = some true ∧
     (c.chans.find? 9).map (fun ch => decide (ch.dir = .inn ∧ ch.peer % 2 ^ 19 ≠ 1)) = some true) ∧
    (let s := (flying (.waitw .w64 0 8) (.watch 3)).modPart 0 fun P => { P with cycle := 1048579 }
     s.live 0 = true ∧ 3 + 1048576 ≤ (s.part 0).cycle ∧ (accessOf (.waitw .w64 0 8) (.watch 3)).spad = false) ∧
    (let x := { accessOf (.waitw .w64 0 8) (.watch 3) with spad := true }
     let s := (flying (.waitw .w64 0 8) (.watch 3)).modPart 0 fun P => { P with cycle := 1048579 }
     x.spad = true ∧ s.firstGuarded 0 x.issuerCore x.pa x.size = none) ∧
    (let c := { (target { full := true, armed := true } .runnable).ctx with chans := [(8, { dir := .out, peer := 3 * 2 ^ 19 + 1 })] }
     (c.chans.find? 8).map (fun ch => decide (ch.dir = .out)) = some true ∧ (c.regs.get 8).full = true) ∧
    (let s := (flying (.deposit 1 8 77 none) (.refusedAt 3)).modPart 0 fun P => { P with cycle := 19 }
     3 + 16 ≤ (s.part 0).cycle ∧ s.accesses.sorted = true ∧ s.behindRefused 5 (accessOf (.deposit 1 8 77 none) (.refusedAt 3)) = false) := by
  and_intros <;> decide +kernel
/-- The 65th watch at a home is answered at once (R101). -/
theorem witness_WaitsAndDeposits_full :
    64 ≤ ({ loader with accesses := (List.range 64).map fun i => (i, accessOf (.waitw .w64 0 8) (.watch 0)) } : State).watchesAt 0 := by decide +kernel
/-- A register mapped to an input channel from the sender, and one mapped to an output channel, are full: the deposit is refused (R226). -/
theorem test_deposit_refused (dir : ChanDir) : seen (exec (.accessApplication 5)
      ((target { full := true, armed := true } .runnable).modCtx fun c => { c with chans := [(8, { dir := dir, peer := 3 * 2 ^ 19 + 1 })] }))
    (fun t => t.accesses.map fun x => x.2.answer) = some [.refused false] := by cases dir <;> decide +kernel
/-- A held `tickw` has no TIMEOUT (R196, R364). -/
theorem test_watch_of_tickw : seen (exec (.waitwTimeout 5) ((flying (.window 0 8 0 9) (.watch 3)).modPart 0 fun P => { P with cycle := 1048579 }))
    (fun t => t.accesses.map fun x => (x.2.stage, x.2.answer)) = some [(.watch 3, .none)] := by decide +kernel
theorem test_deposit : seen (exec (.accessApplication 5) (target { full := false, armed := true } .runnable)) (fun t => t.reg 8) =
    some { val := 77 } := by decide +kernel

/-- An access that has been answered. -/
def replied (kind : AccKind) (a : Answer) : State :=
  { loader with accesses := [(5, { accessOf kind .answered with answer := a })], nextAccess := 6 }
theorem witness_AnswersArrive :
    (replied aLoad (.data [1])).accesses.find? 5 = some { accessOf aLoad .answered with answer := .data [1] } ∧
    (replied aLoad (.data [1])).accesses.sorted = true ∧ ((replied aLoad (.data [1])).threadCtx 0 1).gen = 0 ∧
    ((replied aLoad (.data [1])).threadCtx 0 1).chans.find? 8 = none ∧ AmoOp.add ≠ .fadd ∧
    ((replied (.waitw .w64 1 8) (.status 7 1)).threadCtx 0 1).chans.find? 9 = none ∧
    (replied (.waitw .w64 1 8) (.status 7 1)).accesses.sorted = true ∧ (replied (.cas .w64 1 2 8) (.poisoned 64)).accesses.sorted = true ∧
    (let s := loader.modQuad 0 0 fun Q => { Q with locals := [{ tid := 1, gen := 0, due := 0, kind := .reg 8 5 }] }
     ((s.quad 0 0).locals[0]?.map fun y => decide (y.due ≤ (s.part 0).cycle)) = some true ∧ (s.threadCtx 0 1).gen = 0) := by decide +kernel
theorem test_answer : seen (exec (.answerDelivery 5) (replied (.amo .add .w32 1 8) (.data [0, 0, 0, 0x80]))) (fun t => t.reg 8) =
    some { val := 0xFFFFFFFF80000000 } := by decide +kernel

/-- A thread whose g4 is an output channel and g5 an input channel, to register 3 of thread 17 and from thread 17. -/
def channelled (busy : Bool) : State :=
  (thread 1 [(1, 3 * 2 ^ 19 + 17), (2, 0xFFFFFFFFFFFFFFFF), (3, 15)]).modCtx fun c =>
    { c with chans := [(4, { dir := .out, peer := 3 * 2 ^ 19 + 17, busy := busy }), (5, { dir := .inn, peer := 3 * 2 ^ 19 + 17 })] }
theorem witness_ChannelsComplete : Plain (channelled false) ∧ Reads (channelled false) [1, 2, 3] ∧ (channelled false).chan 6 = none ∧
    ((channelled false).val 1).toNat < 2 ^ 23 ∧ (channelled false).curPart.hasCore (coreOf (((channelled false).val 1).toNat % 2 ^ 19)) = true ∧
    ((channelled false).reg 6).pending = false ∧ (channelled false).chan 4 = some { dir := .out, peer := 3 * 2 ^ 19 + 17 } ∧
    (channelled false).chan 5 = some { dir := .inn, peer := 3 * 2 ^ 19 + 17 } ∧ Takes (channelled false) 6 ∧
    (channelled false).val 2 = BitVec.allOnes 64 ∧ ((channelled false).val 3).toNat < 16 := by decide +kernel
theorem test_channel_out : seen (exec (.movi 4 9) (channelled false)) (fun t => ((t.reg 4).full, t.accesses.map fun x => x.2.kind)) =
    some (false, [.deposit 17 3 9 (some 4)]) := by decide +kernel

/-! ## Migration and roles -/

/-- Two quads in the partition; a vector window departs in full and is refused lean. -/
def mover (window : Bool) : State :=
  ((thread 1 [(1, 4), (2, 0x100)]).modPart 0 fun P => { P with shape := [(0, 2)] }).modCtx fun c =>
    { c with vwinSize := if window then 1 else 0 }
theorem witness_MigrationsDepart : Plain (mover false) ∧ ((mover false).curCore.guardLog.pend >>> (mover false).cur.ctx) &&& 1 ≠ 1 ∧
    Reads (mover false) [1, 2] ∧ ((mover false).val 1).toNat < 2 ^ 15 ∧ (mover false).ctx.openBatch = [] ∧
    (mover false).accessPending 0 1 = false ∧ (mover false).mergePending 0 1 0 = false ∧ (mover false).copyPending 0 1 0 = false ∧
    (mover false).answerDue 0 1 0 = false ∧
    (mover false).ctx.errorRec = 0 ∧ (mover false).migrateRefused 4 false = false ∧ (mover false).migrateRefused 4 true = false ∧
    (mover false).migrateRefused 32767 false = true ∧ ((mover false).seg 0).isK = false ∧ InSegment ((mover false).seg 0) ((mover false).val 2).toInt 1 0 ∧
    ((mover false).cached (mover false).quadNo (mover false).asid 0x100).isSome = true ∧
    ((mover false).usePart 0x100).1.migrateRefused (homeOf ((mover false).usePart 0x100).2.pa * 4) false = false := by
  and_intros <;> decide +kernel
/-- A departure with a window is refused in both forms, and a lean one from a handler (R216). -/
theorem witness_MigrationsDepart_refused :
    (let s := mover true
     Plain s ∧ s.migrateRefused 4 false = true ∧ s.migrateRefused 4 true = true ∧
       (s.usePart 0x100).1.migrateRefused (homeOf (s.usePart 0x100).2.pa * 4) false = true ∧
       (s.usePart 0x100).1.migrateRefused (homeOf (s.usePart 0x100).2.pa * 4) true = true) ∧
    (let s := (mover false).modCtx fun c => { c with inh := true }
     Plain s ∧ s.migrateRefused 4 false = false ∧ s.migrateRefused 4 true = true) := by
  and_intros <;> decide +kernel
theorem test_migr : seen (exec (.migr 1) (mover false)) (fun t => (t.ctx.state, t.ctx.pc, (t.part 0).travellers.map fun x => x.2.target)) =
    some (.migrating, 17, [4]) := by decide +kernel
theorem test_migr_refused : seen (exec (.migrL 1) (mover true)) (fun t => (t.ctx.tcause, t.ctx.tval)) = some (7, 4) := by decide +kernel

/-- A thread that comes from thread 0x48 to core 0. -/
def comer : Traveller := { ctx := {}, origin := 0x48, lean := false, target := 0, src := 1, dst := 0, leg := some (0, 0) }
/-- A machine with a comer whose last flit has come, and one with a comer that is the next on its way. -/
def arriving (l : List Nat) : State :=
  (loader.modPart 0 fun P => { P with travellers := [(0, comer)] }).modCore 0 0 fun C => { C with arriving := l }
/-- Context 2 of core 0 as it loads. -/
def filling (f : Fill) : State := loader.modContext 0 0 2 fun c => { c with state := .loading, fill := some f }
/-- Threads in the spill ring of core 0, whose slots stand at an address, and a comer whose last flit has come or no arrival. -/
def ringed (threads : List Spilled) (at_ : Nat) (l : List Nat) : State :=
  ((arriving l).modPart 0 fun P => { P with spill := at_, spilln := 4 }).modCore 0 0 fun C => { C with ring := { C.ring with threads := threads } }
def inRing : Spilled := { region := none, asid := 0, lean := false, origin := 0x48, crossing := none, code := none }
/-- What an engine's reads for a piece of its work have brought: whole lines of zeros at some addresses. -/
def fetchedAs (i : Issuer) (tag : Nat) (l : List Nat) (s : State) : State :=
  s.modPart 0 fun P => { P with fetched := l.map fun va => { issuer := i, tag := tag, va := va, bytes := List.replicate 64 0 } }
/-- The same with a poisoned line among them. -/
def poisonedAs (i : Issuer) (tag : Nat) (l : List Nat) (s : State) : State :=
  (fetchedAs i tag l s).modPart 0 fun P => { P with fetched := P.fetched.map fun f => { f with poison := some 64 } }
/-- The reads of a spill slot of core 0. -/
def refillReader : Reader := { issuer := .refill 0, part := 0, quad := 0, tid := 0, asid := 0 }

theorem witness_ArrivalsLoad :
    ((arriving [0]).part 0).travellers.find? 0 = some comer ∧ ((arriving [0]).part 0).run ≠ .frozen ∧
    ((arriving [0]).core 0 comer.target).arriving.head? = some 0 ∧ ((arriving []).core 0 comer.target).arriving = [] ∧ comer.crossing = none ∧
    ((arriving []).core 0 (coreOf comer.origin)).spillRefused = [] ∧
    (arriving []).outOfTurn 0 comer = false ∧ State.onLastLeg comer = true ∧ (arriving []).firstOf 0 comer.channel = true ∧ (arriving []).outOfTurn 0 comer = false ∧ ((arriving []).core 0 0).dead = false ∧ (loader.core 0 0).queue = [] ∧
    (loader.core 0 0).ring.threads = [] ∧ loader.lowestFree 0 0 = some 2 ∧ ((filling {}).context 0 0 2).state = .loading ∧
    ((filling {}).context 0 0 2).fill = some {} ∧ ({} : Fill).sent = 0 ∧ ({} : Fill).refused = none ∧ ({} : Fill).poison = none ∧
    ({} : Fill).todo = [] ∧ ({} : Fill).later = [] ∧ ({ refused := some (8, 64) } : Fill).refused = some (8, 64) ∧ ({ poison := some 64 } : Fill).poison = some 64 ∧
    ((ringed [inRing] 0x8000 []).core 0 0).ring.threads = [inRing] ∧ ((ringed [inRing] 0x8000 []).core 0 0).ring.stalled = none ∧
    ((ringed [inRing] 0x8000 []).core 0 0).queue.length < 16 ∧
    (ringed [inRing] 0x8000 []).pendingBefore 0 (.spill 0) 0 (ringed [inRing] 0x8000 []).nextAccess none = false ∧
    (engineReadMem refillReader 8 (fetchedAs (.refill 0) 0 [0x8000, 0x8040, 0x8080, 0x80C0, 0x8100] (ringed [inRing] 0x8000 [])) 0x8000 320).2 =
      .bytes (List.replicate 320 0) none ∧ (ringed [inRing] 0x8000 []).slotAddr 0 0 0 = 0x8000 := by
  decide +kernel
/-- R220: an arrival that the ring takes leaves the network once its slot is translated. -/
theorem test_spill : seen (exec (.spillWrite 0 0) (ringed [inRing] 0x8000 [0])) (fun t =>
    ((t.part 0).travellers, (t.core 0 0).ring.threads.length, (t.accesses.map fun x => x.2.pa).headD 0)) = some ([], 2, 0x8140) := by decide +kernel
theorem test_arrival : seen (exec (.migrationArrival 0 0) (arriving [0])) (fun t => ((t.context 0 0 2).state, (t.part 0).travellers)) =
    some (.loading, []) := by decide +kernel

/-- A role table: cores 0 to 3, every step allowed, CNT 1, MIN 0 and MAX 4 of each role (R252). -/
def roleWord : Nat :=
  1 + 2 ^ 16 + 2 ^ 32 + 4 * 2 ^ 160 + 4 * 2 ^ 192 + 4 * 2 ^ 224 + 3 * 2 ^ 256 + (2 ^ 16 - 1) * 2 ^ 304
def roles : State := { thread 1 [(1, 0x1C2)] with mem := Memory.writeList [] 0x1C0 (bytesOfNat 64 roleWord) }
def roleAccess : Access := { accessOf (.rcast 8 2 0 true 0 {}) .home with pa := 0x1C0, size := 64 }
theorem witness_RolesComplete : roles.ctx.phase = .fresh ∧ Reads roles [1] ∧ Takes roles 8 ∧ roles.ctx.acquiring = [] ∧ (roles.val 1).toNat < 2 ^ 52 ∧
    (roles.val 1).toNat / 4 % 16 = 0 ∧ roles.curCore.rcasting = none ∧ Placed roles 0x1C0 64 false ∧
    (answered {}).ctx.phase = .asked 1 ∧ (answered { poison := some 64 }).ctx.reply = some { poison := some 64 } ∧
    Memory.wf roles.mem = true ∧ roleAccess.kind = .rcast 8 2 0 true 0 {} ∧ roles.isPoisoned roleAccess.pa = false ∧ roleAccess.pa % 64 = 0 ∧ roleStatus (natOfBytes (roles.readMem 0x1C0 64)) 0 0 2 true 0 = 0 ∧ (2 : Nat) ≠ 0 ∧
    roleStatus (natOfBytes (roles.readMem 0x1C0 64)) 4 0 2 true 0 = 4 ∧
    (freeKey (roles.core 0 1).tasks 16 = some 0 ∧ (1 : Nat) ≠ 0) ∧ (loader.modPart 0 fun P => { P with cycle := 8192 }).levelDue 0 = true ∧ ((loader.modPart 0 fun P => { P with det := true }).part 0).det = true := by
  decide +kernel
/-- An answer that is a poisoned line, and a thread whose destination is its source. -/
theorem witness_RolesComplete_answer :
    (let x := { roleAccess with stage := .answered, answer := .poisoned 0x1C0 }
     let s : State := { roles with accesses := [(5, x)], nextAccess := 6 }
     s.accesses.find? 5 = some x ∧ s.portHolds 5 x = false ∧ x.issuer = .thread x.tid ∧ (s.threadCtx x.part x.tid).gen = x.gen) ∧
    ((1 : Reg) = 1 ∧ Reads roles [1] ∧ Takes roles 1) := by
  and_intros <;> decide +kernel
theorem test_rcast : ((roles.applyRcast roleAccess 2 0 true 0).2, natOfBytes ((roles.applyRcast roleAccess 2 0 true 0).1.readMem 0x1C0 6)) =
    (.roles 0 (1 + 2 * 2 ^ 16 + 2 ^ 32), 1 + 2 * 2 ^ 16 + 2 ^ 32) := by decide +kernel

/-! ## Pages -/

/-- A walk of thread 1 for address 64 of address space 0. -/
def pageWalk : Walk :=
  { part := 0, quad := 0, asid := 0, va := 64, acc := 0, tid := 1, shadow := false, id := 9, raf := 0x8000000000020000 }
/-- Tables of address space 0, region 0: the first page lies in physical block 5 (R146 to R149), and an entry in ANSQ of the physical
function, whose ring of 16 entries stands at 0x60000 (R157, R373). -/
def paged (leaf entry : Nat) : State :=
  let m := Memory.writeList [] 0x20000 (bytesOfNat 8 0x30001)
  let m := Memory.writeList m 0x30000 (bytesOfNat 8 0x40001)
  let m := Memory.writeList m 0x40000 (bytesOfNat 8 leaf)
  let m := Memory.writeList m 0x60000 (bytesOfNat 8 1)
  let m := Memory.writeList m 0x60040 (bytesOfNat 16 entry)
  ({ loader with
    mem := m, raf := [(0, 0x8000000000020000)]
    walks := [pageWalk]
    calderas := [(0, { faults := [{ asid := 0, va := 0, part := 0 }] })] }).modFunc 0 fun x => { x with ansq := 0x60004 }
/-- The head of ANSQ there. -/
def headOf (entry : Nat) : AnsqHead := { base := 0x60000, index := 0, entry := entry }

/-- What the walk's reads have brought: its three entries, as far as the list goes. -/
def readIn (l : List (Nat × Nat)) (s : State) : State :=
  s.modPart 0 fun P => { P with fetched := l.map fun x => { issuer := .walk 9, tag := x.1, va := 64, bytes := bytesOfNat 8 x.2 } }
/-- The pointers of the two levels, and a leaf. -/
def entries (leaf : Nat) : List (Nat × Nat) := [(0x20000, 0x30001), (0x30000, 0x40001), (0x40000, leaf)]

theorem test_walk : ((readIn (entries 0x50003) (paged 0x50003 0)).walk pageWalk).2 =
    .found { asid := 0, vpage := 0, ps := 0, pages := 1, pbn := 5, bl := false, pin := false, cnt := false, mq := false } := by decide +kernel
/-- Context 1 of core 0 dropped on that page, with a vector and outside a handler. -/
def dropping : State := (paged 0 (2 ^ 126 + 64)).modContext 0 0 1 fun c => { c with state := .dropped 0 64, tvec := 0x800, inh := false }
/-- A page found, a page that is not resident, and one of another function; the four kinds of an entry, each with and without a fault
outstanding; a reserved bit; and an invalidation that no access uses. -/
theorem witness_PagesAnswered :
    (paged 0x50003 0).walks[0]? = some pageWalk ∧ pageWalk.result = none ∧
    ((paged 0x50003 0).walk pageWalk).2 = .failed .held ∧ ((paged 0x50003 0).walk { pageWalk with raf := 0 }).2 = .failed (.fault 1) ∧
    ((readIn (entries 0x50003) (paged 0x50003 0)).walk pageWalk).2 =
      .found { asid := 0, vpage := 0, ps := 0, pages := 1, pbn := 5, bl := false, pin := false, cnt := false, mq := false } ∧
    ((readIn (entries 0) (paged 0 0)).walk pageWalk).2 = .failed (.fault 0) ∧
    (({ readIn (entries 0x50003) (paged 0x50003 0) with retired := [5] } : State).walk pageWalk).2 = .failed .refused ∧
    ((readIn (entries 0x8000000000050003) (paged 0 0)).walk pageWalk).2 = .failed .poison ∧
    (paged 0 64).ansqHead 0 = some (headOf 64) ∧ (headOf 64).reserved = false ∧ (headOf 64).kind = 0 ∧ (paged 0 64).faultHeld 0 (headOf 64) = true ∧
    (paged 0 0x10000).faultHeld 0 (headOf 0x10000) = false ∧ (headOf (2 ^ 126)).kind = 1 ∧ (headOf (2 ^ 127)).kind = 2 ∧ (headOf (3 * 2 ^ 126)).kind = 3 ∧
    (paged 0 (3 * 2 ^ 126)).ansqHead 0 = some (headOf (3 * 2 ^ 126)) ∧ (headOf (2 ^ 61)).reserved = true ∧
    dropping.ansqHead 0 = some (headOf (2 ^ 126 + 64)) ∧ (headOf (2 ^ 126 + 64)).reserved = false ∧ dropping.faultHeld 0 (headOf (2 ^ 126 + 64)) = true ∧
    dropping.droppedOn 0 (headOf (2 ^ 126 + 64)) = [(0 * 16 + 1, false, 64)] ∧ (dropping.stalledOn 0 (headOf (2 ^ 126 + 64))).rings = [] ∧
    (dropping.context 0 0 1).inh = false ∧ (dropping.context 0 0 1).tvec ≠ 0 ∧
    (let v : Invalidation := { func := 0, tag := 9, asid := 0, lo := 0, hi := 0x10000, accesses := [] }
     let s : State := { paged 0 0 with invalidations := [v] }
     s.invalidations[0]? = some v ∧ v.accesses = [] ∧ s.ventsUse v = false ∧ ringOf (s.func v.func).ansq = some (0x60000, 4)) := by
  and_intros <;> decide +kernel
theorem test_invalidate : seen (exec (.invalidate 0) (paged 0x50003 (2 ^ 127 + 9 * 2 ^ 110))) (fun t => ((t.home 0).tlb, t.invalidations.map fun v => v.tag)) =
    some ([], [9]) := by decide +kernel

/-- An arrival for the ring whose slot is translated, one whose slot lies in a page that the pager refuses while every context is taken, and
the ring of a core with a poisoned register in a slot. -/
theorem witness_ArrivalsLoad_spill :
    (let s := ringed [inRing] 0x8000 [0]
     (s.core 0 0).arriving.head? = some 0 ∧ (s.part 0).travellers.find? 0 = some comer ∧ comer.target = 0 ∧ (s.part 0).run ≠ .frozen ∧
       (s.core 0 0).dead = false ∧ (s.core 0 0).ring.stalled = none ∧ (s.core 0 0).ring.threads ≠ [] ∧ (s.core 0 0).ring.threads.length < (s.part 0).spilln ∧
       (s.slotCached 0 (s.part 0).spillAsid 0 (State.linePieces 8 (s.slotAddr 0 0 1) 320)).2.toOption = some () ∧
       (s.part 0).travellers.sorted = true ∧ comer.crossing = none ∧ (s.core 0 (coreOf comer.origin)).spillRefused = []) ∧
    (let s : State := { ringed [inRing] 0x200000 [0] with
       walks := [{ pageWalk with quad := 0, va := 0x200140, engine := some (.spill 0), result := some .refused }] }
     errorOf (s.slotCached 0 (s.part 0).spillAsid 0 (State.linePieces 8 (s.slotAddr 0 0 1) 320)).2 = some (.refused, 0x200140) ∧
       ((List.range 16).foldl (fun s n => s.modContext 0 0 n fun c => { c with state := .runnable }) s).lowestFree 0 0 = none) := by
  and_intros <;> decide +kernel

/-! ## Copies and memory errors -/

/-- A copy of 64 bytes from the scratchpad at 0 to the scratchpad at 0x100, and one of a memory source. -/
def copyOf (moved : NSet) : CopyCmd :=
  { part := 0, tid := 1, gen := 0, asid := 0, h := .none, bound := 0, member := 0, sseg := loader.seg 0, dseg := loader.seg 1, soff := 0, doff := 0x100,
    rows := 1, width := 64, spitch := 0, dpitch := 0, moved := moved }
def copying (moved : NSet) : State := loader.modQuad 0 0 fun Q => { Q with copies := [(3, copyOf moved)] }
theorem witness_CopiesAndMemoryErrors : ((copying [0]).quad 0 0).copies.find? 3 = some (copyOf [0]) ∧ (copying [0]).live 0 = true ∧
    (copyOf [0]).stalled = none ∧ (copying [0]).acquireDone 0 1 0 false .none = true ∧ (copyOf [0]).moved.length = (copyOf [0]).pieceCount ∧
    (copying [0]).releaseDone 0 1 (.copy 0 3) .none = true ∧ (copyOf []).isPiece 0 = true ∧ (copyOf []).moved.contains 0 = false ∧
    (copyOf []).dseg.isK = true ∧ (copyOf []).sseg.isK = false ∧
    ((copying []).engineRead (State.copyReader 0 0 3 0 (copyOf [])) (copyOf []).sseg (((copyOf []).soff + 0 * 0 + ((copyOf []).pieceSpan 0).1 : Nat) : Int) 64).2 =
      .held ∧
    ((fetchedAs (.copy 0 3) 0 [0] (copying [])).engineRead (State.copyReader 0 0 3 0 (copyOf [])) (copyOf []).sseg 0 64).2 =
      .bytes (List.replicate 64 0) none ∧
    ((fetchedAs (.copy 0 3) 0 [0] (copying [])).translateNow (.copy 0 3) 0 0 1 0 0x100).2.toOption = some ⟨0x100, false⟩ := by
  and_intros <;> decide +kernel
/-- R170: a piece of a copy waits in a cycle in which a thread has used one of its banks, and moves in another. -/
theorem test_copy_bank : (let s := fetchedAs (.copy 0 3) 0 [0] (copying [])
     let moved (s : State) := seen (exec (.copyComplete 0 0 3 (some 0)) s) fun t => (t.quad 0 0).copies.map fun y => y.2.moved
     (moved (s.modCore 0 0 fun C => { C with banked := (1, [15]) }), moved (s.modCore 0 0 fun C => { C with banked := (0, [15]) }))) =
    (some [[]], some [[0]]) := by decide +kernel
theorem test_spad_error : seen (exec (.eccError (.spad 0 0 5) false) loader) (fun t => ((t.core 0 0).spadPoison, (t.caldera 0).softErr.uncorrectable)) =
    some ([5], 1) := by decide +kernel

/-! ## The array -/

/-- The logits of the worked example in 18_array_vector.md, as FP32 lanes. -/
def logits : BitVec 512 :=
  BitVec.ofNat 512 (([0x3F000000, 0xBF800000, 0x40100000, 0, 0x40100000, 0x3F800000, 0xC0600000, 0x3F400000, 0x40000000, 0xBE800000,
    0x3FC00000, 0x3E000000, 0xC0000000, 0x40100000, 0, 0x3FA00000] : List Nat).reverse.foldl (fun n w => n * 2 ^ 32 + w) 0)
/-- FP32 encodings of each kind of value, which `fadd` meets (R192). -/
theorem witness_AtomicsComplete_fadd : decodeFloat fp32 false (0x7FC00000 : BitVec 32).toNat = .nan ∧
    decodeFloat fp32 false (0x7F800000 : BitVec 32).toNat = .inf false ∧ decodeFloat fp32 false (0xFF800000 : BitVec 32).toNat = .inf true ∧
    decodeFloat fp32 false (1 : BitVec 32).toNat = .fin false 1 (-149) := by decide +kernel
/-- Subnormals are kept, and ∞ − ∞ is the canonical NaN (R192). -/
theorem test_fadd : atomicOp .fadd 32 1 1 = 2 ∧ atomicOp .fadd 32 0x7F800000 0xFF800000 = 0x7FC00000 := by decide +kernel
theorem test_vredmax : laneOf (vecReduce .max .f32 logits logits true).1 32 0 = 0x40100000 ∧ (vecReduce .max .f32 logits logits true).2 = 0 := by
  decide +kernel
theorem test_vcmp : ((List.range 16).filter fun i => decide (laneOf (vecCompare .eq .f32 logits (vecBroadcast .f32 0x40100000)) 32 i = 0xFFFFFFFF)) =
    [2, 4, 13] := by decide +kernel
/-- A sum halfway between two values rounds to the even one (R29). -/
theorem test_vector_round :
    laneOf (vecArith .add .f32 (vecBroadcast .f32 0x3F800000) (vecBroadcast .f32 0x33800000) 0).1 32 0 = 0x3F800000 := by decide +kernel
theorem test_vector_nan : laneOf (vecArith .mul .f32 (vecBroadcast .f32 0x7F800000) 0 0).1 32 0 = 0x7FC00000 := by decide +kernel

/-- A window of eight registers, with the lane numbers 15 and 16 in g1 and g2. -/
def vector : State := (thread 1 [(1, 15), (2, 16)]).modCtx fun c => { c with vwinSize := 8 }
theorem witness_VectorFormsComplete_two : VTakes vector 7 ∧ InWindow vector [7, 0, 7] ∧ VReads vector [0, 7] := by decide +kernel
theorem witness_VectorFormsComplete_others : VTakes vector 7 ∧ InWindow vector [7, 0, 7] ∧ VReads vector [7, 0, 7] ∧ Reads vector [1, 2] ∧ Takes vector 3 ∧
    vector.curCore.dispatch.length < 16 ∧ (vector.val 1).toNat < laneCount .f32 ∧ laneCount .f32 ≤ (vector.val 2).toNat := by decide +kernel

/-- Encodings at the ends of their ranges; values that overflow, that a flushing format flushes, and that round; a NaN, infinities and
finite operands; and conversions of each kind, in and out of range (R23, R29 to R35, R293, R294). -/
theorem witness_FloatLanes : fpE4m3 ∈ [fp32, fp16, bf16, fpE4m3, fpE5m2] ∧ (15 : Nat) < 2 ^ fpE4m3.eb ∧ (7 : Nat) < 2 ^ fpE4m3.mb ∧
    fpE4m3.e4m3 = true ∧ (31 : Nat) = 2 ^ fpE5m2.eb - 1 ∧ fpE5m2.e4m3 = false ∧ fpE4m3.flush = true ∧
    encodeFloat fpE5m2 false (.fin false (2 ^ 16) 0) = (0x7C, flagOf ||| flagNx) ∧ encodeFloat fpE4m3 false (.fin true 1 (-10)) = (0x80, flagUf ||| flagNx) ∧
    (ElemType.bf16, bf16) ∈ [(.f32, fp32), (.f16, fp16), (.bf16, bf16)] ∧ decodeFloat bf16 true 0x3F80 = .fin false 128 (-7) ∧
    decodeFloat bf16 true 0x7FC0 = .nan ∧ decodeFloat bf16 true 0xFF80 = .inf true ∧ decodeFloat bf16 true 0 = .fin false 0 0 ∧
    formatOf .f32 = some fp32 ∧ formatOf .i8 = none ∧ decodeFloat fp32 false 0x43000000 = .fin false (2 ^ 23) (-16) ∧
    intHi .i8 < ((2 : Int) ^ 23).tdiv (2 ^ 16) ∧ intLane .i32 300 = 300 ∧ intHi .i8 < (300 : Int) ∧ intLo .i8 ≤ (-128 : Int) ∧ elemBits .bf16 ≤ 16 ∧
    (0 : Int) < max ((0 : Int) + bitLength 0x1FF - (bf16.mb + 1)) (1 - (bf16.bias : Int) - bf16.mb) := by
  and_intros <;> decide +kernel

/-- Operands and addends that are infinite (R29, R33, R290). -/
theorem witness_FloatLanes_infinities : fp32 ∈ [fp32, fp16, bf16, fpE5m2] ∧ decodeFloat fp32 false 0x7F800000 = .inf false ∧
    decodeFloat fp32 false 0xFF800000 = .inf (true != false) ∧ decodeFloat fp32 false 0x3F800000 = .fin false (2 ^ 23) (-23) ∧
    decodeFloat fp32 false 0x7FC00000 = .nan ∧ decodeFloat fp32 false 0x3F800000 ≠ .inf (!false) := by
  and_intros <;> decide +kernel
theorem test_infinities : arithLane .max .f32 0x3F800000 0xFF800000 0 = (0x3F800000, 0) ∧ arithLane .fma .f32 0x3F800000 0x7F800000 0xFF800000 = (0x7FC00000, flagNv) ∧
    arithLane .fms .f32 0xBF800000 0x3F800000 0xFF800000 = (0xFF800000, 0) ∧ testLane .le .f32 0xFF800000 0x3F800000 = true ∧
    convertLane .e4m3 .f32 false 0xFF800000 = (0xFE, flagSat) := by decide +kernel

/-- A vector result that core 0 has dispatched, and one that is due. -/
def queued : Queued := { tid := 1, gen := 0, issued := 0, cmd := .vec { kind := .vec 3 5 none, flags := flagSat, latency := 6 } }
def dispatched : State := (loader.modPart 0 fun P => { P with cycle := 8 }).modCore 0 0 fun C => { C with dispatch := [queued] }
def due : VecResult := { tid := 1, gen := 0, due := 8, kind := .vec 3 5 none, flags := flagSat }
def resulting : State := (loader.modPart 0 fun P => { P with cycle := 8 }).modQuad 0 0 fun Q => { Q with results := [due] }
/-- The first register past the window as destination and as source (R286). -/
theorem witness_VectorResults : vector.ctx.vwinSize.toNat ≤ (8 : VReg).val ∧ (7 : VReg).val < vector.ctx.vwinSize.toNat ∧
    dispatched.live 0 = true ∧ (dispatched.quad 0 0).accepted ≠ (dispatched.part 0).cycle + 1 ∧
    (dispatched.quad 0 0).granted (dispatched.part 0).det (dispatched.part 0).cycle (dispatched.part 0).launchedAt = some 0 ∧
    ((dispatched.quad 0 0).cores.getD 0 {}).dispatch = [queued] ∧ queued.cmd = .vec { kind := .vec 3 5 none, flags := flagSat, latency := 6 } ∧
    (resulting.quad 0 0).results[0]? = some due ∧ due.due ≤ (resulting.part 0).cycle ∧ due.kind = .vec 3 5 none ∧
    (resulting.threadCtx 0 1).gen = due.gen := by decide +kernel
/-- A command at the head of core 1's dispatch queue in the cycle after its issue. -/
def offered (c : ArrayCmd) : State :=
  (loader.modPart 0 fun P => { P with cycle := 1 }).modCore 0 1 fun C => { C with dispatch := [{ queued with cmd := c }] }
/-- The array accepts a step, a read codebook and a command on the accumulator; the deterministic grant is that of the cycle. -/
theorem witness_VectorResults_accept :
    (∀ c ∈ [queued.cmd, .cbld 3 (some { bytes := [1] }), .aclr 0 1, .acrd 2 0, .acwr 0 7],
      (offered c).live 0 = true ∧ ((offered c).quad 0 0).accepted ≠ ((offered c).part 0).cycle + 1 ∧
      ((offered c).quad 0 0).granted ((offered c).part 0).det ((offered c).part 0).cycle ((offered c).part 0).launchedAt = some 1 ∧
      (((offered c).quad 0 0).cores.getD 1 {}).dispatch = [{ queued with cmd := c }]) ∧
    queued.issued < ((offered queued.cmd).part 0).cycle ∧
    ((offered queued.cmd).part 0).cycle - ((offered queued.cmd).part 0).launchedAt = 1 ∧
    ((offered queued.cmd).quad 0 0).granted true ((offered queued.cmd).part 0).cycle ((offered queued.cmd).part 0).launchedAt = some 1 := by
  and_intros <;> decide +kernel
/-- R286: D is checked before A and A before B, and an access checks its registers too. -/
theorem test_vwindow : seen (exec (.vadd .f32 8 9 1) vector) (fun t => (t.ctx.tcause, t.ctx.tval)) = some (5, 8) ∧
    seen (exec (.vfma .f32 0 9 10) vector) (fun t => (t.ctx.tcause, t.ctx.tval)) = some (5, 9) := by decide +kernel
theorem witness_VectorResults_window : vector.ctx.vwinSize.toNat = 8 ∧
    ([0, 1, 8] : List VReg).find? (fun v => decide (vector.ctx.vwinSize.toNat ≤ v.val)) = some 8 ∧
    ([State.lowVreg 8] : List VReg).find? (fun v => decide (vector.ctx.vwinSize.toNat ≤ v.val)) = some 8 ∧
    Reads vector [1] ∧ vector.ctx.acquiring = [] := by
  and_intros <;> decide +kernel

/-- A step of one row with K 3 and N 17, from the scratchpad, at accumulator word 8,175, the last that it fits at; the codebook and
the vector registers of a thread whose window holds 32 registers. -/
def smallStep : MmaFields := { mmaRow with mm1 := 0, km1 := 2, nm1 := 16 }
def smallReuse : MmarFields := { mmarRow with mm1 := 0 }
def matrix : State := thread 1 [(1, 8175), (2, 0xFFE0), (3, 0x100), (4, 8176), (5, 16), (6, 0x40)]
theorem witness_MatrixComplete_mma : StepFits matrix (State.mmaIssue .none 1 2 3 smallStep 0) 65536 65536 :=
  ⟨by decide +kernel, by decide +kernel, by decide +kernel, by decide +kernel,
    by decide +kernel, by decide +kernel, by decide +kernel, rfl,
    by decide +kernel, by decide +kernel, by decide +kernel,
    fun b e => by
    cases (show some (3 : Reg) = some b from e)
    exact ⟨rfl, by decide +kernel, by decide +kernel, by decide +kernel⟩,
    by decide +kernel, by decide +kernel⟩
theorem witness_MatrixComplete_pitch : StepFits matrix (State.mmaIssue .none 1 2 3 smallStep 0x2200000006) 65536 65536 :=
  ⟨by decide +kernel, by decide +kernel, by decide +kernel, by decide +kernel,
    by decide +kernel, by decide +kernel, by decide +kernel, rfl,
    by decide +kernel, by decide +kernel, by decide +kernel,
    fun b e => by
    cases (show some (3 : Reg) = some b from e)
    exact ⟨rfl, by decide +kernel, by decide +kernel, by decide +kernel⟩,
    by decide +kernel, by decide +kernel⟩
theorem witness_MatrixComplete_mmar : StepFits matrix (matrix.mmarIssue .none 1 2 smallReuse 0) 65536 65536 :=
  ⟨by decide +kernel, by decide +kernel, by decide +kernel, by decide +kernel,
    by decide +kernel, by decide +kernel, by decide +kernel, rfl,
    by decide +kernel, by decide +kernel, by decide +kernel,
    fun b e => (by cases (show (none : Option Reg) = some b from e)),
    by decide +kernel, by decide +kernel⟩
theorem witness_MatrixComplete_mmarPitch : StepFits matrix (matrix.mmarIssue .none 1 2 smallReuse 2) 65536 65536 :=
  ⟨by decide +kernel, by decide +kernel, by decide +kernel, by decide +kernel,
    by decide +kernel, by decide +kernel, by decide +kernel, rfl,
    by decide +kernel, by decide +kernel, by decide +kernel,
    fun b e => (by cases (show (none : Option Reg) = some b from e)),
    by decide +kernel, by decide +kernel⟩
theorem witness_MatrixComplete : matrix.curCore.dispatch.length < 16 ∧ Reads matrix [4, 5] ∧ (matrix.val 4).toInt < 8192 ∧
    (matrix.val 4).toInt + (matrix.val 5).toInt ≤ 8192 ∧ (matrix.val 4).toInt ≤ 8176 ∧ InWindow matrix [State.lowVreg 15] ∧
    (matrix.vecReg (State.lowVreg 15)).settled = true ∧ VReads matrix [State.lowVreg 15] ∧ matrix.ctx.acquiring = [] ∧
    InSegment (matrix.seg 1) (matrix.val 2).toInt 32 rightR ∧ (matrix.seg 1).addr 0xFFE0 % 32 = 0 ∧ (matrix.seg 1).isK = true ∧
    InSegment (matrix.seg 0) (matrix.val 2).toInt 32 rightR ∧ (matrix.seg 0).isK = false ∧ Placed matrix 0xFFE0 32 true := by
  and_intros <;> decide +kernel
/-- An index past the accumulator, a count that leaves it, and negative ones (R4, R309). -/
def outside : State := thread 1 [(1, 8192), (2, 8177), (3, 16), (4, 0xFFFFFFFFFFFFFFFF)]
theorem witness_MatrixComplete_traps : Reads outside [1, 2, 3, 4] ∧ 8192 ≤ (outside.val 1).toInt ∧ (outside.val 2).toInt < 8192 ∧
    8192 < (outside.val 2).toInt + (outside.val 3).toInt ∧ 8176 < (outside.val 2).toInt ∧ InWindow outside [State.lowVreg 15] ∧
    (outside.val 4).toInt ≤ 8176 ∧ (outside.val 3).toInt + (outside.val 4).toInt ≤ 8192 := by
  and_intros <;> decide +kernel
theorem test_aclr : seen (exec (.aclr 3 4) outside) (fun t => t.curCore.dispatch.map fun x => x.cmd) = some [.aclr 16 0] ∧
    seen (exec (.aclr 2 3) outside) (fun t => (t.ctx.tcause, t.ctx.tval)) = some (11, 16) := by decide +kernel
theorem test_mma_operand : seen (exec (.mma .none 4 2 3 smallStep) matrix) (fun t => (t.ctx.tcause, t.ctx.tval)) = some (11, 8176) := by decide +kernel

/-- A matrix section whose head is a step, or a command on the accumulator. -/
def headStep (reuse : Bool) (started : Option Nat) (pass : Nat) (n : Nat) : MatStep :=
  { part := 0, tid := 1, gen := 0, member := 4, reuse := reuse, h := .none, bound := 0, m := 1, k := 1, n := n, atype := .f16, btype := .f16,
    aplace := .spad, bplace := .spad, aoff := 0, boff := 0, apitch := 2, bpitch := 2, rows := [0], abase := 0, cpitch := 1, zero := false,
    started := started, pass := pass, passEnds := 8 }
def section_ (c : ArrayCmd) : State :=
  (loader.modPart 0 fun P => { P with cycle := 8 }).modQuad 0 0 fun Q =>
    { Q with matrix := [{ tid := 1, gen := 0, issued := 0, cmd := c }], matrixFree := 8 }
theorem witness_MatrixSteps : (section_ (.step (headStep false none 0 1))).live 0 = true ∧
    (section_ (.step (headStep false none 0 1))).headStep 0 0 = some (headStep false none 0 1) ∧
    (section_ (.step (headStep false none 0 1))).startDue 0 0 (headStep false none 0 1) = true ∧ (headStep false none 0 1).reuse = false ∧
    (section_ (.step (headStep true none 0 1))).startDue 0 0 (headStep true none 0 1) = true ∧ (headStep true none 0 1).reuse = true ∧
    ((section_ (.step (headStep true none 0 1))).core 0 (coreOf 1)).weights.stationary = false ∧
    (section_ (.step (headStep false (some 0) 0 1))).startDue 0 0 (headStep false (some 0) 0 1) = false ∧
    (section_ (.step (headStep false (some 0) 0 1))).passDue 0 (headStep false (some 0) 0 1) = true ∧
    (section_ (.step (headStep false (some 0) 2 17))).completeDue 0 (headStep false (some 0) 2 17) = true ∧
    ((section_ (.aclr 8191 1)).quad 0 0).matrix = [{ tid := 1, gen := 0, issued := 0, cmd := .aclr 8191 1 }] ∧
    ((section_ (.aclr 8191 1)).quad 0 0).matrixFree ≤ ((section_ (.aclr 8191 1)).part 0).cycle ∧ quadOfCore (coreOf 1) = 0 ∧
    ((section_ (.acwr 8176 7)).quad 0 0).matrix = [{ tid := 1, gen := 0, issued := 0, cmd := .acwr 8176 7 }] := by
  and_intros <;> decide +kernel
/-- The step's next states: a latched step, whose weights are known, and one in its rerun; a step whose codebook is poisoned; and one
that stationary weights of its class serve. -/
def latchedStep (reruns : Nat) : MatStep :=
  { headStep false (some 0) 0 1 with latched := some [[0]], reruns := reruns, inputs := if reruns = 0 then none else some ([[0]], [[0]]) }
def poisonedStep : MatStep := { headStep false (some 0) 0 1 with btype := .cb4, codebook := { poison := some 5 } }
def stationaryStep : State :=
  (section_ (.step (headStep true none 0 1))).modCore 0 0 fun C => { C with weights := { C.weights with stationary := true, btype := .f16 } }
theorem witness_MatrixSteps_pass : (section_ (.step (headStep false (some 0) 0 1))).live 0 = true ∧
    (headStep false (some 0) 0 1).latched = none ∧ (headStep false (some 0) 0 1).btype ≠ .cb4 ∧
    ((match ((section_ (.step (headStep false (some 0) 0 1))).readWeights (headStep false (some 0) 0 1)).2 with
      | .ok _ => true | .error _ => false) = true) ∧
    (section_ (.step poisonedStep)).passDue 0 poisonedStep = true ∧ poisonedStep.latched = none ∧ poisonedStep.btype = .cb4 ∧
    poisonedStep.codebook.poison = some 5 ∧
    (section_ (.step (latchedStep 0))).startDue 0 0 (latchedStep 0) = false ∧ (section_ (.step (latchedStep 0))).passDue 0 (latchedStep 0) = true ∧
    (latchedStep 0).latched ≠ none ∧ (latchedStep 0).reruns = 0 ∧ (latchedStep 1).reruns ≠ 0 ∧
    (section_ (.step (latchedStep 1))).passDue 0 (latchedStep 1) = true ∧
    ((match ((section_ (.step (latchedStep 0))).passInputs (latchedStep 0)).2 with | .ok _ => true | .error _ => false) = true) ∧
    stationaryStep.startDue 0 0 (headStep true none 0 1) = true ∧ (stationaryStep.core 0 (coreOf 1)).weights.stationary = true ∧
    isIntClass (stationaryStep.core 0 (coreOf 1)).weights.btype = isIntClass (headStep true none 0 1).atype := by
  and_intros <;> decide +kernel
/-- Poison in the scratchpad line that holds B and A fails the read of the weights and of a pass. -/
theorem witness_MatrixSteps_poison : let t := (section_ (.step (headStep false (some 0) 0 1))).modCore 0 0 fun C => { C with spadPoison := [0, 1] }
    ((match (t.readWeights (headStep false (some 0) 0 1)).2 with | .ok _ => false | .error _ => true) = true) ∧
    ((match (t.passInputs (latchedStep 0)).2 with | .ok _ => false | .error _ => true) = true) := by
  and_intros <;> decide +kernel
/-- Accumulator words with errors, inside and outside what `aclr`, `acwr` and `acrd` name. -/
theorem witness_MatrixSteps_errors :
    (let s (c : ArrayCmd) : State := (section_ c).modCore 0 0 fun C => { C with accPoison := [15, 16] }
     ((s (.aclr 16 1)).quad 0 0).matrix = [{ tid := 1, gen := 0, issued := 0, cmd := .aclr 16 1 }] ∧
       (∀ w ∈ ((s (.acrd 3 17)).core 0 0).accPoison, w < 17 ∨ 17 + 16 ≤ w) ∧ (16 ∈ ((s (.acwr 0 7)).core 0 0).accPoison) ∧
       ((s (.acrd 3 17)).quad 0 0).matrix = [{ tid := 1, gen := 0, issued := 0, cmd := .acrd 3 17 }]) := by
  and_intros <;> decide +kernel
theorem test_acwr : seen (exec (.accCommandEffect 0 0) (section_ (.acwr 8176 (7 + 9 * 2 ^ 480)))) (fun t =>
    ((t.core 0 0).acc.getD 8176 0, (t.core 0 0).acc.getD 8191 0)) = some (7, 9) := by decide +kernel

/-! ## Batches and repetitions -/

/-- A thread with members in its open batch and with committed batches. -/
def batched (opened : List Member) (n : Nat) : State :=
  loader.modCtx fun c => { c with openBatch := opened, committed := List.replicate n [{ id := 9 }] }
/-- The worked `repx` of 19_array_matrix.md: COUNT 4, STEP 1, w 4, LO 8, LEN 1, and the instruction that follows it. -/
def repeating : State :=
  { (thread 1 [(3, 0x400138001)]) with mem := Memory.writeList [] 68 (bytesOfNat 4 0x00073008) }.modCtx fun c => { c with asid := 0 }
theorem witness_BatchesAndRepetitions : (batched [] 0).ctx.openBatch = [] ∧ (batched [{ id := 8 }] 7).ctx.openBatch ≠ [] ∧
    (batched [{ id := 8 }] 7).ctx.committed.length ≠ 8 ∧ (batched [{ id := 8 }] 8).ctx.committed.length = 8 ∧
    (batched [] 1).ctx.committed.length ≤ (1 : Fin 16).val ∧ (batched [] 1).ctx.errorRec = 0 ∧ (0 : Fin 16).val < (batched [] 1).ctx.committed.length ∧
    ((batched [] 1).modCtx fun c => { c with errorRec := 5 }).ctx.errorRec ≠ 0 ∧ Reads repeating [3] ∧ (repeating.val 3).toNat < 2 ^ 48 ∧
    (repeating.val 3).toNat / 2 ^ 24 % 256 = 0 ∧ (repeating.val 3).toNat / 64 % 64 = 0 ∧ (repeating.val 3).toNat / 2 ^ 32 = 4 ∧
    (repeating.val 3).toNat % 64 = 1 ∧ (repeating.val 3).toNat / 2 ^ 12 % 16 = 8 ∧ (repeating.val 3).toNat / 2 ^ 16 % 16 + 1 = 4 ∧
    ((match State.fetchBlock (repeating.val 3) 1 0 repeating (repeating.ctx.pc + 1) with
      | .ok x => x.2.map fun e => blockOk e.2
      | .error _ => []) = [true]) ∧ Takes repeating 2 ∧ (2 : Reg).val < 8 ∧
    (({ id := 1 } : Member).done = false) ∧ (({ id := 1, done := true } : Member).done = true) := by
  and_intros <;> decide +kernel
theorem test_waitb : seen (exec (.waitb 0) (batched [] 1)) (fun t => t.ctx.state) = some (.parked (.batches 0)) ∧
    seen (exec (.waitb 1) ((batched [] 1).modCtx fun c => { c with errorRec := 5 })) (fun t => (t.ctx.tcause, t.ctx.tval)) = some (13, 5) := by
  decide +kernel

/-! ## Tiles and tours -/

/-- A tour of one stop, of one row of 128 bytes, held at core 0, in a state. -/
def tourIn (st : TourState) (read written : NSet) (aborts : List (Nat × Nat × Waiter)) (wb : Bool) : Tour :=
  { part := 0, tid := 1, gen := 0, region := 1024, d := 8, asid := 0, h := .none, bound := 0, sseg := loader.seg 0, soff := 0, rows := 1,
    rowBytes := 128, pitch := 0, cap := 4, wb := wb, wseg := loader.seg 0, woff := 0, seq := 7, state := st, rowsRead := read, written := written,
    aborts := aborts, stops := [{ core := 0, slot := 0, hold := 2, policy := 0, copy := false, coff := 0, alt := 0 }] }
/-- Slot 0 of core 0 as that tour has it. -/
def slotIn (st : SlotState) : TileSlot := { state := st, tour := some (0, 0), size := 128, limit := 2, bytes := [(5, 0x80)] }
def touring (t : Tour) (x : TileSlot) : State :=
  ((thread 1 [(1, 5), (2, 124), (3, 0xFFFFFFFFFFFFFFFF), (4, 1), (5, 128)]).modQuad 0 0 fun Q => { Q with tours := [(0, t)] }).modCore 0 0
    fun C => { C with slots := [(0, x)] }
/-- A slot without a tour, in a state and with a mark. -/
def slotWith (st : SlotState) (m : SlotMark) : State :=
  (thread 1 [(1, 5)]).modCore 0 0 fun C => { C with slots := [(0, { state := st, mark := m, size := 128 })] }
def atStop : State := touring (tourIn (.atStop 0 false) [0, 1] [] [] false) (slotIn .ready)
theorem witness_TileInstructions : atStop.ctx.phase = .fresh ∧ Takes atStop 8 ∧ (atStop.slotHere 0).state = .ready ∧
    ((slotWith .empty .overrun).slotHere 0).state ≠ .ready ∧ ((slotWith .empty .overrun).slotHere 0).mark ≠ .none ∧
    ((slotWith .filling .none).slotHere 0).mark = .none ∧ ((slotWith .empty .overrun).slotHere 0).state = .empty ∧
    atStop.slotHeld 0 0 0 = false ∧ (slotWith .ready .none).slotTour 0 0 0 = none ∧ ((slotWith .ready .none).slotHere 0).state = .ready ∧
    ((atStop.slotTour 0 0 0).map fun x => (x.1, x.2.1, x.2.2.1)) = some (0, 0, tourIn (.atStop 0 false) [0, 1] [] [] false) ∧
    (atStop.slotHere 0).tour = some (0, 0) ∧ (tourIn (.atStop 0 false) [0, 1] [] [] false).wb = false ∧ Reads atStop [1, 2, 3, 4, 5] ∧
    (atStop.slotHere 0).limit ≠ 0 ∧ (atStop.slotHere 0).overrun = false ∧ ((slotWith .ready .none).slotHere 0).tour = none ∧
    atStop.ctx.acquiring = [] ∧ 0 ≤ (atStop.val 2).toInt ∧ (atStop.val 2).toInt + (4 : Nat) ≤ (atStop.slotHere 0).size ∧
    (atStop.val 2).toNat % 4 = 0 ∧ (atStop.slotHere 0).poisoned (atStop.val 2).toNat 4 = none ∧ (atStop.val 3).toInt < 0 := by
  and_intros <;> decide +kernel
/-- A tour at a stop whose slot nothing reads, and a tile with a poisoned granule. -/
def spoiled : State := touring (tourIn (.atStop 0 false) [0, 1] [] [] false) { slotIn .ready with poison := [0] }
theorem witness_TileInstructions_abort : Takes atStop 8 ∧ (atStop.slotHere 0).tour = some (0, 0) ∧
    (atStop.tourOf 0 0 0).isSome = true ∧ (atStop.quad 0 0).tours.sorted = true ∧ (tourIn (.atStop 0 false) [0, 1] [] [] false).state ≠ .reserving ∧
    (((tourIn (.atStop 0 false) [0, 1] [] [] false).places.any fun z => atStop.holds 0 0 0 z && atStop.slotHeld 0 z.core z.slot) = false) ∧
    spoiled.ctx.acquiring = [] ∧ Reads spoiled [1, 4] ∧ (spoiled.slotHere 0).state = .ready ∧
    (spoiled.val 4).toInt + (4 : Nat) ≤ (spoiled.slotHere 0).size ∧ ((State.val spoiled 4).toNat * 0 % 4 = 0) ∧
    (spoiled.slotHere 0).poisoned 0 4 ≠ none := by
  and_intros <;> decide +kernel
/-- An EMPTY slot with a mark, an offset from which the element ends past the tile, a misaligned one, and the last stop of a tour that
writes back, before and after the tour's end. -/
theorem witness_TileInstructions_edges : Reads (slotWith .empty .overrun) [1] ∧ Takes (slotWith .empty .overrun) 8 ∧
    (slotWith .empty .overrun).ctx.acquiring = [] ∧ (slotWith .empty .overrun).ctx.phase = .fresh ∧
    (((atStop.slotHere 0).size : Nat) : Int) < (atStop.val 5).toInt + (1 : Nat) ∧
    0 ≤ (atStop.val 1).toInt ∧ (atStop.val 1).toInt + (2 : Nat) ≤ (atStop.slotHere 0).size ∧ (atStop.val 1).toNat % 2 ≠ 0 ∧
    (let y := tourIn (.atStop 0 false) [0, 1] [] [] true
     let s := touring y (slotIn .ready)
     (s.slotTour 0 0 0).map (fun z => (z.1, z.2.1, z.2.2.1)) = some (0, 0, y) ∧ y.wb = true ∧
       State.nextPlace y { core := 0, slot := 0, stop := 0, alternate := false } false = none ∧ s.slotHeld 0 0 0 = false ∧
       (s.curPart.quads.any fun q => q.2.tours.any fun z => decide (z.2.seq = 7)) = true ∧
       (s.curPart.quads.any fun q => q.2.tours.any fun z => decide (z.2.seq = 8)) = false) ∧
    (atStop.modCtx fun c => { c with phase := .drained 8 }).ctx.phase = .drained 8 := by
  and_intros <;> decide +kernel
/-- A slot without a limit, one that has overrun, and a tour's slot beside the one that `tabort` names. -/
theorem witness_TileInstructions_limits :
    (let s := touring (tourIn (.atStop 0 false) [0, 1] [] [] false) { slotIn .ready with limit := 0 }
     (s.slotTour 0 0 0).isSome = true ∧ (s.slotHere 0).limit = 0 ∧ (s.slotHere 0).state = .ready) ∧
    (let s := touring (tourIn (.atStop 0 false) [0, 1] [] [] false) { slotIn .ready with overrun := true }
     (s.slotTour 0 0 0).isSome = true ∧ (s.slotHere 0).limit ≠ 0 ∧ (s.slotHere 0).overrun = true) ∧
    (tourIn (.atStop 0 false) [0, 1] [] [] false).aborts = [] ∧ atStop.cur.ctx < 16 ∧ atStop.chan 8 = none ∧
    ((touring (tourIn .reading [] [] [] false) (slotIn .filling)).slotHere 0).state = .filling ∧ (slotIn .filling).limit ≠ 0 ∧
    ((touring (tourIn (.atStop 0 false) [0, 1] [] [] false) (slotIn .draining)).slotHere 0).state = .draining ∧
    ((tourIn (.atStop 0 false) [0, 1] [] [] false).places.all fun z => atStop.holds 0 0 0 z) = true := by
  and_intros <;> decide +kernel
/-- R278: the slot that `tabort` names is EMPTY without a mark; a `trel` that comes first does not end an aborted tour as DONE. -/
theorem test_tabort : seen (exec (.tabort 0 8) atStop) (fun t => (t.slotHere 0, (t.reg 8).val, (t.reg 8).full)) = some ({}, 0, true) ∧
    seen (exec (.trel 0) (touring (tourIn (.atStop 0 false) [0, 1] [] [(0, 1, { tid := 1, gen := 0, d := 8 })] false) (slotIn .ready)))
      (fun t => ((t.slotHere 0).state, (t.slotHere 0).mark, (t.reg 8).val, (t.tourOf 0 0 0).isSome)) = some (.empty, .aborted, 0, false) := by
  decide +kernel
/-- The status word of a slot whose visit has run 65 cycles of its 128 (R277). -/
theorem test_tstat : seen (exec (.tstat 0 8) (atStop.modPart 0 fun P => { P with cycle := 65 })) (fun t => (t.reg 8).val) =
    some 0x8000000001000000 := by decide +kernel
theorem test_tld : seen (exec (.tld 0 0 8 1) atStop) (fun t => t.curQuad.locals.map fun y => (y.due, y.kind)) =
    some [(4, .reg 8 0xFFFFFFFFFFFFFF80)] := by decide +kernel
theorem test_tile_trap : seen (exec (.tst 0 2 4 5) atStop) (fun t => (t.ctx.tcause, t.ctx.tval)) = some (6, 0) ∧
    seen (exec (.twait 0 8) (slotWith .empty .overrun)) (fun t => ((t.reg 8).val, (t.slotHere 0).mark)) = some (0x1000000000000000, .none) := by decide +kernel

/-- The header of an itinerary of one stop: CAP 4, one row of 128 bytes from segment 0 at 0x100, and its stop: core 0, slot 0, HOLD 2
(R261). -/
def headerWord : Nat := 1 + 4 * 2 ^ 8 + 0x100 * 2 ^ 40 + 128 * 2 ^ 80 + 1 * 2 ^ 97
def stopWord : Nat := 2
/-- A thread whose reads of the itinerary have been answered, in a phase. -/
def itinerary (phase : Nat) (h : Nat) (stops : List Nat) (po : Option Nat) : State :=
  loader.modCtx fun c => { c with phase := .asked phase
                                  reply := some { bytes := bytesOfNat 64 h ++ stops.flatMap (bytesOfNat 16), poison := po } }
theorem witness_ToursIssue : loader.ctx.phase = .fresh ∧ Reads loader [1] ∧ Takes loader 8 ∧ loader.ctx.acquiring = [] ∧ (loader.seg 0).isK = false ∧
    InSegment (loader.seg 0) (loader.val 1).toInt 64 rightR ∧ (loader.seg 0).addr (loader.val 1).toInt % 64 = 0 ∧
    freeKey loader.curQuad.tours 32 = some 0 ∧ Placed loader ((loader.seg 0).addr (loader.val 1).toInt) 64 true ∧
    (itinerary 1 (headerWord + 16) [] none).ctx.phase = .asked 1 ∧ (itinerary 1 (headerWord + 16) [] none).replyPending = false ∧
    bitsOf (natOfBytes (bytesOfNat 64 (headerWord - 1))) 4 0 = 0 ∧ 16 < bitsOf (natOfBytes (bytesOfNat 64 (headerWord + 16))) 4 0 ∧
    (itinerary 2 headerWord [stopWord] none).ctx.phase = .asked 2 ∧ Takes (itinerary 2 headerWord [stopWord] none) 8 ∧
    natOfBytes ((bytesOfNat 64 headerWord ++ bytesOfNat 16 stopWord).take 64) = headerWord ∧
    natOfBytes (((bytesOfNat 64 headerWord ++ bytesOfNat 16 stopWord).drop 64).take 16) = stopWord ∧
    itineraryMalformed loader.curPart headerWord [stopWord] = false ∧ itineraryMalformed loader.curPart headerWord [stopWord + 2 ^ 31] = true ∧
    InSegment (loader.seg 0) (0x100 : Nat) 128 rightT ∧ (itineraryOf headerWord).wb = false ∧ (itineraryOf headerWord).sseg = 0 ∧
    (itineraryOf headerWord).soff = 0x100 ∧ (itineraryOf headerWord).rowBytes = 128 ∧ (itineraryOf headerWord).rows = 1 := by
  and_intros <;> decide +kernel
/-- A record in the scratchpad: well formed, of no stop, and with a poisoned line. -/
def itineraryK (bytes : List Byte) : State := loader.modCurCore fun C => { C with spad := Memory.writeList [] 64 bytes }
theorem witness_ToursIssue_spad :
    (let s := itineraryK (bytesOfNat 64 headerWord ++ bytesOfNat 16 stopWord)
     s.ctx.phase = .fresh ∧ Reads s [6] ∧ Takes s 8 ∧ s.ctx.acquiring = [] ∧ (s.seg 1).isK = true ∧ InSegment (s.seg 1) (s.val 6).toInt 64 rightR ∧
       (s.seg 1).addr (s.val 6).toInt % 64 = 0 ∧ freeKey s.curQuad.tours 32 = some 0 ∧ (s.spadLoad 0 0 1 64 64).2.2 = none ∧
       natOfBytes (s.spadLoad 0 0 1 64 64).2.1 = headerWord ∧ bitsOf headerWord 4 0 = 1 ∧
       InSegment (s.seg 1) ((s.val 6).toInt + 64) (16 * 1) rightR ∧ ((s.spadLoad 0 0 1 64 64).1.spadLoad 0 0 1 128 16).2.2 = none ∧
       natOfBytes ((s.spadLoad 0 0 1 64 64).1.spadLoad 0 0 1 128 16).2.1 = stopWord) ∧
    bitsOf (natOfBytes (loader.spadLoad 0 0 1 64 64).2.1) 4 0 = 0 ∧
    ((loader.modCurCore fun C => { C with spadPoison := [1] }).spadLoad 0 0 1 64 64).2.2.isSome = true ∧
    (let s := (itineraryK (bytesOfNat 64 headerWord ++ bytesOfNat 16 stopWord)).modCurCore fun C => { C with spadPoison := [2] }
     (s.spadLoad 0 0 1 64 64).2.2 = none ∧ ((s.spadLoad 0 0 1 64 64).1.spadLoad 0 0 1 128 16).2.2.isSome = true) := by
  and_intros <;> decide +kernel
theorem test_tour : seen (exec (.tour 0 8 1) (itinerary 2 headerWord [stopWord] none)) (fun t =>
    (t.curQuad.tours.map fun y => (y.2.soff, y.2.rowBytes, y.2.state), (t.reg 8).full)) = some ([(0x100, 128, .reserving)], false) := by decide +kernel

/-- A region of core 0 in address space 0. -/
def region : Region :=
  { rcb := 0x4000, rcbAsid := 0, asid := 0, active := true, nx := 2, ny := 2, nz := 1, root := 0, cores := [0], image := 0x1000, segt := 0,
    cellmap := 0, kvmiss := 0, spill := 0, spilln := 0, quant := 0, wctx := 0, tsb := 1024, fdom := 0, prio := 0, det := false, ronce := true,
    strict := false }
/-- A read-once region 3 whose tour would read bytes that a recorded tile holds, or with a full registry. -/
def once (l : List RegistryEntry) : State :=
  ((touring { tourIn .reserving [] [] [] false with region := 3 } {}).modPart 0 fun P => { P with regions := [(3, region)] }).modCaldera 0
    fun c => { c with registry := l }
def recorded : RegistryEntry := { part := 0, region := 3, base := 64, rowBytes := 64, rows := 1, pitch := 0 }
/-- A stop of a policy. -/
def stopWith (core policy : Nat) : TourStop := { core := core, slot := 0, hold := 2, policy := policy, copy := false, coff := 0, alt := 0 }
def thePlace : TourPlace := { core := 0, slot := 0, stop := 0, alternate := false }
theorem witness_ToursRun :
    (once []).tourOf 0 0 0 = some { tourIn .reserving [] [] [] false with region := 3 } ∧ (once []).live 0 = true ∧
    (((once []).quad 0 0).tours.any fun y => decide (y.2.tid = 1 ∧ y.2.state = .reserving ∧ y.2.seq < 7)) = false ∧
    ((once []).part 0).regions.find? 3 = some region ∧ region.ronce = true ∧
    (once [recorded]).toured 0 0 { tourIn .reserving [] [] [] false with region := 3 } = true ∧
    (once []).toured 0 0 { tourIn .reserving [] [] [] false with region := 3 } = false ∧
    (once []).registryTaken 0 0 { tourIn .reserving [] [] [] false with region := 3 } = false ∧
    (tourIn .reserving [] [] [] false).registered = false ∧
    (tourIn .reserving [] [] [] false).places[(tourIn .reserving [] [] [] false).asked]? = some thePlace ∧
    ((once []).grantPlace 0 0 0 { tourIn .reserving [] [] [] false with region := 3 } thePlace).isSome = true ∧
    ((touring { tourIn .reserving [] [] [] false with region := 3 } { state := .ready }).grantPlace 0 0 0
      { tourIn .reserving [] [] [] false with region := 3 } thePlace) = none ∧
    (tourIn .reading [0, 1] [] [] false).places = [thePlace] ∧
    (touring (tourIn .reading [0, 1] [] [] false) (slotIn .filling)).acquireDone 0 1 0 false .none = true ∧
    (tourIn .reading [0, 1] [] [] false).rowsRead.length = (tourIn .reading [0, 1] [] [] false).pieces (tourIn .reading [0, 1] [] [] false).srcRow ∧
    (touring (tourIn (.atStop 0 false) [0, 1] [] [] false) (slotIn .draining)).placeNow 0 0 0 (tourIn (.atStop 0 false) [0, 1] [] [] false) =
      some thePlace ∧
    State.nextPlace (tourIn (.atStop 0 false) [0, 1] [] [] false) thePlace false = none ∧
    (State.nextPlace { tourIn (.atStop 0 false) [0, 1] [] [] false with stops := (tourIn .reserving [] [] [] false).stops ++ [stopWith 1 0] } thePlace false).isSome = true := by
  and_intros <;> decide +kernel
/-- The reads of the tour's second piece. -/
def tourReader : Reader := { issuer := .tour 0 0, part := 0, quad := 0, tid := 1, tag := 1, asid := 0 }
/-- The requests of a tour that the registry has taken: all places asked, granted or refused, and a piece of a tour's read. -/
theorem witness_ToursRun_requests :
    (let t : Tour := { tourIn .reserving [] [] [] false with region := 3, registered := true, asked := 1 }
     let s := touring t {}
     s.tourOf 0 0 0 = some t ∧ s.live 0 = true ∧ t.places[t.asked]? = none ∧ t.refused = false ∧ ({ t with refused := true } : Tour).aborts = []) ∧
    (let t := tourIn .reading [0] [] [] false
     let s := touring t (slotIn .filling)
     s.live 0 = true ∧ t.places.head? = some thePlace ∧ (pieceOf t.rowBytes 1).1 < t.rows ∧
       (pieceOf t.rowBytes 1).2 < lineCount (t.srcRow (pieceOf t.rowBytes 1).1) t.rowBytes ∧ t.rowsRead.contains 1 = false ∧
       (s.engineRead tourReader t.sseg
         (t.soff + (pieceOf t.rowBytes 1).1 * t.pitch + (linePiece (t.srcRow (pieceOf t.rowBytes 1).1) t.rowBytes (pieceOf t.rowBytes 1).2).1 : Nat)
         (linePiece (t.srcRow (pieceOf t.rowBytes 1).1) t.rowBytes (pieceOf t.rowBytes 1).2).2).2 = .held ∧
       ((fetchedAs (.tour 0 0) 1 [0x40] s).engineRead tourReader t.sseg
         (t.soff + (pieceOf t.rowBytes 1).1 * t.pitch + (linePiece (t.srcRow (pieceOf t.rowBytes 1).1) t.rowBytes (pieceOf t.rowBytes 1).2).1 : Nat)
         (linePiece (t.srcRow (pieceOf t.rowBytes 1).1) t.rowBytes (pieceOf t.rowBytes 1).2).2).2 = .bytes (List.replicate 64 0) none) := by
  and_intros <;> decide +kernel
/-- A tile whose next stop lies in another quad, before its hop, on a leg before its last, and on its last. -/
def hopping (h : Option Hop) : Tour :=
  { tourIn (.atStop 0 false) [0, 1] [] [] false with stops := (tourIn .reserving [] [] [] false).stops ++ [stopWith 4 0], hop := h }
theorem witness_ToursRun_hops :
    (State.nextPlace (hopping none) thePlace false).map (fun z => quadOfCore z.core) = some 1 ∧
    (let s := touring (hopping none) (slotIn .draining)
     s.placeNow 0 0 0 (hopping none) = some thePlace ∧ (s.slotOf 0 0 0).state = .draining) ∧
    (let h : Hop := { src := 0, dst := 1, leg := 0, seq := 4 }
     let s := touring (hopping (some h)) (slotIn .draining)
     s.firstOf 0 (some h.channel) = true ∧ legCount h.src h.dst = 1 ∧ 1 < legCount 0 1024 ∧
       ({ s.modPart 0 (fun P => { P with det := true }) with accesses := [(5, { accessOf aLoad (.leg 0 3) with dst := 1 })] } : State).firstOf 0
         (some h.channel) = false) := by
  and_intros <;> decide +kernel
/-- A stop that copies its tile to the scratchpad at 0x40, in a cycle in which a thread has used bank 0, and in another (R170). -/
def copyStop (banked : Nat) : State :=
  (touring { tourIn .reading [0, 1] [] [] false with stops := [{ stopWith 0 0 with copy := true, coff := 0x40 }] } (slotIn .filling)).modCore 0 0
    fun C => { C with banked := (banked, [0]) }
theorem witness_ToursRun_banks :
    (copyStop 1).copyWaits 0 { tourIn .reading [0, 1] [] [] false with stops := [{ stopWith 0 0 with copy := true, coff := 0x40 }] } thePlace = true ∧
    (copyStop 0).copyWaits 0 { tourIn .reading [0, 1] [] [] false with stops := [{ stopWith 0 0 with copy := true, coff := 0x40 }] } thePlace = false ∧
    (touring (tourIn .reading [0, 1] [] [] false) (slotIn .filling)).copyWaits 0 (tourIn .reading [0, 1] [] [] false) thePlace = false := by
  and_intros <;> decide +kernel
/-- The full registry, an aborted tour, a written tile, and an overrun under both policies. -/
theorem witness_ToursRun_ends :
    1024 ≤ ((once (List.replicate 1024 { recorded with region := 4 })).caldera 0).registry.length ∧
    (let a : List (Nat × Nat × Waiter) := [(0, 0, { tid := 1, gen := 0, d := 9 })]
     let s := touring (tourIn (.atStop 0 false) [0, 1] [] a false) (slotIn .ready)
     (s.quad 0 0).tours.sorted = true ∧ ([thePlace].any fun x => s.holds 0 0 0 x && s.slotHeld 0 x.core x.slot) = false) ∧
    (let t := tourIn .writingBack [0, 1] [0, 1] [] true
     let s := touring t (slotIn .draining)
     s.placeNow 0 0 0 t = some thePlace ∧ t.written.length = t.pieces t.dstRow ∧ s.releaseDone 0 1 (.tour 0 0) .none = true) ∧
    atStop.overrunDue 0 0 0 = false ∧
    (let s := atStop.modPart 0 fun P => { P with cycle := 128 }
     s.slotTour 0 0 0 = some (0, 0, tourIn (.atStop 0 false) [0, 1] [] [] false, thePlace) ∧ s.overrunNow 0 (tourIn (.atStop 0 false) [0, 1] [] [] false) thePlace = true ∧
      s.overrunLeaves 0 (tourIn (.atStop 0 false) [0, 1] [] [] false) thePlace = false ∧
      s.overrunLeaves 0 { tourIn (.atStop 0 false) [0, 1] [] [] false with stops := [stopWith 0 1] } thePlace = true) := by decide +kernel

/-! ## Vents -/

/-- Two rows of 64 INT8 weights from memory at 0x100, of one vector whose activations stand at 0x40, to the scratchpad at 0x80. -/
def ventFields : MvbFields :=
  { wseg := 0, dseg := 1, accum := false, vm1 := 0, wtype := .i8, atype := .i8, slog := 0, cm1 := 63, rm1 := 1 }
def venter : State := thread 1 [(1, 0x100), (2, 0x40), (3, 0x80), (4, 0xFFC0), (5, 0), (6, 2 ^ 63)]
def ventCmd (st : VentState) (done : NSet) : VentCmd :=
  { part := 0, tid := 1, gen := 0, asid := 0, h := .none, bound := 0, order := 0, member := 0, wseg := loader.seg 0, dseg := loader.seg 1, woff := 0x100,
    doff := 0x80, act := 0x40, v := 1, c := 64, m := 2, st := 64, wtype := .i8, accum := false, cboff := 0, state := st, rowsDone := done,
    pages := [{ va := 0x100, size := 128, pa := 0x100, row := true }] }
def venting (x : VentCmd) : State := loader.modQuad 0 0 fun Q => { Q with vents := [(0, x)] }
/-- The same with a row layout of its page, and without. -/
def rowPaged : State :=
  { venting (ventCmd .queued []) with
    homes := [(0, { tlb := [{ asid := 0, vpage := 0, ps := 0, pages := 1, pbn := 0, bl := true, pin := false, cnt := false, mq := false }] })] }
theorem witness_VentsComplete : freeKey venter.curQuad.vents 16 = some 0 ∧ Reads venter [1, 2, 3, 4, 5, 6] ∧ venter.ctx.acquiring = [] ∧
    (venter.val 4).toNat + 64 ≤ 65536 ∧ (venter.val 2).toNat % 64 = 0 ∧ (venter.val 1).toNat < 2 ^ 63 ∧
    InSegment (venter.seg 0) (venter.val 1).toInt (ventCmd .queued []).weightLen rightB ∧ (venter.seg 0).addr 0x100 % 64 = 0 ∧
    InSegment (venter.seg 1) (venter.val 3).toInt (ventCmd .queued []).destLen rightW ∧ (venter.seg 1).addr 0x80 % 4 = 0 ∧
    (ventCmd .queued []).act + (ventCmd .queued []).v * (ventCmd .queued []).vecStep ≤ 0x80 ∧ venter.ctx.openBatch.length < 127 ∧
    bitsOf (0xFFE0 : Word64).toNat 63 16 = 0 ∧ (0xFFE0 : Word64).toNat % 32 = 0 ∧ 65536 < (venter.val 4).toNat + 2 * 64 ∧
    (venting (ventCmd .streaming [0, 1])).live 0 = true ∧ (ventCmd .streaming [0, 1]).rowsDone.length = (ventCmd .streaming [0, 1]).m ∧
    (ventCmd .streaming [0]).rowAt ((ventCmd .streaming [0]).vent 1) 1 = false ∧
    (venting (ventCmd .streaming [0])).ventTaken (ventCmd .streaming [0]) ((ventCmd .streaming [0]).vent 1) = false ∧
    (venting (ventCmd .streaming [0, 1])).releaseDone 0 1 (.vent 0 0) .none = true ∧
    State.ventBehind ((venting (ventCmd .streaming [0])).quad 0 0) (ventCmd .streaming [0]) 1 = false ∧
    ((ventCmd .streaming [0]).readBanks ((ventCmd .streaming [0]).rowLen / 64 + 2) { venting (ventCmd .streaming [0]) with poison := [5, 80] }
      ((ventCmd .streaming [0]).rowVa 1) 64).2.2.isSome = true := by
  and_intros <;> decide +kernel
theorem witness_VentsComplete_translation :
    State.ventHead ((venting (ventCmd .queued [])).quad 0 0) (ventCmd .queued []) = true ∧
    (venting (ventCmd .queued [])).acquireDone 0 1 0 false .none = true ∧
    ((venting (ventCmd .queued [])).ventPages 0 0 0 (ventCmd .queued []) true [] [(0x100, 128)]).2.2 = some (none, 0) ∧
    ((venting (ventCmd .queued [])).ventPages 0 0 0 { ventCmd .queued [] with asid := 5 } true [] [(0x100, 128)]).2.2 = some (some .held, 0x100) ∧
    (({ venting (ventCmd .queued []) with walks := [{ pageWalk with va := 0x100, asid := 5, engine := some (.vent 0 0), result := some (.fault 0) }] } :
      State).ventPages 0 0 0 { ventCmd .queued [] with asid := 5 } true [] [(0x100, 128)]).2.2 = some (some (.fault 0), 0x100) ∧
    (venting (ventCmd .queued [])).rangePages 0 2 0x100 128 = [(0x100, 128)] ∧
    (rowPaged.ventPages 0 0 0 (ventCmd .queued []) true [] [(0x100, 128)]).2.2 = none ∧ (ventCmd .queued []).wtype ≠ .cb4 ∧
    (ventCmd .queued []).olds = [] ∧
    (State.ventGranules 0 0 1 [] ((ventCmd .queued []).v * (ventCmd .queued []).vecStep / 64) rowPaged (ventCmd .queued []).act).2.2 = none ∧ (ventCmd .queued []).dseg.isK = true ∧
    venter.val 5 = 0 ∧ Takes venter 8 ∧ (venter.val 6).toNat / 8192 = 2 ^ 50 := by decide +kernel
/-- Sums and activations whose banks a thread has used in the cycle, a row that the vents of partition 0 are still to read and one that they
have read, and two commands of the thread. -/
def ventBanked (x : VentCmd) : State := (venting x).modCore 0 0 fun C => { C with banked := (1, [0, 1]) }
theorem witness_VentsComplete_banks :
    (ventBanked (ventCmd .streaming [0])).sumWaits 0 (ventCmd .streaming [0]) 1 = true ∧
    (venting (ventCmd .streaming [0])).sumWaits 0 (ventCmd .streaming [0]) 1 = false ∧
    (ventBanked (ventCmd .translating [])).bankTaken 0 0 0x40 64 = true ∧ (venting (ventCmd .translating [])).bankTaken 0 0 0x40 64 = false ∧
    (venting (ventCmd .streaming [0])).ventsRead 0 5 = true ∧ (venting (ventCmd .streaming [0, 1])).ventsRead 0 5 = false ∧
    (copyOf []).dseg.isK = true ∧ (copying []).bankTaken 0 0 0x100 64 = false ∧
    (let y := ventCmd .streaming [0, 1]
     let z := { ventCmd .queued [] with order := 3 }
     let s := venter.modQuad 0 0 fun Q => { Q with vents := [(0, z), (1, y)] }
     (s.curQuad.vents.filter fun y => decide (y.2.tid = s.curTid ∧ y.2.gen = s.ctx.gen)) = [(0, z), (1, y)] ∧ y.order < z.order) := by
  and_intros <;> decide +kernel
/-- Two commands out, of the older of which two rows have ended (R336). -/
theorem test_bstat : seen (exec (.bstat 8 5) (venter.modQuad 0 0 fun Q =>
    { Q with vents := [(0, { ventCmd .queued [] with order := 3 }), (1, ventCmd .streaming [0, 1])] })) (fun t => (t.reg 8).val) =
    some 0x0200000000000002 := by decide +kernel
/-- R336: a corrected error counts in CORR where a vent read of the partition meets it, and not where a patrol read does. -/
theorem test_corr : seen (exec (.eccError (.vent 0 5) true) (venting (ventCmd .streaming [0]))) (fun t => ((t.part 0).ventCounts.getD 0 {}).corr) = some 1 ∧
    seen (exec (.patrolRead 5 true) (venting (ventCmd .streaming [0]))) (fun t => ((t.part 0).ventCounts.getD 0 {}).corr) = some 0 := by decide +kernel
theorem test_mvb : seen (exec (.mvb .none 3 1 2 ventFields) venter) (fun t => t.curQuad.vents.map fun y => (y.2.woff, y.2.doff, y.2.act, y.2.m, y.2.c)) =
    some [(0x100, 0x80, 0x40, 2, 64)] := by decide +kernel

/-! ## Cells -/

/-- A grid of two cells of edge 16, owned by cores 0 and 4 (R341). -/
def grid : CellMap :=
  { addr := 0x8000, malformed := false, ox := 0, oy := 0, oz := 0, elx := 20, ely := 20, elz := 20, gx := 2, gy := 1, gz := 1, halo := 1, thresh := 8,
    nres := 1, owners := [0, 4], resv := [5] }
/-- The thread's entry in region 3, at 15.0 in x. -/
def ownEntry : CellEntry := { eid := 0, uid := 0, core := 0, region := 3, tid := 1, origin := 1, x := 0xF0000, y := 0, z := 0, kind := .resident, part := 0 }
/-- A thread of a region with that grid; g1 and g2 move it to the cell's last place or, in g3, to the next cell. -/
def celled : State :=
  (((thread 1 [(1, 0xFFFFF), (2, 0), (3, 0x100000), (4, 0x1FFFFF), (5, 0x200000), (6, 0x40800), (7, 0xE0000), (8, 1)]).modPart 0 fun P =>
    { P with shape := [(0, 2)], regions := [(3, { region with cellmap := 0x8000 })], cellmaps := [(3, grid)] }).modQuad 0 0 fun Q =>
      { Q with cells := [ownEntry] }).modCtx fun c => { c with rv := true, handle := 3, posX := 0xF0000, vwinSize := 0 }
theorem witness_PositionsComplete : Plain celled ∧ Reads celled [1, 2, 3, 4, 5, 6, 7, 8] ∧ celled.cellCheck.toOption = some grid ∧
    (positionOf (celled.val 1) (celled.val 2)).fits = true ∧ grid.cellAt 0xFFFFF 0 0 = some 0 ∧
    (grid.part (grid.partIn 0 0xFFFFF 0 0)).holder = celled.cur.core ∧ grid.cellAt 0x100000 0 0 = some 1 ∧ grid.cellAt 0x1FFFFF 0 0 = some 1 ∧
    (grid.part (grid.partIn 1 0x100000 0 0)).holder ≠ celled.cur.core ∧ (celled.curCore.guardLog.pend >>> celled.cur.ctx) &&& 1 ≠ 1 ∧
    celled.ctx.errorRec = 0 ∧ celled.migrateRefused 4 false = false ∧ celled.ctx.openBatch = [] ∧ celled.accessPending 0 1 = false ∧
    celled.mergePending 0 1 0 = false ∧ celled.copyPending 0 1 0 = false ∧
    celled.answerDue 0 1 0 = false ∧ celled.ownCrossing = none ∧ ((⟨0x7FFFFFFF, 0, 0⟩ : Position).add ⟨1, 0, 0⟩).fits = false ∧
    (thread 1 []).region? = none ∧ Takes celled 9 ∧ celled.residentOf 0 1 = some ownEntry ∧ (celled.val 6).toNat < 2 ^ 32 ∧
    bitsOf (celled.val 6).toNat 31 16 ≤ 4096 ∧ bitsOf (celled.val 6).toNat 15 0 + 16 * bitsOf (celled.val 6).toNat 31 16 ≤ 65536 ∧
    (celled.val 7).toNat < 2 ^ 32 ∧ bitsOf (celled.val 6).toNat 15 0 % 16 = 0 ∧ (celled.val 8).toNat < grid.cells ∧ celled.val 8 ≠ allOnes := by
  decide +kernel
theorem test_crossing : seen (exec (.posw 3 2) celled) (fun t => (t.ctx.state, (t.part 0).crossings.map fun x => (x.2.holder, x.2.tid))) =
    some (.migrating, [(4, 1)]) := by decide +kernel
theorem test_nbr : seen (exec (.nbr 9 6 7) celled) (fun t => t.curQuad.locals.map fun y => (y.due, y.kind)) = some [(4, .reg 9 1)] := by decide +kernel

/-- A change on its way, a crossing at its three ends, and a part that is to be split with a reserve of one core and with none left. -/
def changing : CellChange := { core := 0, quad := 1, region := 3, eid := 0, part := 0, entry := none, made := 0 }
def crossed (last ghost origin : Bool) : Crossing :=
  { tid := 1, region := 3, part := 1, holder := 4, last := last, newTid := some 0x40, ghostGone := ghost, originSet := origin }
def crossing (x : Crossing) : State := celled.modPart 0 fun P => { P with crossings := [(7, x)], changes := [changing] }
def splitting (taken : Nat) : State :=
  { celled.modPart 0 fun P => { P with cellmaps := [(3, { grid with parts := [(0, { grid.part 0 with state := .splitting })] })] } with
    mem := Memory.writeList [] 0x8016 (bytesOfNat 2 taken) }
/-- The reserve step of that part. -/
def reserveAt (stage : Stage) (a : Answer) : Access :=
  { accessOf (.reserve 3 0 1) stage with issuer := .cellPart 3 0, tid := 0, pa := 0x8016, size := 2, va := 0x8016, answer := a }
theorem witness_CrossingsEnd : ((crossing (crossed true false false)).part 0).changes[0]? = some changing ∧
    ((crossing (crossed true false false)).part 0).det = false ∧ State.changeNext ((crossing (crossed true false false)).part 0) 0 changing = true ∧
    ((crossing (crossed true false false)).part 0).crossings.find? 7 = some (crossed true false false) ∧
    State.changePending ((crossing (crossed true false false)).part 0) 7 1 = false ∧
    State.changePending ((crossing (crossed true true false)).part 0) 7 2 = false ∧ (crossed true true false).newTid = some 0x40 ∧
    State.changePending ((crossing (crossed true true true)).part 0) 7 3 = false ∧ (splitting 0).cellMap 0 3 =
      some { grid with parts := [(0, { grid.part 0 with state := .splitting })] } ∧ ((splitting 0).part 0).regions.find? 3 = some { region with cellmap := 0x8000 } ∧
    ((splitting 0).translateNow (.cellPart 3 0) 0 0 0 0 0x8016).2.toOption = some ⟨0x8016, false⟩ ∧ (splitting 0).reserving 0 3 0 = false ∧
    (let s (taken : Nat) : State := { splitting taken with accesses := [(5, reserveAt .home .none)] }
     (s 0).mayApply 5 (reserveAt .home .none) = true ∧ (s 0).isPoisoned 0x8016 = false ∧ natOfBytes ((s 0).readMem 0x8016 2) % 2 ^ 11 < 1 ∧
       1 ≤ natOfBytes ((s 1).readMem 0x8016 2) % 2 ^ 11) ∧
    (reserveAt .answered (.status 0 1)).answer = .status 0 1 ∧ State.changePending ((crossing (crossed true true false)).part 0) 7 5 = false := by
  and_intros <;> decide +kernel

/-! ## Launches -/

/-- A thread with RCB addresses: one aligned, one not, one past the address space; and a packet at 0x40 of the physical function. -/
def launcher (phase : Phase) (reply : Option Reply) : State :=
  (thread 1 [(1, 0xFFF00), (2, 0x101), (3, 2 ^ 52), (4, 3), (5, 1024)]).modCtx fun c => { c with phase := phase, reply := reply }
/-- An RCB with one predecessor at 0x1000, and one with none (R237). -/
def rcbWord : Nat := 2 ^ 832 + 0x1000 * 2 ^ 768
def replyOf (rcb : Nat) : Reply := { bytes := bytesOfNat 256 rcb ++ List.replicate 8 0 }
theorem witness_LaunchesComplete : (launcher .fresh none).ctx.phase = .fresh ∧ Reads (launcher .fresh none) [1, 2, 3, 4, 5] ∧
    Takes (launcher .fresh none) 8 ∧ (launcher .fresh none).ctx.acquiring = [] ∧ ((launcher .fresh none).val 1).toNat % 256 = 0 ∧
    ((launcher .fresh none).val 1).toNat < 2 ^ 52 ∧
    (launcher .fresh none).pendingBefore 0 (launcher .fresh none).issuer 0 (launcher .fresh none).nextAccess (some .md) = false ∧
    (∀ i, i < 4 → Placed (launcher .fresh none) (0xFFF00 + 64 * i) 64 false) ∧ ((launcher .fresh none).val 2).toNat % 256 ≠ 0 ∧
    2 ^ 52 ≤ ((launcher .fresh none).val 3).toNat ∧ (launcher (.asked 1) (some (replyOf 0))).ctx.reply = some (replyOf 0) ∧
    (launcher (.asked 1) (some (replyOf 0))).replyPending = false ∧ (replyOf 0).poison = none ∧
    bitsOf (natOfBytes ((replyOf 0).bytes.take 256)) 835 832 = 0 ∧ 8 < bitsOf (9 * 2 ^ 832) 835 832 ∧
    bitsOf (rcbWord + 2 ^ 768) 819 768 % 8 ≠ 0 ∧ (launcher (.asked 2) (some (replyOf rcbWord))).ctx.phase = .asked 2 ∧
    natOfBytes ((replyOf rcbWord).bytes.take 256) = rcbWord := by
  and_intros <;> decide +kernel

/-- A region whose units core 0 takes: none, the last but one and the last taken, and the last but one and the last done (R242). -/
def worker (taken done : Nat) : State :=
  ((launcher .fresh none).modPart 0 fun P => { P with cycle := 1, regions := [(3, { region with taken := taken, done := done })] }).modCore 0 0
    fun C => { C with tasks := [(0, { handle := 3, next := taken, last := 3, fold := 0, prio := 0 })] }
/-- The worked fold of 14_kernel.md: a region of 30 units on eight cores. -/
def folded : State :=
  (launcher .fresh none).modPart 0 fun P =>
    { P with shape := [(0, 2)], regions := [(3, { region with nx := 10, ny := 3, cores := List.range 8, folding := true })] }
theorem witness_LaunchesComplete_units : State.nextEntry (launcher .fresh none).curCore (launcher .fresh none).now = none ∧
    State.nextEntry (worker 3 0).curCore (worker 3 0).now = some (0, { handle := 3, next := 3, last := 3, fold := 0, prio := 0 }) ∧
    (worker 3 0).curPart.regions.find? 3 = some { region with taken := 3, done := 0 } ∧ ((worker 3 0).val 4).toNat < 2 ^ 10 ∧
    (worker 4 3).curPart.regions.find? 3 = some { region with taken := 4, done := 3 } ∧ (3 : Nat) < 4 ∧ 4 = ({ region with taken := 4 } : Region).units ∧
    2 ^ 10 ≤ ((launcher .fresh none).val 5).toNat ∧ (launcher .fresh none).curPart.regions.find? 3 = none ∧
    (folded.part 0).regions.find? 3 = some { region with nx := 10, ny := 3, cores := List.range 8, folding := true } ∧
    ({ region with nx := 10, ny := 3, cores := List.range 8, folding := true } : Region).mapDue = false ∧ (folded.part 0).holdsQuads = true ∧
    ((List.range 8).any fun c => (freeKey (folded.core 0 c).tasks 16).isNone) = false := by decide +kernel
theorem test_fold : seen (exec (.fold 0 3) folded) (fun t => (List.range 8).map fun c =>
    ((t.core 0 c).tasks.find? 0).map fun e => (e.next, e.last)) =
    some [some (0, 3), some (4, 7), some (8, 11), some (12, 15), some (16, 19), some (20, 23), some (24, 26), some (27, 29)] := by decide +kernel
theorem test_wunext : seen (exec (.wunext 8) (worker 3 0)) (fun t => ((t.reg 8).val, t.ctx.wuX, t.ctx.wuY, t.curCore.tasks.isEmpty)) =
    some (3, 1, 1, true) := by decide +kernel
theorem test_wunext_none : seen (exec (.wunext 8) (launcher .fresh none)) (fun t => (t.reg 8).val) = some 0x1000000000000000 := by decide +kernel

/-- A function's queue of packets, and what the packet at 0x40 holds. -/
def hub (n word : Nat) : State :=
  ({ launcher .fresh none with mem := Memory.writeList [] 0x40 (bytesOfNat 64 word) }).modFunc 0 fun f => { f with packets := List.replicate n 0x40 }
def rooted (c : Option Nat) : State :=
  (launcher .fresh none).modPart 0 fun P =>
    { P with roots := [(5, { done := 0x1000, doneVal := 7, irq := true, vec := 1, refusedCode := c })] }
/-- The hub's reads of a packet's region control block. -/
def packetReader : Reader := { issuer := .packet, part := 0, quad := 0, tid := 0, asid := 0 }
theorem witness_LaunchesComplete_host : (hub 15 0).firmware.state ≠ .recovery ∧ (0x40 : Word64).toNat % 64 = 0 ∧
    (hub 15 0).ownsBlocks 0 (0x40 / blockBytes) (0x40 / blockBytes) = true ∧ ((hub 15 0).func 0).packets.length < 16 ∧
    16 ≤ ((hub 16 0).func 0).packets.length ∧ ((hub 1 0).func 0).packets = [0x40] ∧ (hub 1 0).servesLaunch 0 = true ∧
    ((hub 1 0).func 0).packetFault = none ∧ (hub 1 0).isPoisoned 0x40 = false ∧ (hub 1 1).packetMalformed 0 1 = true ∧
    (hub 1 0x100).packetMalformed 0 0x100 = false ∧
    (engineReadMem packetReader 5 (hub 1 0x100) 0x100 256).2 = .held ∧
    (engineReadMem packetReader 5 (fetchedAs .packet 0 [0x100, 0x140, 0x180, 0x1C0] (hub 1 0x100)) 0x100 256).2 = .bytes (List.replicate 256 0) none ∧
    (engineReadMem packetReader 5 (poisonedAs .packet 0 [0x100, 0x140, 0x180, 0x1C0] (hub 1 0x100)) 0x100 256).2 =
      .bytes (List.replicate 256 0) (some 64) ∧ (hub 1 0x100).hubQuad 0 = 0 ∧ (hub 1 0).bar0Responds 0 0 = true ∧
    ({ hub 1 0 with firmware := { state := .recovery } } : State).bar0Responds 1 0 = false ∧
    ((rooted none).part 0).roots.find? 5 = some { done := 0x1000, doneVal := 7, irq := true, vec := 1 } ∧
    (((rooted none).part 0).regions.any fun x => decide (x.2.root = 5)) = false ∧ (rooted none).writesPending 0 = false ∧
    ({ rooted none with accesses := [(5, accessOf (.store [1] false) .home)] } : State).writesPending 0 = true := by
  and_intros <;> decide +kernel
theorem test_done : seen (exec (.launchDoneWrite 0 5) (rooted (some 3))) (fun t => (natOfBytes (t.readMem 0x1000 8), t.msix)) =
    some (2 ^ 63 + 3, [(0, 1)]) := by decide +kernel

/-- R239: a packet with a reserved bit is refused with code 4, and its region control block's word says so. -/
theorem test_refused_packet : seen (exec (.launchPacket 0) (hub 1 (0x100 + 2 ^ 60))) (fun t =>
    ((t.part 0).roots.map fun r => r.2.refusedCode, natOfBytes (t.readMem 0x100 8))) = some ([some 4], 5 * 2 ^ 61 + 4 * 2 ^ 57) := by decide +kernel

/-! ## Device time and windows -/

/-- Geyser 2, enabled for function 0 with a period of 1,000 ns and 1 grace ns, with four ticks fired (R354), and stream 9 of four slots of
64 bytes that it indexes (R357): ticks 1 to 4 stand in its window. -/
def geyser (en : Nat) : Geyser := { regs := BitVec.ofNat 192 (en + 2 ^ 16 + 1000 * 2 ^ 64), fired := 4 }
def stream (slots : SMap WinSlot) : OpenStream :=
  { func := 0, sink := 0, asid := 0, ports := 3, slotlog := 6, ahead := 1, w := 4, geyser := 2, pages := [(0, false)], slots := slots }
def windowed (en : Nat) (slots : SMap WinSlot) (l : SMap Access) : State :=
  { thread 1 [(1, 2), (2, 0xFFFFFFFFFFFF), (3, 64), (4, 9 + 2 * 2 ^ 16), (5, 0xFFC0)] with
    windows := { geysers := [(2, geyser en)], streams := [(9, { opened := some (stream slots) })] }
    accesses := l, nextAccess := 6 }
def requesting (op : Nat) (a b : Word64) : SMap Access := [(5, accessOf (.window op 8 a b) .home)]
theorem witness_WindowsComplete : Takes (windowed 32 [] []) 8 ∧ Takes (windowed 32 [] []) (State.nextReg 8) ∧ Reads (windowed 32 [] []) [1, 2, 3, 4, 5] ∧
    ((windowed 32 [] []).val 1).toNat < 64 ∧ ((windowed 32 [] []).windows.geyser 2).func = (windowed 32 [] []).cur.part ∧
    ((windowed 32 [] []).val 2).toInt < 2 ^ 48 ∧ (thread 1 [(2, 2 ^ 48)]).val 2 = 2 ^ 48 ∧ (2 : Int) ^ 48 ≤ (2 ^ 48 : Word64).toInt ∧ 64 ≤ ((windowed 32 [] []).val 3).toNat ∧
    ((windowed 32 [] []).windows.streams.getD (((windowed 32 [] []).val 4).toNat % 256) {}).opened = some (stream []) ∧
    bitsOf ((windowed 32 [] []).val 4).toNat 15 8 = 0 ∧ (windowed 32 [] []).ctx.acquiring = [] ∧
    ((windowed 32 [] []).val 5).toNat + 2 ^ 6 ≤ 65536 ∧ ((windowed 32 [] []).val 5).toNat % 64 = 0 ∧
    (windowed 32 [] (requesting 0 2 3)).requestReady (accessOf (.window 0 8 2 3) .home) = true ∧
    ((windowed 0 [] []).windows.geyser 2).en = false ∧ ((windowed 32 [] []).windows.geyser 2).en = true ∧
    (3 : Word64).toInt < ((windowed 32 [] []).windows.geyser 2).fired ∧ ((windowed 32 [] []).windows.geyser 2).fired ≤ (4 : Word64).toInt ∧
    (windowed 32 [] (requesting 1 9 0)).requestReady (accessOf (.window 1 8 9 0) .home) = true ∧
    ((windowed 32 [] []).windows.streams.getD 10 {}).opened = none ∧ (windowed 32 [] []).windows.tick (stream []) 0 = .expired ∧
    (windowed 32 [] []).windows.tick (stream []) 5 = .early ∧ (windowed 32 [] []).windows.tick (stream []) 1 = .slot {} ∧
    (windowed 32 [] []).windows.tick (stream [(0, { state := .present, len := 8 })]) 4 = .slot { state := .present, len := 8 } ∧
    (windowed 32 [] []).windows.tick (stream [(0, { taken := true })]) 4 = .slot { taken := true } ∧
    ({ windowed 32 [] [] with accesses := [(5, accessOf (.take 8 0 0 []) .home)] } : State).accesses.find? 5 =
      some (accessOf (.take 8 0 0 []) .home) := by
  and_intros <;> decide +kernel
/-- A copy that ends with a datagram held, and a stream closed since the request. -/
theorem witness_WindowsComplete_copies :
    (let s := (windowed 32 [] [(5, accessOf (.take 8 0 0 []) .home)]).modWindows fun w =>
       { w with held := [{ stream := 9, time := 0, payload := [], intact := [] }] }
     let u := (s.answerWindow 5 (accessOf (.take 8 0 0 []) .home) (.data (bytesOfNat 8 0))).modWindows fun w => w
     s.accesses.find? 5 = some (accessOf (.take 8 0 0 []) .home) ∧ u.windows.held ≠ [] ∧ u.arrivalsOver = false) ∧
    ((windowed 32 [] (requesting 1 9 0)).windows.streams.getD (9 % 256) {}).openings = (accessOf (.window 1 8 9 0) .home).opening ∧
    (stream []).func = (accessOf (.window 1 8 9 0) .home).part ∧
    (({ opened := some (stream []), openings := 2 } : Stream).openings ≠ (accessOf (.window 1 8 9 0) .home).opening) := by
  and_intros <;> decide +kernel
theorem test_tick_late : seen (exec (.windowRequest 5) (windowed 32 [] (requesting 0 2 3))) (fun t => t.accesses.map fun x => x.2.answer) =
    some [.data (bytesOfNat 8 (2 ^ 60 + 3))] := by decide +kernel
/-- R4: a negative tick is below every tick, and has fired. -/
theorem test_tick_negative : seen (exec (.windowRequest 5) (windowed 32 [] (requesting 0 2 0xFFFFFFFFFFFFFFFF))) (fun t =>
    t.accesses.map fun x => x.2.answer) = some [.data (bytesOfNat 8 (2 ^ 60 + 3))] := by decide +kernel
theorem test_winq : seen (exec (.windowRequest 5) (windowed 32 [(0, { state := .present }), (1, { state := .late })] (requesting 1 (9 + 2 ^ 16) 0)))
    (fun t => t.accesses.map fun x => x.2.answer) = some [.status 8 1] := by decide +kernel

/-- The machine at 2,001 ns, when a period of 1,000 ns and 1 grace ns has made three ticks due, and a descriptor at 0x40 of stream 9 (R357) with its
sink's page pinned. -/
def descriptor : Nat := 3 * 2 ^ 53 + 6 * 2 ^ 22 + 1 * 2 ^ 16 + 4 * 2 ^ 6 + 2
def timed (en fired : Nat) (opened : Option OpenStream) : State :=
  { machine with
    mem := Memory.writeList [] 0x40 (bytesOfNat 64 descriptor)
    homes := [(0, { tlb := [{ asid := 0, vpage := 0, ps := 0, pages := 16, pbn := 0, bl := false, pin := true, cnt := false, mq := false }] })]
    windows := { dtime := 2001 * 2 ^ 16, geysers := [(2, { geyser en with fired := fired })], streams := [(9, { opened := opened })] } }
def openWord : Word64 := 9 * 2 ^ 52 + 0x40
theorem witness_TimeAndStreams : ((timed 32 3 none).windows.geyser 2).due (timed 32 3 none).windows.ns = false ∧
    ((timed 32 1 none).windows.geyser 2).due (timed 32 1 none).windows.ns = true ∧ (timed 0 0 none).mayGeyser 0 2 = true ∧
    ((timed 0 0 none).windows.geyser 2).en = false ∧ ((timed 32 0 none).windows.geyser 2).en = true ∧
    ({ regs := BitVec.ofNat 192 (32 + 999 * 2 ^ 64) } : Geyser).refused = true ∧ ({ regs := BitVec.ofNat 192 (32 + 1000 * 2 ^ 64) } : Geyser).refused = false ∧
    (timed 0 0 none).windows.ptpcfg.toNat % 4 = 0 ∧ ((timed 0 0 none).modWindows fun w => { w with ptpcfg := 1 }).windows.ptpcfg.toNat % 4 ≠ 0 ∧
    bitsOf (1 : Word64).toNat 7 6 ≠ 3 ∧ (timed 0 0 none).windows.dtime < State.timeOf (3 * 2 ^ 64) ∧ State.timeOf 0 ≤ (timed 0 0 none).windows.dtime ∧
    bitsOf (999999999 * 2 ^ 16) 47 16 ≤ 999999999 ∧ bitsOf openWord.toNat 59 52 = 9 ∧ bitsOf openWord.toNat 51 6 * 64 = 0x40 ∧
    ((timed 0 0 none).windows.streams.getD 9 {}).opened = none ∧ (timed 0 0 none).ownsBlocks 0 0 0 = true ∧ (timed 0 0 none).isPoisoned 0x40 = false ∧
    (timed 0 0 none).badStream 0 (natOfBytes ((timed 0 0 none).readMem 0x40 64)) = false ∧ (timed 0 0 none).badStream 0 (descriptor - 3 * 2 ^ 53) = true ∧
    (State.sinkPages 0 ((timed 0 0 none).hubQuad 0) 0 1 (timed 0 0 none) 0).2.toOption = some [(0, false)] ∧
    ((timed 0 0 (some (stream []))).windows.streams.getD 9 {}).opened = some (stream []) ∧ (timed 0 0 none).arrivalsOver = false ∧
    (stream []).ports.testBit 1 = true ∧
    (timed 0 0 none).bar0Responds 0 0x4000 = true ∧ (timed 0 0 none).bar0Responds 0 0x28 = true := by
  and_intros <;> decide +kernel
/-- A token of a stream before the first tick, and for a slot that is past, ahead, filled, being copied and free. -/
theorem witness_TimeAndStreams_places :
    let s := windowed 32 [] []
    let w := s.windows
    (w.streams.getD 9 {}).opened = some (stream []) ∧ (w.geyser 2).period ≠ 0 ∧ 0 ≤ (w.geyser 2).start * 2 ^ 16 ∧
      0 < ({ regs := BitVec.ofNat 192 (32 + 1000 * 2 ^ 64 + 5 * 2 ^ 128) } : Geyser).start * 2 ^ 16 ∧
      w.tick (stream []) ((0 - (w.geyser 2).start * 2 ^ 16) / ((w.geyser 2).period * 2 ^ 16)) = .expired ∧
      w.tick (stream []) ((5000 * 2 ^ 16 - (w.geyser 2).start * 2 ^ 16) / ((w.geyser 2).period * 2 ^ 16)) = .early ∧
      w.tick (stream []) ((4000 * 2 ^ 16 - (w.geyser 2).start * 2 ^ 16) / ((w.geyser 2).period * 2 ^ 16)) = .slot {} ∧
      w.tick (stream [(0, { state := .late })]) 4 = .slot { state := .late } ∧
      w.tick (stream [(0, { copying := some 3 })]) 4 = .slot { copying := some 3 } := by
  and_intros <;> decide +kernel
/-- Datagrams: one too short, one whose length does not agree, and one for presentation time 1 s (R359). -/
theorem witness_TimeAndStreams_tokens : (List.replicate 15 (1 : Byte)).length < 16 ∧
    (let t : List Byte := [1, 9, 0, 1, 0, 0, 0, 0, 0, 1, 0, 0, 0, 0, 0, 0, 42]
     16 ≤ t.length ∧ State.bigEndian ((t.drop 1).take 1) = 9 ∧ t.headD 0 = 1 ∧ State.bigEndian ((t.drop 2).take 2) = t.length - 16 ∧
      State.bigEndian ((t.drop 2).take 2) ≤ 2 ^ 6 ∧ bitsOf (State.bigEndian ((t.drop 4).take 12)) 47 16 ≤ 999999999) ∧
    (let t : List Byte := [1, 9, 0, 2, 0, 0, 0, 0, 0, 1, 0, 0, 0, 0, 0, 0, 42]
     State.bigEndian ((t.drop 2).take 2) ≠ t.length - 16) := by decide +kernel
theorem test_geyser : seen (exec (.geyserTick 2) (timed 32 1 none)) (fun t => (t.windows.geyser 2).fired) = some 3 := by decide +kernel

/-! ## Partitions and the host -/

/-- Partition 0 in a state, and partition 1, which waits for the same quad or does not, with a quantum of one microsecond that has
passed. -/
def parted (run : RunState) (waits : Option Nat) (cycle : Nat) : State :=
  { thread 1 [] with parts := [(0, { shape := [(0, 1)], run := run, quantum := 1, cycle := cycle, regions := [(3, region)] }),
                               (1, { shape := [(0, 1)], run := .frozen, waiting := waits })] }
/-- Partition 1 waits for quad 0, whose storage partition 0 last held, or partition 1 itself. -/
def waiting (owner : Nat) : State :=
  { machine with
    parts := [(0, { shape := [(0, 1)], run := .frozen }), (1, { shape := [(0, 1)], run := .frozen, waiting := some 0 })]
    owner := [(0, owner)] }
theorem witness_HostAndPartitions_partitions : ((parted .live none 0).part 0).run = .live ∧ (parted .live none 2249).quantumOver 0 = false ∧
    (parted .live none 2250).quantumOver 0 = true ∧ (parted .live (some 0) 2250).contended 0 ((parted .live (some 0) 2250).part 0).prio = true ∧
    (parted .live none 2250).contended 0 0 = false ∧
    (let s := (parted .live (some 0) 2250).modPart 0 fun P => { P with prio := 1 }
     s.quantumOver 0 = true ∧ s.contended 0 (s.part 0).prio = false ∧ s.contended 0 0 = true) ∧ ((parted .freezing none 0).part 0).run = .freezing ∧
    (parted .freezing none 0).draining 0 = false ∧ (waiting 1).serves 1 = true ∧ (waiting 1).mayTake 1 = true ∧
    ((shapeQuads ((waiting 1).part 1).shape).any fun q => decide ((waiting 1).owner.getD q 0 ≠ 1)) = false ∧
    ((waiting 0).parts.first? fun p P => P.hasQuad 0 && (waiting 0).mayTake p && decide ((waiting 0).owner.getD 0 0 ≠ p)) =
      some (1, { shape := [(0, 1)], run := .frozen, waiting := some 0 }) := by decide +kernel
/-- Function 1 with blocks 4 and 5, in a state; and function 2 with block 4 or 6. -/
def functions (en : Bool) (scrubbing snap : Bool) : State :=
  { loader with funcs := [(1, { en := en, scrubbing := scrubbing, snap := snap, pblo := 4, pbhi := 5, aslo := 1, ashi := 1 }),
                          (2, { en := true, pblo := 6, pbhi := 6, aslo := 2, ashi := 2 })] }
theorem witness_HostAndPartitions_functions : (functions true false false).bar2Reaches 1 ((functions true false false).bar2Addr 1 0x1FFC0) = true ∧
    (functions true false false).bar2Reaches 1 ((functions true false false).bar2Addr 1 0x20000) = false ∧
    (List.replicate 64 (1 : Byte)).length ≤ 64 - (functions true false false).bar2Addr 1 0x1FFC0 % 64 ∧
    ((functions false false false).func 1).en = false ∧ (functions false false false).firmware.state ≠ .failed ∧
    ((functions false false false).funcs.any fun y => decide (y.1 ≠ 1 ∧ y.1 ≠ 0) && y.2.en &&
      State.Func.overlaps ((functions false false false).func 1) y.2) = false ∧
    ((functions true false false).func 1).en = true ∧ (0 : Word64).getLsbD 63 = false ∧ ((functions true true false).func 1).scrubbing = true ∧
    Memory.wf (functions true true false).mem = true ∧ ((functions true false true).func 1).snap = true ∧ ((functions true false false).part 0).run ≠ .frozen ∧
    ((parted .frozen none 0).part 0).run = .frozen ∧ ((functions true false false).func 0).quote = none ∧ (0x2000 : Word64).toNat % 64 = 0 ∧
    (functions true false false).ownsBlocks 0 (0x2000 / blockBytes) ((0x2000 + 64 + 20479) / blockBytes) = true ∧
    ((functions true false false).modFunc 0 fun f => { f with quote := some 0x2000 }).func 0 = { quote := some 0x2000 } ∧
    ({ parted .frozen none 0 with exports := [([], { part := {} })] } : State).recordAt 0 = some { part := {} } ∧
    ({} : Partition).shape = ((functions true false false).part 3).shape ∧ (functions true false false).bar0Responds 0 0x20 = true ∧
    (parted .freezing none 0).fireAll.draining 0 = false ∧
    (({ parted .freezing none 0 with accesses := [(5, accessOf (.store [1] false) .home)] } : State)).fireAll.draining 0 = true ∧
    ((functions true false false).part 3).holdsQuads = false := by
  and_intros <;> decide +kernel
/-- Named quads, a poisoned line that the host writes in whole or in part, and a partition that drains. -/
theorem witness_HostAndPartitions_inputs : State.shapeOk [(0, 1), (4, 2)] = true ∧ (State.reset.part 5).holdsQuads = false ∧
    (State.reset.part 5).waiting = none ∧ (State.reset.part 5).regions = [] ∧
    (let s : State := { functions true false false with poison := [(functions true false false).bar2Addr 1 0 / 64] }
     s.bar2Reaches 1 (s.bar2Addr 1 0) = true ∧ s.isPoisoned (s.bar2Addr 1 0) = true ∧ (List.replicate 64 (1 : Byte)).length = 64 ∧
       ([9] : List Byte).length < 64 - s.bar2Addr 1 0 % 64) ∧
    (functions true false false).bar0Responds 1 0x68 = true ∧ (functions true false false).firmware.state ≠ .recovery := by
  and_intros <;> decide +kernel
theorem test_preempt : seen (exec (.quantumExpiry 0) (parted .live (some 0) 2250)) (fun t => (t.part 0).run) = some .freezing := by decide +kernel
/-- R250: with only a partition of lower priority waiting, the quantum does not start again. -/
theorem test_quantum : seen (exec (.quantumExpiry 0) ((parted .live (some 0) 2250).modPart 0 fun P => { P with prio := 1 })) (fun t =>
    ((t.part 0).run, (t.part 0).resumed)) = some (.live, 0) := by decide +kernel
theorem test_bar2 : seen (exec (.hostBar2Write 1 0x1FFFF [9] true) (functions true false false)) (fun t => t.mem) = some [⟨0x5FFFF, 9⟩] ∧
    seen (exec (.hostBar2Write 1 0x20000 [9] true) (functions true false false)) (fun t => t.mem) = some [] := by decide +kernel

/-! ## Links -/

/-- Link 1 in a state, owned by function 0 or 1, with a program at a step. -/
def step128 (op out lo : Nat) : FumStep := BitVec.ofNat 128 (op * 2 ^ 124 + 1 * 2 ^ 121 + out * 2 ^ 118 + lo)
def program (v : FumStep) : FumProgram :=
  { part := 0, tid := 1, gen := 0, asid := 0, h := .none, bound := 0, pseg := loader.seg 0, bseg := loader.seg 0, poff := 0, boff := 0, chunk := 1,
    nrank := 2, rank := 0, steps := [v], loaded := true }
def linked (st : LinkState) (owner : BitVec 5) (run : Nat) (g : Option FumProgram) : State :=
  { thread 1 [(1, 0x100), (2, 0x200), (3, 1), (4, 0x10001)] with
    fumaroles := [(1, { state := st, owner := owner, run := run, program := g })] }
theorem witness_LinksAndCollectives : ((linked .down 0 0 none).fum 1).state = .down ∧ ((linked .failed 0 0 none).fum 1).state = .failed ∧
    ((linked .up 0 0 none).fum 1).state = .up ∧ ((linked .training 0 0 none).fum 1).state = .training ∧ ((linked .up 0 14 none).fum 1).run + 1 < 16 ∧
    16 ≤ ((linked .up 0 15 none).fum 1).run + 1 ∧ bitsOf (2 * 2 ^ 24 + 1 * 2 ^ 8) 23 8 < bitsOf (2 * 2 ^ 24 + 1 * 2 ^ 8) 39 24 ∧
    Reads (linked .up 0 0 none) [1, 2, 3, 4] ∧ Takes (linked .up 0 0 none) 8 ∧ (linked .up 0 0 none).ctx.acquiring = [] ∧ (1 : BitVec 20) ≠ 0 ∧
    InSegment ((linked .up 0 0 none).seg 0) ((linked .up 0 0 none).val 1).toInt 16 rightR ∧ ((linked .up 0 0 none).val 1).toInt % 16 = 0 ∧
    InSegment ((linked .up 0 0 none).seg 0) ((linked .up 0 0 none).val 2).toInt 1 (rightR ||| rightW) ∧
    ((linked .up 1 0 none).fum 1).owner.toNat ≠ (linked .up 1 0 none).cur.part ∧ ((linked .up 0 0 none).fum 1).owner.toNat = 0 ∧
    ((linked .up 0 0 (some (program 0))).fum 1).program.isSome = true ∧ ((linked .up 0 0 none).fum 1).program = none ∧
    (linked .up 0 0 none).handleStatus ((linked .up 0 0 none).val 4).toNat false = some 5 ∧
    (linked .up 0 0 (some (program 0))).handleStatus ((linked .up 0 0 none).val 3).toNat false = none := by
  and_intros <;> decide +kernel
/-- Each OP of a step, and the turns of a loop below its count and at it. -/
theorem witness_LinksAndCollectives_steps : (program (step128 0 1 0)).stalled = none ∧ (program (step128 0 1 0)).loaded = true ∧
    (program (step128 0 1 0)).steps[(program (step128 0 1 0)).at_]? = some (step128 0 1 0) ∧ stepOp (step128 0 1 0) = 0 ∧ stepOut (step128 0 1 0) = 1 ∧
    stepOp (step128 4 1 0) = 4 ∧ (linked .up 0 0 (some (program (step128 4 1 0)))).fumWrites 1 = false ∧
    ({ linked .up 0 0 none with accesses := [(5, { accessOf (.store [1] false) .home with issuer := .fumarole 1 })] } : State).fumWrites 1 = true ∧
    stepOp (step128 5 0 (2 * 2 ^ 32)) = 5 ∧ (program 0).counters.getD (stepCtr (step128 5 0 (2 * 2 ^ 32))) 0 + 1 < bitsOf (step128 5 0 (2 * 2 ^ 32)).toNat 47 32 ∧
    bitsOf (step128 5 0 (1 * 2 ^ 32)).toNat 47 32 ≤ (program 0).counters.getD 0 0 + 1 ∧ stepOp (step128 6 0 0) = 6 ∧
    (linked .up 0 0 (some (program (step128 6 0 0)))).releaseDone 0 1 (.fumarole 1) .none = true ∧ (program 0).received = none ∧
    stepIn (step128 1 1 0) = 1 ∧ stepBlocks (step128 1 1 0) = 1 ∧ stepOp (step128 1 1 0) = 1 ∧ stepOp (step128 3 1 0) = 3 ∧ stepOp (step128 2 1 0) = 2 ∧
    (step128 2 1 0).getLsbD 115 = false := by
  and_intros <;> decide +kernel
/-- A walk for link 1 that has failed. -/
def unpaged : State :=
  { loader with walks := [{ pageWalk with quad := State.fumQuad 1, va := 0, asid := 5, engine := some (.fumarole 1), result := some (.fault 0) }] }
/-- A transfer that no acknowledgement has come for; handles of a program that has been replaced, new and waited for; a program not yet
loaded, whose table its segment does not hold; and the data steps: in and out of the buffer's segment, in memory and in the scratchpad. -/
theorem witness_LinksAndCollectives_data :
    (((linked .up 0 0 none).modFum 2 fun x => { x with awaiting := [(1, 0)] }).unacknowledged 1 = true) ∧
    (linked .up 0 0 none).unacknowledged 1 = false ∧
    ((linked .up 0 0 none).val 4).toNat ≠ ((linked .up 0 0 none).fum 1).seq.toNat * 2 ^ 16 + 1 ∧ (linked .up 0 0 none).ctx.phase = .fresh ∧
    ((linked .up 0 0 none).modCtx fun c => { c with phase := .asked 0 }).ctx.phase ≠ .fresh ∧
    (let g := { program 0 with loaded := false, steps := [], pseg := {} }
     (linked .up 0 0 (some g)).acquireDone 0 1 0 false g.h = true ∧ State.inSegment g.pseg g.poff 16 rightR = false) ∧
    (let v := step128 1 1 0
     let s := { linked .up 0 0 (some (program v)) with homes := [(State.fumQuad 1, { tlb :=
       [{ asid := 0, vpage := 0, ps := 0, pages := 16, pbn := 0, bl := false, pin := true, cnt := false, mq := false }] })] }
     let t := s.modProgram 1 fun g => { g with received := some [List.replicate 64 1] }
     let r := t.stepOffset 1 (program v) v
     let reader := State.fumReader 1 (program v) 1 true
     (s.fum (stepIn v)).state = .up ∧ (s.fum (stepOut v)).state = .up ∧ [List.replicate 64 (1 : Byte)].length = stepBlocks v ∧
       State.inSegment (loader.seg 0) r.2 64 (rightW ||| rightR) = true ∧ State.inSegment (loader.seg 1) r.2 64 rightW = true ∧
       (loader.seg 1).isK = true ∧ (loader.seg 0).isK = false ∧ State.inSegment {} r.2 64 rightW = false ∧
       (t.translateNow (.fumarole 1) 0 (State.fumQuad 1) 1 0 0).2.toOption = some ⟨0, false⟩ ∧
       errorOf (t.translateNow (.fumarole 1) 0 (State.fumQuad 1) 1 5 0).2 = some .held ∧
       errorOf (unpaged.translateNow (.fumarole 1) 0 (State.fumQuad 1) 1 5 0).2 = some (.fault 0) ∧
       r.2 = 0 ∧ (t.engineRead reader (loader.seg 0) 0 64).2 = .held ∧
       ((fetchedAs (.fumarole 1) 1 [0] t).engineRead reader (loader.seg 0) 0 64).2 = .bytes (List.replicate 64 0) none ∧
       ((poisonedAs (.fumarole 1) 1 [0] t).engineRead reader (loader.seg 0) 0 64).2 = .bytes (List.replicate 64 0) (some 64) ∧
       (unpaged.engineRead { reader with asid := 5 } (loader.seg 0) 0 64).2 = .fault 0 0) ∧ (step128 2 1 (2 ^ 115)).getLsbD 115 = true := by
  and_intros <;> decide +kernel
/-- A program of one word that is not yet read, with that word's bytes there. -/
def unread (w : FumStep) : State :=
  (linked .up 0 0 (some { program 0 with loaded := false, steps := [] })).modPart 0 fun P =>
    { P with fetched := [{ issuer := .fumarole 1, tag := 0, va := 0, bytes := bytesOfNat 16 w.toNat }] }
/-- A step with DIR 3, an END and another step are read; a transfer of two blocks meets a step of one. -/
theorem witness_LinksAndCollectives_checks :
    State.inSegment (program 0).pseg (program 0).poff 16 rightR = true ∧
    ([step128 0 0 (3 * 2 ^ 78), step128 6 0 0, step128 4 0 0].all fun w =>
      decide (((unread w).engineRead (State.fumReader 1 (program 0) 0 false) (loader.seg 0) 0 16).2 = .bytes (bytesOfNat 16 w.toNat) none)) = true ∧
    bitsOf (step128 0 0 (3 * 2 ^ 78)).toNat 79 78 = 3 ∧ stepOp (step128 6 0 0) = 6 ∧ bitsOf (step128 6 0 0).toNat 79 48 = 0 ∧
    stepOp (step128 4 0 0) = 4 ∧ ([[], []] : List (List Byte)).length ≠ stepBlocks (step128 1 1 0) ∧ (program 0).received = none := by
  refine ⟨?_, ?_, ?_, ?_, ?_, ?_, ?_, rfl⟩ <;> decide +kernel
/-- The banks of the scratchpad that a fumarole writes, in a cycle in which a thread has used one of them and in another; and a program
whose issuer has gone. -/
theorem witness_LinksAndCollectives_banks :
    ((linked .up 0 0 none).modCore 0 0 fun C => { C with banked := (1, [3]) }).bankTaken 0 0 0 64 = true ∧
    (linked .up 0 0 none).bankTaken 0 0 0 64 = false ∧ (program 0).orphan = false ∧
    ((linked .up 0 0 (some (program 0))).threadCtx 0 1).gen = (program 0).gen ∧ ((linked .up 0 0 (some (program 0))).threadCtx 0 1).uid = (program 0).uid ∧
    ({ program 0 with gen := 1 } : FumProgram).gen ≠ ((linked .up 0 0 none).threadCtx 0 1).gen := by
  and_intros <;> decide +kernel
/-- R381: BADPROG before any step runs, and MISMATCH. -/
theorem test_program_checks :
    seen (exec (.send 1) (unread (step128 7 0 0))) (fun t => ((t.fum 1).program.isSome, (t.fum 1).ended)) = some (false, [(0, 4)]) ∧
    seen (exec (.recv 1 [[], []]) (linked .up 0 0 (some (program (step128 1 1 0))))) (fun t => ((t.fum 1).program.isSome, (t.fum 1).ended)) =
      some (false, [(0, 3)]) := by
  decide +kernel
theorem test_cstart : seen (exec (.cstart .none 8 1 2 0 0 1 1) (linked .up 0 0 none)) (fun t => ((t.reg 8).val, (t.fum 1).program.isSome, t.ctx.pc - (linked .up 0 0 none).ctx.pc)) =
    some (0x10001, true, 3) ∧ seen (exec (.cstart .none 8 1 2 0 0 1 1) (linked .up 1 0 none)) (fun t => (t.reg 8).val) = some 0x3000000000000001 := by
  decide +kernel

/-! ## Boot -/

def booting (st : BootState) : State := { machine with firmware := { state := st } }
theorem witness_BootAndErrors : (booting .verify).firmware.state = .verify ∧ (booting .recovery).firmware.state = .recovery ∧
    (booting .run).firmware.state ≠ .recovery ∧ (booting .start).firmware.state = .start ∧ (booting .run).ringOk 0 4 = true ∧
    (functions true false false).ringOk 1 4 = false ∧
    (0x200 : Word64).getLsbD 9 = true ∧ (0x1000 : Word64).getLsbD 9 = false := by decide +kernel
/-- The last core of a partition of two quads, whose state nothing has touched. -/
theorem witness_BootAndErrors_cores : (1, 7) ∈ ({ machine with parts := [(1, { shape := [(0, 2)], run := .live })] } : State).runningCores ∧
    (1 : Nat) ∈ shapeQuads [(0, 2)] := by decide +kernel
theorem test_boot : seen (exec (.bootStartDone []) (booting .start)) (fun t => t.firmware.state) = some .run := by decide +kernel

/-! ## The machine -/

/-- The machine right after reset, with a word where the next step fetches. -/
def placedWord (w : Nat) : State := State.reset.withFetchWord 32 w
theorem test_reset_moves : moves State.reset = [.event .powerOn, .tick] := by decide +kernel
theorem witness_StepRunsDecoded : moves (placedWord 0x00008044) = [.issue 0 0 0 false] ∧
    ((placedWord 0x00008044).beginIssue 0 0 0 false).ctx.rep = none ∧
    ((match ((placedWord 0x00008044).beginIssue 0 0 0 false).fetchAt 0 with
      | .ok x => (decodeWords x.2).toOption
      | .error _ => none) = some (.call 64, [])) ∧
    ((match ((placedWord 0x000001FC).beginIssue 0 0 0 false).fetchAt 0 with
      | .ok x => (decodeWords x.2).toBool
      | .error _ => true) = false) ∧
    ((((placedWord 0).modContext 0 0 0 fun c => { c with pc := 0x4000 }).beginIssue 0 0 0 false).fetchAt 0x4000).toBool = false := by decide +kernel
/-- Two threads of two cores that may issue; a fetch at the last word of the code segment, and a code segment without X. -/
theorem witness_StepRunsDecoded_fetch :
    1 < (moves ((placedWord 0x60).modContext 0 1 0 fun c => { c with state := .runnable })).length ∧ (placedWord 0x60).ctx.code = none ∧
    InSegment ((placedWord 0x60).seg 7) ((0xFFFC : Int) - ((placedWord 0x60).seg 7).base.toNat) 4 rightX ∧ Placed (placedWord 0x60) 0xFFFC 4 false ∧
    ((placedWord 0x60).usePart 0xFFFC).1.isPoisoned ((placedWord 0x60).usePart 0xFFFC).2.pa = false ∧
    ((placedWord 0x60).usePart 0xFFFC).1.stale.find? ((placedWord 0x60).usePart 0xFFFC).2.pa = none ∧
    ¬ InSegment ((placedWord 0x60).seg 7) ((0x100000000000 * 4 : Int) - ((placedWord 0x60).seg 7).base.toNat) 4 rightX ∧
    ¬ InSegment (((placedWord 0x60).modContext 0 0 0 fun c => { c with segs := Vector.replicate 8 {} }).seg 7) 0 4 rightX := by
  and_intros <;> decide +kernel
/-- A deterministic partition with one thread that may issue, and with one in each of two cores. -/
def detWord : State := (placedWord 0x60).modPart 0 fun P => { P with det := true }
theorem witness_StepRunsDecoded_within : (partMoves detWord 0 (detWord.part 0)).1 = [.issue 0 0 0 false] ∧ moves detWord = [.within 0] ∧
    (let s := detWord.modContext 0 1 0 fun c => { c with state := .runnable }
     (partMoves s 0 (s.part 0)).1 = [.issue 0 0 0 false, .issue 0 1 0 false]) := by decide +kernel
theorem test_step : seen (step (placedWord 0x00008044)) (fun t => ((t.reg 15).val, t.ctx.pc)) = some (4, 64) := by decide +kernel

theorem witness_DecodeOfEncode : (Instr.cpy2Lit ⟨.sy, true, true⟩ 15 14 13 7 6 0xFFFFFFFFFFFFFFFF 0xFFFF 0xFFFFFF).wf = true ∧
    agentStep (.cpy2Lit ⟨.sy, true, true⟩ 15 14 13 7 6 0xFFFFFFFFFFFFFFFF 0xFFFF 0xFFFFFF) = false ∧ agentStep (.tableWalk 0) = true ∧
    (decodeWords (encode (.add .w64 15 15 15) ++ [7])).toOption = some (.add .w64 15 15 15, [7]) := by decide +kernel
theorem witness_MemoryStaysCanonical : Memory.wf (placedWord 0x60).mem = true ∧ (seen (step (placedWord 0x60)) fun t => t.ctx.pc) = some 1 := by
  decide +kernel
/-- A register instruction, an access and a vector instruction whose registers no channel is mapped to. -/
theorem witness_InstructionFrames : (∀ r ∈ ([1, 2] : List Reg), loader.chan r = none) ∧ loader.chan 8 = none ∧ loader.ctx.rep = none := by
  decide +kernel

end Sys2Proof.Tests
end

section
/-!
SUPPORT. Integer instructions of general registers (R120 to R132): their arms of `exec`, the model's operands and results as
numbers tied to bit vectors at a width, and what a register or literal form leaves once its value function is known.
-/
namespace Sys2Proof.Machine

open Sys2Proof.Says

/-! ## Numbers at a width as bit vectors (R121) -/

theorem signedOf_toNat {n : Nat} (x : BitVec n) : signedOf n x.toNat = x.toInt := by
  have half : x.toNat < 2 ^ (n - 1) ↔ 2 * x.toNat < 2 ^ n := by
    cases n with
    | zero => simp [BitVec.of_length_zero]
    | succ k => rw [Nat.add_sub_cancel, Nat.pow_succ]; omega
  simp only [signedOf, BitVec.toInt_eq_toNat_cond, Nat.mod_eq_of_lt x.isLt, half]

theorem wrapTo_eq_toNat (n : Nat) (i : Int) : wrapTo n i = (BitVec.ofInt n i).toNat := (BitVec.toNat_ofInt i).symm

@[simp] theorem ofNat_wrapTo (n : Nat) (i : Int) : BitVec.ofNat n (wrapTo n i) = BitVec.ofInt n i := by
  rw [wrapTo_eq_toNat, BitVec.ofNat_toNat, BitVec.setWidth_eq]

theorem lowOf_eq_toNat (w : Width) (v : Word64) : lowOf w v = (v.setWidth w.bits).toNat :=
  (BitVec.toNat_setWidth _ _).symm

/-- Only the low bits of a result are stored. -/
theorem extendTo_eq_wide (w : Width) (a b : Word64) {f : (n : Nat) → BitVec n → BitVec n → BitVec n} {v : Nat}
    (h : BitVec.ofNat w.bits v = f w.bits (a.setWidth w.bits) (b.setWidth w.bits)) : extendTo w v = wide w f a b := by
  cases w with
  | w32 => exact congrArg (BitVec.signExtend 64) h
  | w64 => simpa [wide, extendTo, Width.bits] using h

theorem test_eq (w : Width) (c : (n : Nat) → BitVec n → BitVec n → Bool) (a b : Word64) :
    test w c a b = c w.bits (a.setWidth w.bits) (b.setWidth w.bits) := by
  cases w with
  | w32 => rfl
  | w64 => simp [test, Width.bits]

/-! ## Register and literal forms (R122) -/

/-- A value function of the model gives `f` of its two operands, and the flag `fl` exactly where `c` holds, at every width. -/
structure Computes (val : Nat → Nat → Nat → Nat × Flags) (f : (n : Nat) → BitVec n → BitVec n → BitVec n)
    (c : (n : Nat) → BitVec n → BitVec n → Bool) (fl : Flags) : Prop where
  value (n : Nat) (x y : BitVec n) : BitVec.ofNat n (val n x.toNat y.toNat).1 = f n x y
  flags (n : Nat) (x y : BitVec n) : (val n x.toNat y.toNat).2 = if c n x y then fl else 0

theorem Computes.extendTo_fst {val f c fl} (h : Computes val f c fl) (w : Width) (a b : Word64) :
    extendTo w (val w.bits (lowOf w a) (lowOf w b)).1 = wide w f a b := by
  rw [lowOf_eq_toNat, lowOf_eq_toNat]
  exact extendTo_eq_wide w a b (h.value _ _ _)

theorem Computes.snd {val f c fl} (h : Computes val f c fl) (w : Width) (a b : Word64) :
    (val w.bits (lowOf w a) (lowOf w b)).2 = if test w c a b then fl else 0 := by
  rw [lowOf_eq_toNat, lowOf_eq_toNat, h.flags, test_eq]

namespace State

/-- A synchronous instruction whose sources can be read and whose destination takes a result completes. -/
theorem settle_alu {s : State} {len : Nat} {d : Reg} {srcs : List Reg} {v : Word64} {f : Flags}
    (ht : Takes s d) (hr : Reads s srcs) : s.settle (s.alu len d srcs v f) = wrote s len d srcs v f := by
  obtain ⟨hp, hc⟩ := ht
  rw [alu_ok (ready_ok hr) (free_ok hp hc), settle_ok]

theorem settle_regForm {s : State} {val f c fl} (h : Computes val f c fl) (w : Width) {d a b : Reg} (ht : Takes s d)
    (hr : Reads s [a, b]) : s.settle (s.regForm val w d a b) =
      wrote s 4 d [a, b] (wide w f (s.val a) (s.val b)) (if test w c (s.val a) (s.val b) then fl else 0) := by
  rw [regForm, settle_alu ht hr, h.extendTo_fst, h.snd]

theorem settle_litForm {s : State} {val f c fl} (h : Computes val f c fl) (w : Width) {d a : Reg} (lit : Word64)
    (ht : Takes s d) (hr : Reads s [a]) : s.settle (s.litForm val w d a lit) =
      wrote s 12 d [a] (wide w f (s.val a) lit) (if test w c (s.val a) lit then fl else 0) := by
  rw [litForm, settle_alu ht hr, h.extendTo_fst, h.snd]

end State

/-! ## Arms of `exec`: division and saturating arithmetic -/

section Arms
variable (w : Width) (d a b : Reg) (lit : Word64) (s : State)

theorem exec_div : exec (.div w d a b) s = .next (s.settle (s.regForm valDiv w d a b)) := rfl
theorem exec_divu : exec (.divu w d a b) s = .next (s.settle (s.regForm valDivu w d a b)) := rfl
theorem exec_rem : exec (.rem w d a b) s = .next (s.settle (s.regForm valRem w d a b)) := rfl
theorem exec_remu : exec (.remu w d a b) s = .next (s.settle (s.regForm valRemu w d a b)) := rfl
theorem exec_divLit : exec (.divLit w d a lit) s = .next (s.settle (s.litForm valDiv w d a lit)) := rfl
theorem exec_divuLit : exec (.divuLit w d a lit) s = .next (s.settle (s.litForm valDivu w d a lit)) := rfl
theorem exec_remLit : exec (.remLit w d a lit) s = .next (s.settle (s.litForm valRem w d a lit)) := rfl
theorem exec_remuLit : exec (.remuLit w d a lit) s = .next (s.settle (s.litForm valRemu w d a lit)) := rfl
theorem exec_adds : exec (.adds w d a b) s = .next (s.settle (s.regForm valAdds w d a b)) := rfl
theorem exec_subs : exec (.subs w d a b) s = .next (s.settle (s.regForm valSubs w d a b)) := rfl
theorem exec_addsLit : exec (.addsLit w d a lit) s = .next (s.settle (s.litForm valAdds w d a lit)) := rfl
theorem exec_subsLit : exec (.subsLit w d a lit) s = .next (s.settle (s.litForm valSubs w d a lit)) := rfl

end Arms

end Sys2Proof.Machine
end

section
/-!
SUPPORT. Division (R125): each value function gives the quotient or the remainder of R125 at every width, and DZ exactly for a
zero divisor; with them O2.
-/
namespace Sys2Proof.Machine

open Sys2Proof.Says

/-- The divisor at the width is zero. -/
def zeroDivisor (n : Nat) (_ y : BitVec n) : Bool := decide (y = 0)

theorem dz_eq (w : Width) (a b : Word64) : dz w a b = if test w zeroDivisor a b then flagDz else 0 := rfl

theorem toNat_eq_zero_iff {n : Nat} (y : BitVec n) : y.toNat = 0 ↔ y = 0 := by
  rw [← BitVec.toNat_inj, BitVec.ofNat_eq_ofNat, BitVec.toNat_ofNat, Nat.zero_mod]

theorem ofNat_two_pow_sub_one (n : Nat) : BitVec.ofNat n (2 ^ n - 1) = BitVec.allOnes n :=
  BitVec.eq_of_toNat_eq (by simp)

theorem ofInt_tdiv {n : Nat} (x y : BitVec n) : BitVec.ofInt n (x.toInt.tdiv y.toInt) = x.sdiv y :=
  BitVec.eq_of_toInt_eq (by rw [BitVec.toInt_ofInt, BitVec.toInt_sdiv])

theorem ofInt_tmod {n : Nat} (x y : BitVec n) : BitVec.ofInt n (x.toInt.tmod y.toInt) = x.srem y := by
  rw [← BitVec.toInt_srem, BitVec.ofInt_toInt]

/-- R125's case of the most negative value over −1 is what the truncated quotient gives modulo 2^wid. -/
theorem quotient_of_ne_zero {n : Nat} (x : BitVec n) {y : BitVec n} (hy : y ≠ 0) : quotient n x y = x.sdiv y := by
  rw [quotient, if_neg hy, ofInt_tdiv]
  split
  next h => rw [h.1, h.2, ← BitVec.neg_one_eq_allOnes, BitVec.intMin_sdiv_neg_one]
  next => rfl

/-- The remainder of a division by −1 is 0, so that case of R125 is no exception either. -/
theorem remainder_of_ne_zero {n : Nat} (x : BitVec n) {y : BitVec n} (hy : y ≠ 0) : remainder n x y = x.srem y := by
  rw [remainder, if_neg hy, ← Int.tmod_def, ofInt_tmod]
  split
  next h =>
    obtain ⟨rfl, rfl⟩ := h
    have hn : 0 < n := Nat.pos_of_ne_zero (mt BitVec.allOnes_eq_zero_iff.mpr hy)
    apply BitVec.eq_of_toInt_eq
    rw [BitVec.toInt_srem, BitVec.toInt_allOnes, if_pos hn, Int.tmod_neg, Int.tmod_one]
    exact BitVec.toInt_zero
  next => rfl

/-- A value function that gives `z` and DZ for a zero divisor, and `q` without a flag for every other. -/
theorem computes_division {z : Nat → Nat → Nat} {q : Nat → Nat → Nat → Nat} {f : (n : Nat) → BitVec n → BitVec n → BitVec n}
    (hz : ∀ n x, BitVec.ofNat n (z n x.toNat) = f n x 0)
    (hq : ∀ n x y, y ≠ 0 → BitVec.ofNat n (q n x.toNat y.toNat) = f n x y) :
    Computes (fun n a b => if b = 0 then (z n a, flagDz) else (q n a b, 0)) f zeroDivisor flagDz where
  value n x y := by
    by_cases hy : y = 0
    · rw [if_pos ((toNat_eq_zero_iff y).mpr hy), hy, hz]
    · rw [if_neg (mt (toNat_eq_zero_iff y).mp hy), hq n x y hy]
  flags n x y := by
    by_cases hy : y = 0
    · rw [if_pos ((toNat_eq_zero_iff y).mpr hy), zeroDivisor, if_pos (decide_eq_true hy)]
    · rw [if_neg (mt (toNat_eq_zero_iff y).mp hy), zeroDivisor, if_neg (by simpa using hy)]

theorem computes_valDiv : Computes valDiv quotient zeroDivisor flagDz :=
  computes_division (z := fun n _ => 2 ^ n - 1) (q := fun n a b => wrapTo n ((signedOf n a).tdiv (signedOf n b)))
    (fun n x => by rw [ofNat_two_pow_sub_one, quotient, if_pos rfl])
    (fun n x y hy => by rw [ofNat_wrapTo, signedOf_toNat, signedOf_toNat, ofInt_tdiv, quotient_of_ne_zero x hy])

theorem computes_valDivu : Computes valDivu divu zeroDivisor flagDz :=
  computes_division (z := fun n _ => 2 ^ n - 1) (q := fun _ a b => a / b)
    (fun n x => by rw [ofNat_two_pow_sub_one, divu, if_pos rfl])
    (fun n x y hy => by rw [divu, if_neg hy, BitVec.udiv_def])

theorem computes_valRem : Computes valRem remainder zeroDivisor flagDz :=
  computes_division (z := fun _ a => a) (q := fun n a b => wrapTo n ((signedOf n a).tmod (signedOf n b)))
    (fun n x => by rw [BitVec.ofNat_toNat, BitVec.setWidth_eq, remainder, if_pos rfl])
    (fun n x y hy => by rw [ofNat_wrapTo, signedOf_toNat, signedOf_toNat, ofInt_tmod, remainder_of_ne_zero x hy])

theorem computes_valRemu : Computes valRemu remu zeroDivisor flagDz :=
  computes_division (z := fun _ a => a) (q := fun _ a b => a % b)
    (fun n x => by rw [BitVec.ofNat_toNat, BitVec.setWidth_eq, remu, if_pos rfl])
    (fun n x y hy => by rw [remu, if_neg hy, BitVec.umod_def])

/-- Settles O2: the four value functions through the register and the literal form. -/
theorem divisionCompletes : Obligations.DivisionCompletes := by
  intro s w d a b lit ht
  refine ⟨fun hr => ⟨?_, ?_, ?_, ?_⟩, fun hr => ⟨?_, ?_, ?_, ?_⟩⟩
  · rw [exec_div, State.settle_regForm computes_valDiv w ht hr, dz_eq]
  · rw [exec_divu, State.settle_regForm computes_valDivu w ht hr, dz_eq]
  · rw [exec_rem, State.settle_regForm computes_valRem w ht hr, dz_eq]
  · rw [exec_remu, State.settle_regForm computes_valRemu w ht hr, dz_eq]
  · rw [exec_divLit, State.settle_litForm computes_valDiv w lit ht hr, dz_eq]
  · rw [exec_divuLit, State.settle_litForm computes_valDivu w lit ht hr, dz_eq]
  · rw [exec_remLit, State.settle_litForm computes_valRem w lit ht hr, dz_eq]
  · rw [exec_remuLit, State.settle_litForm computes_valRemu w lit ht hr, dz_eq]

end Sys2Proof.Machine
end

section
/-!
SUPPORT. Saturating arithmetic (R127): what clipping to the signed range gives, and SAT exactly outside it; with it O3.
-/
namespace Sys2Proof.Machine

open Sys2Proof.Says

/-- The exact signed value of two operands lies outside the signed range of the width. -/
def overflows (g : Int → Int → Int) (n : Nat) (x y : BitVec n) : Bool := outside n (g x.toInt y.toInt)

theorem sat_eq (w : Width) (g : Int → Int → Int) (a b : Word64) :
    sat w g a b = if test w (overflows g) a b then flagSat else 0 := rfl

theorem clipTo_fst {lo hi : Int} (h : lo ≤ hi) (v : Int) : (clipTo lo hi v).1 = max lo (min v hi) := by
  unfold clipTo
  split
  · simp only; omega
  · split <;> simp only <;> omega

theorem clipTo_snd (lo hi v : Int) : (clipTo lo hi v).2 = decide (v < lo ∨ hi < v) := by
  unfold clipTo
  split
  next h => simp [h]
  next h => split <;> simp_all

theorem signedLo_eq (n : Nat) : signedLo n = -2 ^ (n - 1) := by simp [signedLo]
theorem signedHi_eq (n : Nat) : signedHi n = 2 ^ (n - 1) - 1 := by simp [signedHi]

theorem signedLo_le_signedHi (n : Nat) : signedLo n ≤ signedHi n := by
  have := Nat.two_pow_pos (n - 1)
  unfold signedLo signedHi
  omega

theorem ofNat_clipped_fst (n : Nat) (v : Int) : BitVec.ofNat n (clipped n v).1 = clip n v := by
  simp only [clipped, ofNat_wrapTo]
  rw [clipTo_fst (signedLo_le_signedHi n), signedLo_eq, signedHi_eq, clip]

theorem clipped_snd (n : Nat) (v : Int) : (clipped n v).2 = if outside n v then flagSat else 0 := by
  simp only [clipped, flagIf]
  rw [clipTo_snd, signedLo_eq, signedHi_eq, outside]

/-- A value function that clips the exact value `g` of its operands. -/
theorem computes_clipped (g : Int → Int → Int) :
    Computes (fun n a b => clipped n (g (signedOf n a) (signedOf n b))) (fun n x y => clip n (g x.toInt y.toInt))
      (overflows g) flagSat where
  value n x y := by rw [signedOf_toNat, signedOf_toNat, ofNat_clipped_fst]
  flags n x y := by rw [signedOf_toNat, signedOf_toNat, clipped_snd, overflows]

theorem computes_valAdds : Computes valAdds (fun n x y => clip n (x.toInt + y.toInt)) (overflows (· + ·)) flagSat :=
  computes_clipped (· + ·)

theorem computes_valSubs : Computes valSubs (fun n x y => clip n (x.toInt - y.toInt)) (overflows (· - ·)) flagSat :=
  computes_clipped (· - ·)

/-- Settles O3: the clipped sum and difference through the register and the literal form. -/
theorem saturatingCompletes : Obligations.SaturatingCompletes := by
  intro s w d a b lit ht
  refine ⟨fun hr => ⟨?_, ?_⟩, fun hr => ⟨?_, ?_⟩⟩
  · rw [exec_adds, State.settle_regForm computes_valAdds w ht hr, sat_eq]
  · rw [exec_subs, State.settle_regForm computes_valSubs w ht hr, sat_eq]
  · rw [exec_addsLit, State.settle_litForm computes_valAdds w lit ht hr, sat_eq]
  · rw [exec_subsLit, State.settle_litForm computes_valSubs w lit ht hr, sat_eq]

end Sys2Proof.Machine
end
